-- ==== Sys2Proof/Word.lean ====
section
/-! DEFINITION. The word types of the model and the one shape of its tables. Everything a test could mend
(bit fields, byte order, rounding) stands under Sys2Proof/Machine/. -/
namespace Sys2Proof

/-- One byte. -/
abbrev Byte := BitVec 8

/-- A sample word of R178: value in [31:8], flags in [7:0]. -/
abbrev SampleWord := BitVec 32

/-- A binary64 number, by its bits. -/
abbrev F64 := BitVec 64

/-- A table from numbers to values: pairs in rising order of their number, each number at most once.
An unlisted number holds the default that each reading names. -/
abbrev Tab (α : Type) := List (Nat × α)

end Sys2Proof
end

