-- ==== Sys2Proof/Syntax.lean ====
section
/-! DEFINITION. The commands of the block: one constructor of `Instr` for each row of the table, with the operands
that the row's rule says arrive from outside: the header and payload of a mailbox request, an instant in refs, a
measured value, a received frame, or which unit is meant. -/
namespace Sys2Proof

/-- Who touches a register or a mailbox (R355, R401, R409). -/
inductive Requester where
  | pcie | spi | collA | collB
deriving DecidableEq, Repr

/-- The header of a mailbox request (R359). The opcode is the constructor of the command itself. -/
structure ReqHdr where
  mbx       : Fin 8
  seq       : BitVec 16
  length    : BitVec 16 := 0
  flags     : BitVec 16 := 0
  applyTick : BitVec 32 := 0
  func      : BitVec 16 := 0
  res       : BitVec 16 := 0
deriving DecidableEq, Repr

/-- The tick means of one excitation group (R90): current in 0.5 µA, voltage in 0.1 mV, pin voltages in mV. -/
structure ExcMean where
  iMean : Nat := 0
  vMean : Int := 0
  vin   : List Int := []
deriving DecidableEq, Repr

/-- What the hub's own monitors have measured over the tick that ends (R41, R90, R405). -/
structure TickIn where
  /-- completed cycles of each pace monitor over the tick; 0 for none counted -/
  paceCount : List Nat := []
  /-- mean temperatures in 0.01 °C: core, then tiles 0 to 3 -/
  temps     : List Int := []
  /-- VCORE in 0.1 mV -/
  vcore     : Nat := 0
  /-- VEXC0 to VEXC3 in mV -/
  vexc      : List Nat := []
  /-- the frequency offset of each port's recovered receive clock against REFCLK, in 2^-40; ports that are not listed were not
  measured -/
  recovered : List (Nat × Int) := []
  /-- means of the excitation groups that are listed -/
  exc       : List (Nat × ExcMean) := []
deriving DecidableEq, Repr

/-- An analogue ball that can clamp (R99); of a differential input, the positive or the negative one. -/
inductive Pin where
  | ain (slot : Fin 512) (neg : Bool)
  | wb (ch : Fin 16) (neg : Bool)
  | aux (tile : Fin 4) (i : Fin 16)
  | auxCom (tile : Fin 4)
  | calRef (tile : Fin 4) (neg : Bool)
deriving DecidableEq, Repr

/-- A row of the table of R103 with its slot or group. -/
inductive WireFault where
  | voltage (g : Fin 128)
  | current (g : Fin 128)
  | iepeOpen (slot : Fin 512)
  | iepeShort (slot : Fin 512)
  | sense (g : Fin 128)
  | signal (slot : Fin 512)
deriving DecidableEq, Repr

/-- How a PTP message arrived (R52, R59): its physical port, its domain, whether over UDP, and the block-alignment delay of
its frame in 2^-16 ns. -/
structure PtpRx where
  port   : Fin 4
  domain : Nat := 0
  udp    : Bool := false
  b      : Nat := 0
deriving DecidableEq, Repr

/-- A Sync from the parent (R55): sequence, whether it is two-step, origin and ingress stamps in 2^-16 ns, and the
correction field in 2^-16 ns; `b` is the block-alignment delay of R59. -/
structure SyncMsg where
  port    : Fin 4
  domain  : Nat := 0
  udp     : Bool := false
  seq     : Nat
  twoStep : Bool
  origin  : Nat
  corr    : Int := 0
  ingress : Nat
  b       : Nat := 0
deriving DecidableEq, Repr

/-- The receipt timestamp and the correction field of a Delay_Resp (R52), in 2^-16 ns. -/
structure RespTimes where
  receipt : Nat
  corr    : Int := 0
deriving DecidableEq, Repr

/-- A Follow_Up (R52). -/
structure FollowUpMsg where
  rx     : PtpRx
  seq    : Nat
  origin : Nat
  corr   : Int := 0
deriving DecidableEq, Repr

/-- The data set of an Announce message (R54, IEEE 1588-2019). -/
structure AnnounceData where
  prio1      : Nat := 128
  clockClass : Nat := 6
  accuracy   : Nat := 0x21
  variance   : Nat := 0
  prio2      : Nat := 128
  gmId       : BitVec 64
  steps      : Nat := 0
  sender     : BitVec 80 := 0
  utcOffset  : Int := 37
deriving DecidableEq, Repr

/-- The MAC stamps of a frame that the switch forwards, in 2^-16 ns (R56, R58): at its ingress, with the block-alignment delay,
and at its egress out of each physical port. -/
structure FrameStamps where
  rx : Nat := 0
  b  : Nat := 0
  tx : List Nat := []
deriving DecidableEq, Repr

/-- A datagram as it reaches the hub: physical port, source address and port, body. -/
structure Dgram where
  port    : Fin 4
  src     : BitVec 128 := 0
  srcPort : Nat := 0
  dstPort : Nat := 0
  body    : List Byte
deriving DecidableEq, Repr

/-- The payload of a ring control frame (R436). -/
structure RingFrame where
  port : Nat
  hub  : Nat
  seq  : Nat
deriving DecidableEq, Repr

/-- What the per-byte code reports of one stored symbol that was read (R248). -/
inductive SymKind where
  | corrected
  | uncorrectable
  | miscorrected (b : Byte)
deriving DecidableEq, Repr

/-- One symbol in error, by its byte offset from the start of the access. -/
structure SymErr where
  ofs  : Nat
  kind : SymKind
deriving DecidableEq, Repr

/-- The commands. -/
inductive Instr where
  /-- PORN_RISE (R449) -/
  | pornRise
  /-- PORN_FALL (R457) -/
  | pornFall (prog : List (Nat × Byte))
  /-- MEM_FILL_COMPLETE (R250) -/
  | memFillComplete
  /-- BOOT_CODE_RUN (R456) -/
  | bootCodeRun (aFails bFails : Bool)
  /-- FIRMWARE_START (R449) -/
  | firmwareStart
  /-- PWRFAILN_ASSERT (R451) -/
  | pwrfailnAssert (t : Nat)
  /-- PWRFAILN_RELEASE (R452) -/
  | pwrfailnRelease (t : Nat)
  /-- INTERNAL_POWER_ON_RESET (R452) -/
  | internalPowerOnReset
  /-- PERSTN_ASSERT (R484) -/
  | perstnAssert
  /-- TICK_BOUNDARY (R4) -/
  | tickBoundary (m : TickIn)
  /-- PACE_ALARM_CLEAR (R42) -/
  | paceAlarmClear (seg : Fin 24)
  /-- EXC_POWER_NOTICE (R94) -/
  | excPowerNotice (tile : Fin 4)
  /-- EXC_POWER_SHUTOFF (R94) -/
  | excPowerShutoff (tile : Fin 4)
  /-- TEMP_ALARM (R488) -/
  | tempAlarm (die : Fin 5)
  /-- TEMP_ALARM_CLEAR (R488) -/
  | tempAlarmClear (die : Fin 5)
  /-- MONITOR_AUTO_SWAP (R421) -/
  | monitorAutoSwap (m : Fin 32)
  /-- REDUCTION_INTERVAL_END (R195) -/
  | reductionIntervalEnd (inst : Nat)
  /-- RECORD_COMPLETE (R239) -/
  | recordComplete (group : Fin 8)
  /-- FILT_SWAP_COMPLETE (R150) -/
  | filtSwapComplete
  /-- DRAIN_END (R462) -/
  | drainEnd (id : Nat)
  /-- FUNCTION_OFF (R462) -/
  | functionOff (id : Nat)
  /-- SYNC_RECEIVED (R55) -/
  | syncReceived (m : SyncMsg)
  /-- FOLLOW_UP_RECEIVED (R52) -/
  | followUpReceived (m : FollowUpMsg)
  /-- ANNOUNCE_RECEIVED (R54) -/
  | announceReceived (x : PtpRx) (a : AnnounceData)
  /-- DELAY_REQ_SEND (R53) -/
  | delayReqSend (port : Fin 4) (egress : Nat)
  /-- DELAY_RESP_RECEIVED (R52) -/
  | delayRespReceived (x : PtpRx) (seq : Nat) (r : RespTimes)
  /-- SYNC_TIMEOUT (R71) -/
  | syncTimeout
  /-- ANNOUNCE_RECEIPT_TIMEOUT (R71) -/
  | announceReceiptTimeout
  /-- SERVO_WATCHDOG (R55) -/
  | servoWatchdog (t : Nat)
  /-- MASTER_QUALIFIED (R72) -/
  | masterQualified
  /-- LOCK_AFTER_STEP (R72) -/
  | lockAfterStep
  /-- SLEW_COMPLETE (R72) -/
  | slewComplete (offset : Int)
  /-- SYNCE_SOURCE_CHANGE (R62) -/
  | synceSourceChange (port : Fin 4) (t : Nat)
  /-- SYNCE_SOURCE_LOSS (R62) -/
  | synceSourceLoss
  /-- ESMC_RECEIVED (R61) -/
  | esmcReceived (port : Fin 4) (ql : Byte)
  /-- ESMC_SEND (R63) -/
  | esmcSend
  /-- BEACON_EDGE (R75) -/
  | beaconEdge (b : Fin 16)
  /-- VOUT_CARRIER_START (R174) -/
  | voutCarrierStart (o : Fin 32) (t : Nat)
  /-- EVENT_EDGE (R78): in ref `t`, `fine` parts of 320000 after its start -/
  | eventEdge (inp : Fin 16) (rising : Bool) (t fine : Nat)
  /-- COMPARATOR_CROSSING (R126): in ref `t`, `fine` parts of 320000 after its start -/
  | comparatorCrossing (ch : Fin 16) (outward : Bool) (t fine : Nat)
  /-- CLAMP_ONSET (R99) -/
  | clampOnset (pin : Pin) (t : Nat)
  /-- CLAMP_RELEASE (R99) -/
  | clampRelease (pin : Pin) (t : Nat)
  /-- WIRE_BREAK_DETECT (R103) -/
  | wireBreakDetect (f : WireFault) (t : Nat)
  /-- WIRE_CLEAR (R105) -/
  | wireClear (f : WireFault) (t : Nat)
  /-- EXC_DROPOUT_ONSET (R91) -/
  | excDropoutOnset (g : Fin 128) (t : Nat)
  /-- EXC_LIMIT_ONSET (R91) -/
  | excLimitOnset (g : Fin 128) (t : Nat)
  /-- EXC_FAULT_END (R91) -/
  | excFaultEnd (g : Fin 128) (t : Nat)
  /-- TILE_LINK_WORD (R117) -/
  | tileLinkWord (bank : Fin 16) (w : BitVec 64)
  /-- CHANDLER_ROUND (R136): by wideband channel, the SAR words that have come since the last round, each with the number of
  its hold, 64 refs apart from the epoch (R120) -/
  | chandlerRound (sar : List (Nat × List (Nat × Int)))
  /-- LINEARISE_SAMPLE (R163) -/
  | lineariseSample
  /-- SAMPLE_COMMIT (R18) -/
  | sampleCommit (t : Nat)
  /-- COMMIT_DEADLINE (R17) -/
  | commitDeadline (stream : Fin 64)
  /-- COOPER_INLINE_DONE (R271) -/
  | cooperInlineDone (stream : Fin 64)
  /-- BLOCK_SEND (R200) -/
  | blockSend (stream : Fin 64) (t : Nat)
  /-- STREAM_ACK_RECEIVED (R202) -/
  | streamAckReceived (d : Dgram)
  /-- RETRANSMISSION_TIMEOUT (R203) -/
  | retransmissionTimeout (stream : Fin 64) (seq : Nat) (role : Fin 2) (t : Nat)
  /-- TRIG_EVALUATION (R210) -/
  | trigEvaluation (group : Fin 8) (t : Nat)
  /-- FIRE_MESSAGE_RECEIVED (R224) -/
  | fireMessageReceived (d : Dgram) (t : Nat)
  /-- ARM_MESSAGE_RECEIVED (R228) -/
  | armMessageReceived (d : Dgram)
  /-- DISARM_MESSAGE_RECEIVED (R228) -/
  | disarmMessageReceived (d : Dgram)
  /-- AUX_TIMER_FIRE (R131) -/
  | auxTimerFire (conv : Fin 4) (timer : Fin 2) (t : Nat)
  /-- AUX_SEGMENT_START (R130) -/
  | auxSegmentStart (conv : Fin 4)
  /-- AUX_CONVERSION_COMPLETE (R128) -/
  | auxConversionComplete (conv : Fin 4) (code : Int)
  /-- AUX_TABLE_APPLY (R133) -/
  | auxTableApply (conv : Fin 4)
  /-- SCRUB_LINE (R251) -/
  | scrubLine (errs : List SymErr) (raced : Bool)
  /-- MIGRATION_START (R259) -/
  | migrationStart (bank : Fin 32)
  /-- MIGRATION_COPY_DONE (R259) -/
  | migrationCopyDone
  /-- MIGRATION_SWITCH (R259) -/
  | migrationSwitch
  /-- BAR2_READ (R261) -/
  | bar2Read (addr len : Nat) (errs : List SymErr)
  /-- BAR2_WRITE (R261) -/
  | bar2Write (addr : Nat) (data : List Byte)
  /-- COOPER_JOB_START (R276) -/
  | cooperJobStart
  /-- COOPER_JOB_COMPLETE (R278) -/
  | cooperJobComplete
  /-- LOOP_EVALUATION (R295) -/
  | loopEvaluation (n : Fin 32) (lanesAgree stateOk : Bool)
  /-- FF_HOLD_EXPIRY (R297) -/
  | ffHoldExpiry (n : Fin 32) (acc : Bool)
  /-- INJECT_CAPTURE_END (R301) -/
  | injectCaptureEnd (n : Fin 32)
  /-- KEEP_ALIVE_FRAME (R328) -/
  | keepAliveFrame (n : Fin 32) (t : Nat)
  /-- STATUS_FRAME_RECEIVED (R329) -/
  | statusFrameReceived (port : Fin 32) (frame : BitVec 64) (t : Nat)
  /-- STATUS_FRAME_MISSING (R329) -/
  | statusFrameMissing (port : Fin 32)
  /-- DRIVE_FRAME_LATE (R306) -/
  | driveFrameLate (port : Fin 32)
  /-- CHECKPOINT_WRITE (R309) -/
  | checkpointWrite (lanesAgree : Bool)
  /-- CHECKPOINT_LATE (R306) -/
  | checkpointLate
  /-- WICK_PARTNER_POWERED (R318) -/
  | wickPartnerPowered
  /-- WICK_CHECKPOINT_LOADED (R312) -/
  | wickCheckpointLoaded (t : Nat)
  /-- WICK_SELF_TEST_DONE (R307) -/
  | wickSelfTestDone (w : Fin 2) (pass : Bool)
  /-- WICK_TAKEBACK (R320) -/
  | wickTakeback
  /-- PAIR_HEARTBEAT_SEND (R321) -/
  | pairHeartbeatSend
  /-- PAIR_HEARTBEAT_RECEIVED (R322) -/
  | pairHeartbeatReceived (d : Dgram) (t : Nat)
  /-- PAIR_HEARTBEAT_LOSS (R322) -/
  | pairHeartbeatLoss (t : Nat)
  /-- LOSS_OF_SIGNAL (R426) -/
  | lossOfSignal (port : Fin 4) (t : Nat)
  /-- LINK_UP (R426) -/
  | linkUp (port : Fin 4) (t : Nat)
  /-- SWITCH_FORWARD (R427) -/
  | switchForward (ingress : Nat) (frame : List Byte) (fcsOk : Bool) (x : FrameStamps) (t : Nat)
  /-- LEARNING_AGE_OUT (R428) -/
  | learningAgeOut (mac : BitVec 48) (vlan : Nat)
  /-- ARP_REQUEST_RECEIVED (R433) -/
  | arpRequestReceived (target sender : BitVec 32) (senderMac : BitVec 48) (t : Nat)
  /-- NEIGHBOUR_SOLICITATION_RECEIVED (R433) -/
  | neighbourSolicitationReceived (target sender : BitVec 128) (t : Nat)
  /-- ICMP_ECHO_RECEIVED (R433) -/
  | icmpEchoReceived (v6 : Bool) (src : BitVec 128) (echo : List Byte) (t : Nat)
  /-- RING_HEALTH_SEND (R438) -/
  | ringHealthSend (t : Nat)
  /-- RING_HEALTH_RECEIVED (R440) -/
  | ringHealthReceived (port : Fin 2) (f : RingFrame) (t : Nat)
  /-- RING_HEALTH_LOSS (R438) -/
  | ringHealthLoss
  /-- RING_LINK_DOWN_RECEIVED (R438) -/
  | ringLinkDownReceived (port : Fin 2) (f : RingFrame)
  /-- RING_LINK_DOWN_REPEAT (R439) -/
  | ringLinkDownRepeat (port : Fin 2)
  /-- RING_FLUSH_RECEIVED (R439) -/
  | ringFlushReceived (port : Fin 2) (f : RingFrame)
  /-- RING_PORT_RESTORE_TIMER (R440) -/
  | ringPortRestoreTimer (port : Fin 2)
  /-- MBX_REQ_DATAGRAM (R444) -/
  | mbxReqDatagram (d : Dgram)
  /-- NOTICE_ACK_DATAGRAM (R446) -/
  | noticeAckDatagram (d : Dgram)
  /-- NOTICE_DATAGRAM_SEND (R446) -/
  | noticeDatagramSend (role : Fin 2) (t : Nat)
  /-- NOTICE_RESEND_TIMEOUT (R446) -/
  | noticeResendTimeout (role : Fin 2) (t : Nat)
  /-- CRIER_BACKLOG_MOVE (R393) -/
  | crierBacklogMove (q : Fin 4)
  /-- NTQ_HEAD_READ (R391) -/
  | ntqHeadRead (q : Fin 4) (upset : List (BitVec 72))
  /-- NTQ_POP (R391) -/
  | ntqPop (r : Requester) (q : Fin 4)
  /-- NTQ_DROP_REST (R392) -/
  | ntqDropRest (r : Requester) (q : Fin 4)
  /-- MBX_RING (R357) -/
  | mbxRing (r : Requester) (m : Fin 8)
  /-- MBX_ACK (R356) -/
  | mbxAck (r : Requester) (m : Fin 8)
  /-- MULTIPART_TIMEOUT (R371) -/
  | multipartTimeout (m : Fin 8)
  /-- LAMPLIGHTER_HEARTBEAT_MISS (R468) -/
  | lamplighterHeartbeatMiss
  /-- LAMPLIGHTER_TAKEOVER_COMPLETE (R468) -/
  | lamplighterTakeoverComplete
  /-- FW_HANDOVER (R469) -/
  | fwHandover (pass : Bool)
  /-- FW_PROBATION_PASS (R469) -/
  | fwProbationPass
  /-- CAL_MATCH_WINDOW (R336) -/
  | calMatchWindow (b : Fin 16)
  /-- CAL_DELIVERY_SWITCH (R337) -/
  | calDeliverySwitch (b : Fin 16)
  /-- CAL_FRONT_END_PARK (R337) -/
  | calFrontEndPark (b : Fin 16)
  /-- CAL_POINT_COMPLETE (R339) -/
  | calPointComplete (k : Fin 20)
  /-- CAL_STORE_WRITE (R347) -/
  | calStoreWrite (okFirst okSecond : Bool)
  /-- CAL_COEFF_EFFECTIVE (R348) -/
  | calCoeffEffective
  /-- RENEWAL_HANDOVER (R466) -/
  | renewalHandover (id : Nat)
  /-- FUNCTION_SELF_TEST_DONE (R410) -/
  | functionSelfTestDone (id : Nat) (pass : Bool)
  /-- RENEWAL_RETURN (R466) -/
  | renewalReturn (id : Nat)
  /-- FRS_RESET_ASSERT (R410) -/
  | frsResetAssert (r : Requester) (id : Nat)
  /-- FRS_RESET_RELEASE (R410) -/
  | frsResetRelease (r : Requester) (id : Nat)
  /-- FRS_DISABLE (R410) -/
  | frsDisable (r : Requester) (id : Nat)
  /-- FRS_ENABLE (R410) -/
  | frsEnable (r : Requester) (id : Nat)
  /-- MON_START (R421) -/
  | monStart (r : Requester) (m : Fin 32)
  /-- MON_STOP (R421) -/
  | monStop (r : Requester) (m : Fin 32)
  /-- MON_SNAP (R421) -/
  | monSnap (r : Requester) (m : Fin 32)
  /-- RC_READ (R401) -/
  | rcRead (r : Requester) (addr : Nat)
  /-- NOW_NS_READ (R406) -/
  | nowNsRead (r : Requester) (t : Nat)
  /-- STAMP_LO_READ (R406) -/
  | stampLoRead (r : Requester) (k : Fin 32)
  /-- DRIVE_LAST_LO_READ (R413) -/
  | driveLastLoRead (r : Requester) (port : Fin 32) (t : Nat)
  /-- REGISTER_WRITE (R400) -/
  | registerWrite (r : Requester) (addr size : Nat) (v : BitVec 64)
  /-- SPI_REGISTER_READ (R404) -/
  | spiRegisterRead (addr words : Nat)
  /-- SPI_REGISTER_WRITE (R404) -/
  | spiRegisterWrite (addr : Nat) (data : List (BitVec 32)) (cut : Bool)
  /-- SPI_MEMORY_READ (R404) -/
  | spiMemoryRead (addr len : Nat) (errs : List SymErr)
  /-- SPI_STATUS (R404) -/
  | spiStatus
  /-- SPI_UNKNOWN_COMMAND (R404) -/
  | spiUnknownCommand (cmd : Byte)
  /-- JTAG_BYPASS (R489) -/
  | jtagBypass
  /-- JTAG_SAMPLE_PRELOAD (R489) -/
  | jtagSamplePreload (pins preload : List Bool)
  /-- JTAG_EXTEST (R490) -/
  | jtagExtest
  /-- JTAG_IDCODE (R489) -/
  | jtagIdcode
  /-- JTAG_CLAMP (R490) -/
  | jtagClamp
  /-- JTAG_HIGHZ (R490) -/
  | jtagHighz
  /-- HUB_INFO (R372) -/
  | hubInfo (h : ReqHdr) (p : List Byte)
  /-- PERM_READ (R372) -/
  | permRead (h : ReqHdr) (p : List Byte)
  /-- NOP (R372) -/
  | nop (h : ReqHdr) (p : List Byte)
  /-- CHAN_CONFIG (R83) -/
  | chanConfig (h : ReqHdr) (p : List Byte)
  /-- WB_CONFIG (R84) -/
  | wbConfig (h : ReqHdr) (p : List Byte)
  /-- WB_COMPARATOR (R125) -/
  | wbComparator (h : ReqHdr) (p : List Byte)
  /-- EXC_CONFIG (R95) -/
  | excConfig (h : ReqHdr) (p : List Byte)
  /-- FE_ROUTE (R109) -/
  | feRoute (h : ReqHdr) (p : List Byte)
  /-- AUX_SCAN_LOAD (R129) -/
  | auxScanLoad (h : ReqHdr) (p : List Byte)
  /-- AUX_TIMER (R131) -/
  | auxTimer (h : ReqHdr) (p : List Byte)
  /-- AUX_SCAN_INFO (R132) -/
  | auxScanInfo (h : ReqHdr) (p : List Byte)
  /-- LIN_SET (R166) -/
  | linSet (h : ReqHdr) (p : List Byte)
  /-- LIN_READ (R164) -/
  | linRead (h : ReqHdr) (p : List Byte)
  /-- VOUT_SET (R177) -/
  | voutSet (h : ReqHdr) (p : List Byte)
  /-- VOUT_STOP (R177) -/
  | voutStop (h : ReqHdr) (p : List Byte)
  /-- CAL_BEGIN (R333) -/
  | calBegin (h : ReqHdr) (p : List Byte)
  /-- CAL_POINT (R338) -/
  | calPoint (h : ReqHdr) (p : List Byte)
  /-- CAL_COMPUTE (R341) -/
  | calCompute (h : ReqHdr) (p : List Byte)
  /-- CAL_COMMIT (R347) -/
  | calCommit (h : ReqHdr) (p : List Byte)
  /-- CAL_END (R351) -/
  | calEnd (h : ReqHdr) (p : List Byte)
  /-- CAL_ABORT (R352) -/
  | calAbort (h : ReqHdr) (p : List Byte)
  /-- CAL_STATUS (R374) -/
  | calStatus (h : ReqHdr) (p : List Byte)
  /-- CAL_READ (R374) -/
  | calRead (h : ReqHdr) (p : List Byte)
  /-- FILT_SELECT (R119) -/
  | filtSelect (h : ReqHdr) (p : List Byte)
  /-- FILT_SET_DEFINE (R145) -/
  | filtSetDefine (h : ReqHdr) (p : List Byte)
  /-- FILT_COEF_WRITE (R145) -/
  | filtCoefWrite (h : ReqHdr) (p : List Byte)
  /-- FILT_COEF_READ (R145) -/
  | filtCoefRead (h : ReqHdr) (p : List Byte)
  /-- FILT_SWAP (R147) -/
  | filtSwap (h : ReqHdr) (p : List Byte)
  /-- STREAM_DEFINE (R183) -/
  | streamDefine (h : ReqHdr) (p : List Byte)
  /-- STREAM_ENABLE (R185) -/
  | streamEnable (h : ReqHdr) (p : List Byte)
  /-- STREAM_DISABLE (R186) -/
  | streamDisable (h : ReqHdr) (p : List Byte)
  /-- STREAM_RELEASE (R186) -/
  | streamRelease (h : ReqHdr) (p : List Byte)
  /-- STREAM_DESCRIBE (R377) -/
  | streamDescribe (h : ReqHdr) (p : List Byte)
  /-- LEDGER_CLEAR (R27) -/
  | ledgerClear (h : ReqHdr) (p : List Byte)
  /-- MEM_PLAN (R244) -/
  | memPlan (h : ReqHdr) (p : List Byte)
  /-- MEM_STATUS (R253) -/
  | memStatus (h : ReqHdr) (p : List Byte)
  /-- SCRUB_CONFIG (R251) -/
  | scrubConfig (h : ReqHdr) (p : List Byte)
  /-- TRIG_SEQ_LOAD (R205) -/
  | trigSeqLoad (h : ReqHdr) (p : List Byte)
  /-- TRIG_GROUP_DEFINE (R212) -/
  | trigGroupDefine (h : ReqHdr) (p : List Byte)
  /-- TRIG_ARM (R214) -/
  | trigArm (h : ReqHdr) (p : List Byte)
  /-- TRIG_DISARM (R214) -/
  | trigDisarm (h : ReqHdr) (p : List Byte)
  /-- TRIG_FORCE (R215) -/
  | trigForce (h : ReqHdr) (p : List Byte)
  /-- TRIG_STATUS (R378) -/
  | trigStatus (h : ReqHdr) (p : List Byte)
  /-- REC_LIST (R240) -/
  | recList (h : ReqHdr) (p : List Byte)
  /-- REC_RELEASE (R240) -/
  | recRelease (h : ReqHdr) (p : List Byte)
  /-- HIST_DEFINE (R246) -/
  | histDefine (h : ReqHdr) (p : List Byte)
  /-- TIME_STATUS (R379) -/
  | timeStatus (h : ReqHdr) (p : List Byte)
  /-- PTP_CONFIG (R52) -/
  | ptpConfig (h : ReqHdr) (p : List Byte)
  /-- TIME_SET (R74) -/
  | timeSet (h : ReqHdr) (p : List Byte)
  /-- SYNCE_CONFIG (R61) -/
  | synceConfig (h : ReqHdr) (p : List Byte)
  /-- TS_CORRECTION (R60) -/
  | tsCorrection (h : ReqHdr) (p : List Byte)
  /-- BEACON_SET (R76) -/
  | beaconSet (h : ReqHdr) (p : List Byte)
  /-- BEACON_STOP (R77) -/
  | beaconStop (h : ReqHdr) (p : List Byte)
  /-- EVENT_CONFIG (R78) -/
  | eventConfig (h : ReqHdr) (p : List Byte)
  /-- LOOP_DEFINE (R282) -/
  | loopDefine (h : ReqHdr) (p : List Byte)
  /-- LOOP_MODE (R292) -/
  | loopMode (h : ReqHdr) (p : List Byte)
  /-- LOOP_PARAM (R290) -/
  | loopParam (h : ReqHdr) (p : List Byte)
  /-- LOOP_INJECT (R300) -/
  | loopInject (h : ReqHdr) (p : List Byte)
  /-- LOOP_TUNE_READ (R303) -/
  | loopTuneRead (h : ReqHdr) (p : List Byte)
  /-- LOOP_STATUS (R304) -/
  | loopStatus (h : ReqHdr) (p : List Byte)
  /-- WICK_CONFIG (R308) -/
  | wickConfig (h : ReqHdr) (p : List Byte)
  /-- WICK_STATUS (R380) -/
  | wickStatus (h : ReqHdr) (p : List Byte)
  /-- PAIR_DEFINE (R380) -/
  | pairDefine (h : ReqHdr) (p : List Byte)
  /-- DRIVE_STATUS (R329) -/
  | driveStatus (h : ReqHdr) (p : List Byte)
  /-- COOPER_JOB (R275) -/
  | cooperJob (h : ReqHdr) (p : List Byte)
  /-- COOPER_FLUSH (R279) -/
  | cooperFlush (h : ReqHdr) (p : List Byte)
  /-- COOPER_CANCEL (R280) -/
  | cooperCancel (h : ReqHdr) (p : List Byte)
  /-- COOPER_STATUS (R381) -/
  | cooperStatus (h : ReqHdr) (p : List Byte)
  /-- FUNC_ENABLE (R464) -/
  | funcEnable (h : ReqHdr) (p : List Byte)
  /-- FUNC_DISABLE (R463) -/
  | funcDisable (h : ReqHdr) (p : List Byte)
  /-- FUNC_RENEW (R466) -/
  | funcRenew (h : ReqHdr) (p : List Byte)
  /-- FUNC_STATE (R382) -/
  | funcState (h : ReqHdr) (p : List Byte)
  /-- LEGACY_SUBSTITUTE (R354) -/
  | legacySubstitute (h : ReqHdr) (p : List Byte)
  /-- LEGACY_RELEASE (R354) -/
  | legacyRelease (h : ReqHdr) (p : List Byte)
  /-- PLANE_START (R460) -/
  | planeStart (h : ReqHdr) (p : List Byte)
  /-- PLANE_STOP (R382) -/
  | planeStop (h : ReqHdr) (p : List Byte)
  /-- FW_INFO (R383) -/
  | fwInfo (h : ReqHdr) (p : List Byte)
  /-- FW_WRITE (R469) -/
  | fwWrite (h : ReqHdr) (p : List Byte)
  /-- FW_VERIFY (R458) -/
  | fwVerify (h : ReqHdr) (p : List Byte)
  /-- FW_ACTIVATE (R469) -/
  | fwActivate (h : ReqHdr) (p : List Byte)
  /-- MON_CONFIG (R421) -/
  | monConfig (h : ReqHdr) (p : List Byte)
  /-- MON_READ (R423) -/
  | monRead (h : ReqHdr) (p : List Byte)
  /-- NET_PORT_CONFIG (R424) -/
  | netPortConfig (h : ReqHdr) (p : List Byte)
  /-- NET_ADDR (R431) -/
  | netAddr (h : ReqHdr) (p : List Byte)
  /-- RING_CONFIG (R435) -/
  | ringConfig (h : ReqHdr) (p : List Byte)
  /-- COLLECTOR_SET (R442) -/
  | collectorSet (h : ReqHdr) (p : List Byte)
  /-- NET_STATUS (R425) -/
  | netStatus (h : ReqHdr) (p : List Byte)
  /-- L2_IDENT (R384) -/
  | l2Ident (h : ReqHdr) (p : List Byte)
  /-- L2_CHAN (R384) -/
  | l2Chan (h : ReqHdr) (p : List Byte)
  /-- L2_SUBST (R384) -/
  | l2Subst (h : ReqHdr) (p : List Byte)
  /-- L2_UNSUBST (R384) -/
  | l2Unsubst (h : ReqHdr) (p : List Byte)
  /-- L2_STATUS (R384) -/
  | l2Status (h : ReqHdr) (p : List Byte)
  /-- PERSTN_DEASSERT (R484) -/
  | perstnDeassert (gen width : Nat)
  /-- FW_VERIFY_COMPLETE (R458) -/
  | fwVerifyComplete (slot : Fin 2)
  /-- VOUT_EDGE (R173) -/
  | voutEdge (o : Fin 32) (t : Nat)
  /-- DRIVE_FRAME_RESEND (R318) -/
  | driveFrameResend (port : Fin 32) (t : Nat)
  /-- EXC_DROPOUT_OR_LIMIT_END (R91) -/
  | excDropoutOrLimitEnd (g : Fin 128) (t : Nat)
  /-- TEST_LOGIC_RESET (R489) -/
  | testLogicReset
  /-- ARP_CACHE_EXPIRY (R433) -/
  | arpCacheExpiry (ip : BitVec 32)
  /-- DUPLICATE_ADDRESS_DETECTION (R433) -/
  | duplicateAddressDetection (unique : Bool)
deriving DecidableEq, Repr

end Sys2Proof
end

