-- ==== Sys2Proof/Decode.lean ====
section
/-! DEFINITION. The decoder of table words. No row of the table gives bits (every row's field list is empty: a
command reaches the hub over a bus, a network or a pin), so no word spells a command. -/
namespace Sys2Proof

/-- The command that a word spells by the table's bits: none for any word. -/
def decodeTableWord (_nbits _w : Nat) : Option Instr := none

end Sys2Proof
end

