-- ==== Sys2Proof/Machine/Bits.lean ====
section
/-! DEFINITION. Bytes, bit fields, signed fields, tables, the canonical byte memory, and the check codes of R231 and
R327. Everything is structural recursion over lists or `Nat` arithmetic. -/
namespace Sys2Proof.Machine

/-! ### Numbers and bytes -/

/-- `n` bytes of `v`, least significant first. -/
def le : Nat → Nat → List Byte
  | 0, _ => []
  | n + 1, v => BitVec.ofNat 8 v :: le n (v / 256)

/-- `n` bytes of `v`, most significant first. -/
def be (n v : Nat) : List Byte := (le n v).reverse

/-- The number that bytes spell, least significant first. -/
def leNat : List Byte → Nat
  | [] => 0
  | b :: bs => b.toNat + 256 * leNat bs

/-- The number that bytes spell, most significant first. -/
def beNat (bs : List Byte) : Nat := leNat bs.reverse

/-- The unsigned field of `n` bytes at offset `o`; bytes past the end count as zero. -/
def rd (p : List Byte) (o n : Nat) : Nat := leNat ((p.drop o).take n)

/-- `v` read as a two's complement number of `w` bits. -/
def sgn (w v : Nat) : Int := if v % 2 ^ w < 2 ^ (w - 1) then (v % 2 ^ w : Nat) else ((v % 2 ^ w : Nat) : Int) - (2 ^ w : Nat)

/-- The two's complement field of `n` bytes at offset `o`. -/
def rdS (p : List Byte) (o n : Nat) : Int := sgn (8 * n) (rd p o n)

/-- The two's complement code of `v` in `w` bits. -/
def unsgn (w : Nat) (v : Int) : Nat := (v % ((2 ^ w : Nat) : Int)).toNat

/-- `n` bytes of a two's complement number. -/
def leI (n : Nat) (v : Int) : List Byte := le n (unsgn (8 * n) v)

/-- Bits [hi:lo] of `v`. -/
def bits (v hi lo : Nat) : Nat := v / 2 ^ lo % 2 ^ (hi + 1 - lo)

/-- Bit `i` of `v`. -/
def bit (v i : Nat) : Bool := v / 2 ^ i % 2 == 1

/-- A flag as a number. -/
def b2n (b : Bool) : Nat := if b then 1 else 0

/-- The bytes at [o, o + length) replaced. -/
def splice (p : List Byte) (o : Nat) (q : List Byte) : List Byte := p.take o ++ q ++ p.drop (o + q.length)

/-- `p` cut or filled with zeros to `n` bytes. -/
def padTo (n : Nat) (p : List Byte) : List Byte := (p ++ List.replicate (n - p.length) 0).take n

def zeros (n : Nat) : List Byte := List.replicate n 0

/-- Ceiling of a quotient. -/
def cdiv (a b : Nat) : Nat := (a + b - 1) / b

def clampI (v lo hi : Int) : Int := if v < lo then lo else if hi < v then hi else v

/-- Floor division of integers. -/
def fdiv (a b : Int) : Int := Int.fdiv a b

/-- Arithmetic right shift rounded half up (R142, R287). -/
def shrRound (x : Int) (s : Nat) : Int := if s = 0 then x else fdiv (x + (2 ^ (s - 1) : Nat)) ((2 ^ s : Nat) : Int)

/-- Arithmetic right shift (floor). -/
def shrFloor (x : Int) (s : Nat) : Int := fdiv x ((2 ^ s : Nat) : Int)

/-- Integer square root by bits: `n` bits of the root remain to be found. -/
def isqrtGo : Nat → Nat → Nat → Nat
  | 0, _, r => r
  | n + 1, v, r => let c := r + 2 ^ n; isqrtGo n v (if c * c ≤ v then c else r)

/-- floor (sqrt v) -/
def isqrt (v : Nat) : Nat := isqrtGo (v.log2 / 2 + 1) v 0

/-- The integer nearest to sqrt (a / b), halves up (R193, R237). -/
def rootNearest (a b : Nat) : Nat := (isqrt (4 * a / b) + 1) / 2

/-- An Int rounded quotient floor ((2 a + b) / (2 b)) (R193). -/
def meanRound (a : Int) (b : Nat) : Int := if b = 0 then 0 else fdiv (2 * a + b) (2 * b)

/-! ### Tables -/

/-- The value of number `k`, or `d` where it is unlisted. -/
def tget {α : Type} : Tab α → Nat → α → α
  | [], _, d => d
  | (j, v) :: t, k, d => if j = k then v else tget t k d

/-- The table with number `k` holding `v`. -/
def tset {α : Type} : Tab α → Nat → α → Tab α
  | [], k, v => [(k, v)]
  | (j, w) :: t, k, v => if k < j then (k, v) :: (j, w) :: t else if j = k then (k, v) :: t else (j, w) :: tset t k v

def tdel {α : Type} (t : Tab α) (k : Nat) : Tab α := t.filter fun e => e.1 != k

def thas {α : Type} (t : Tab α) (k : Nat) : Bool := t.any fun e => e.1 == k

/-- The value that held at `t`: `old` lists earlier values, newest first, each with the instant before which it held. -/
def asOf {α : Type} : List (Nat × α) → α → Nat → α
  | [], v, _ => v
  | (e, w) :: r, v, t => if t < e then asOf r w t else v

/-! ### The canonical byte memory: rising addresses, no cell equal to what an unlisted address reads as -/

/-- One byte of memory; an unlisted address reads as `d`. -/
def memRead (d : Byte) : List Host.Cell → Nat → Byte
  | [], _ => d
  | (j, v) :: t, a => if j = a then v else if a < j then d else memRead d t a

/-- One byte written; writing `d` removes the cell. -/
def memWrite (d : Byte) : List Host.Cell → Nat → Byte → List Host.Cell
  | [], a, v => if v = d then [] else [(a, v)]
  | (j, w) :: t, a, v =>
    if a < j then (if v = d then (j, w) :: t else (a, v) :: (j, w) :: t)
    else if j = a then (if v = d then t else (a, v) :: t)
    else (j, w) :: memWrite d t a v

/-- Consecutive bytes written from address `a`. -/
def memWrites (d : Byte) : List Host.Cell → Nat → List Byte → List Host.Cell
  | m, _, [] => m
  | m, a, b :: bs => memWrites d (memWrite d m a b) (a + 1) bs

/-- `n` bytes read from address `a`. -/
def memReads (d : Byte) (m : List Host.Cell) (a n : Nat) : List Byte := (List.range n).map fun i => memRead d m (a + i)

/-- Every cell lies above `lo` in rising order and none reads as an unlisted address. -/
def memWfFrom (d : Byte) : Nat → List Host.Cell → Bool
  | _, [] => true
  | lo, (j, v) :: t => decide (lo ≤ j) && decide (v ≠ d) && memWfFrom d (j + 1) t

/-- The canonical form of a memory. -/
def memWf (d : Byte) (m : List Host.Cell) : Bool := memWfFrom d 0 m

/-- The bytes at `a` replaced wholesale by `bs`, for a memory whose listed cells are few. -/
def memErase (d : Byte) (m : List Host.Cell) (a n : Nat) : List Host.Cell :=
  m.filter fun c => c.1 < a || a + n ≤ c.1 || c.2 = d

/-! ### CRC-32 (R231) and the CRC of the drive link (R327) -/

def crcBits : Nat → Nat → Nat
  | 0, c => c
  | n + 1, c => crcBits n (if c % 2 = 1 then (c / 2).xor 0xEDB88320 else c / 2)

def crc32Go : List Byte → Nat → Nat
  | [], c => c
  | b :: bs, c => crc32Go bs (crcBits 8 (c.xor b.toNat))

/-- CRC-32 of IEEE 802.3, reflected, initial value and final XOR all ones. -/
def crc32 (bs : List Byte) : BitVec 32 := BitVec.ofNat 32 ((crc32Go bs 0xFFFFFFFF).xor 0xFFFFFFFF)

def crc16Bits : Nat → Nat → Nat → Nat
  | 0, _, c => c
  | n + 1, v, c =>
    let top := (c / 32768) % 2
    let inb := (v / 2 ^ n) % 2
    let sh := (c * 2) % 65536
    crc16Bits n v (if top = inb then sh else sh.xor 0x1021)

/-- The drive link's CRC over the `n` low bits of `v`, most significant first: 0x1021, initial 0xFFFF (R327). -/
def crc16 (n v : Nat) : Nat := crc16Bits n v 0xFFFF

end Sys2Proof.Machine
end

