-- ==== Sys2Proof/Machine/State.lean ====
section
/-! DEFINITION. The state of the hub as plain data, one structure for each chapter of the spec, and the state at
reset: the instant at which PORN has just risen (R449). Every field's default is its reset value; where the spec gives
none, the row of the assumption log is named in INVENTORY.md. -/
namespace Sys2Proof.Machine

/-- Why the block stops. -/
inductive Fault where
  /-- raised by BAR2_READ and BAR2_WRITE for an address outside the 64 MiB of record memory (R242): BAR2 has no such
  address (R261). Safe: the model stops where the window ends. -/
  | noSuchAddress (addr : Nat)
deriving DecidableEq, Repr

/-- Why the model gives no meaning. -/
inductive Refusal where
  /-- raised by an arm of `exec` whose command has no meaning yet. Safe. -/
  | notModelled (mnemonic : String)
deriving DecidableEq, Repr

/-! ### Crier (R386 to R397) -/

/-- A notice (R388): its fields and its three payload words. -/
structure Notice where
  type    : Nat
  pri     : Nat
  cont    : Bool := false
  summary : Bool := false
  part    : Nat := 0
  packet  : Nat := 0
  source  : Nat := 0
  w1      : BitVec 64 := 0
  w2      : BitVec 64 := 0
  w3      : BitVec 64 := 0
  /-- instant of posting in refs (R417 class 0x5) -/
  at_     : Nat := 0
  /-- notices that a summary stands for (R394) -/
  stands  : Nat := 1
  firstTk : Nat := 0
  lastTk  : Nat := 0
  /-- it has been presented at the read port (R417 class 0x5) -/
  seen    : Bool := false
deriving DecidableEq, Repr

/-- A notice queue. -/
structure Ntq where
  chain       : List Notice := []
  backlog     : List Notice := []
  latch       : Option Notice := none
  head        : List (BitVec 32) := []
  damaged     : Bool := false
  /-- packet of the last popped notice, if that had CONT set (R392) -/
  lastCont    : Option Nat := none
  level       : Nat := 48
  p0Pend      : Bool := false
  lvlPend     : Bool := false
  p0En        : Bool := true
  lvlEn       : Bool := true
  backlogFull : Tab Bool := []
  posted      : BitVec 32 := 0
  popped      : BitVec 32 := 0
  dropped     : BitVec 32 := 0
  coalesced   : BitVec 32 := 0
  lost        : BitVec 32 := 0
  corrected   : Tab (BitVec 32) := []
  uncorr      : Tab (BitVec 32) := []
  packet      : BitVec 16 := 0
  /-- read port shows no notice while the queue is renewed (R467) -/
  hidden      : Bool := false
deriving DecidableEq, Repr

/-! ### Mailboxes (R355 to R371) -/

/-- The status codes of R367. -/
inductive Status where
  | ok | accepted | deferred | badOpcode | badArgument | notPermitted | busy | functionState | noSpace | mismatch
  | restarted | staleSequence | signature | ledger
deriving DecidableEq, Repr

/-- A response (R360). -/
structure Resp where
  opcode  : Nat
  seq     : BitVec 16
  status  : Status
  tick    : Nat
  detail  : Nat := 0
  payload : List Byte := []
deriving DecidableEq, Repr

/-- Who is owed a completion notice (R361). -/
structure Owed where
  mbx    : Nat
  opcode : Nat
  seq    : BitVec 16
deriving DecidableEq, Repr

/-- A request with its bytes as they were taken, which the log of R364 compares. -/
structure Taken where
  opcode : Nat
  hdr    : ReqHdr
  pay    : List Byte
deriving DecidableEq, Repr

/-- An entry of the log of answered requests (R364), with the request's CRC-32. -/
structure Logged where
  req  : Taken
  crc  : BitVec 32
  resp : Resp
deriving DecidableEq, Repr

/-- An open multi-part assembly (R371): the payloads of its parts with their part headers, in order. -/
structure Assembly where
  opcode : Nat
  target : Nat
  parts  : List (List Byte)
  last   : Nat
deriving DecidableEq, Repr

structure Mailbox where
  req       : List Byte := List.replicate 256 0
  resp      : List Byte := List.replicate 256 0
  respIrq   : Bool := false
  lastSeq   : BitVec 16 := 0
  foreign   : Tab Bool := []
  takeover  : Tab Bool := []
  overrun   : Tab Bool := []
  respReady : Bool := false
  busy      : Bool := false
  count     : BitVec 32 := 0
  replayed  : BitVec 32 := 0
  restarts  : BitVec 32 := 0
  taken     : Option Taken := none
  log       : List Logged := []
  /-- open assemblies, the one that had a part last first -/
  asm       : List Assembly := []
  /-- instant of the RING that BUSY answers (R417 class 0x6) -/
  rungAt    : Nat := 0
deriving DecidableEq, Repr

/-- A staged change (R369): its tick, its request, the request's command, and whether a completion is owed. -/
structure Staged where
  tick   : Nat
  opcode : Nat
  hdr    : ReqHdr
  cmd    : Instr
  /-- the whole assembly of a multi-part command, in part order (R371) -/
  parts  : List (List Byte) := []
  owed   : Bool := false
  /-- the function that the change is for (R370) -/
  func   : Nat := 0xFFFF
deriving DecidableEq, Repr

structure MbxState where
  box    : Tab Mailbox := []
  staged : List Staged := []
  /-- a LEDGER_CLEAR without APPLY_AT_TICK waiting for the next check (R377) -/
  waitLedger : List (Nat × Taken) := []
deriving DecidableEq, Repr

/-! ### Power, start-up, flash (R448 to R459) -/

structure Fuses where
  ownerHash : BitVec 256 := 0
  serial    : BitVec 64 := 0
  paceBase  : Tab (BitVec 16) := []
  vref      : Tab F64 := []
deriving DecidableEq, Repr

/-- A collector role's settings (R442), also as in the boot block. -/
structure CollCfg where
  keyId   : Nat := 0
  udpPort : Nat := 0
  addr    : BitVec 128 := 0
deriving DecidableEq, Repr

/-- A protection entry (R455): classes, windows as (base, size), and the function identifiers it may reset. -/
structure Prot where
  classes : Byte := 0
  windows : List (Nat × Nat) := []
  frs     : BitVec 1024 := 0
deriving DecidableEq, Repr

/-- The hub's addresses (R431). -/
structure NetCfg where
  mac     : BitVec 48 := 0
  vlan    : Nat := 0
  ipv4    : BitVec 32 := 0
  prefix4 : Nat := 0
  prefix6 : Nat := 0
  ipv6    : BitVec 128 := 0
deriving DecidableEq, Repr

/-- The boot block in use (R454). -/
structure BootBlk where
  prefSlot : Nat
  seq      : BitVec 32
  station  : Nat
  hubIndex : Nat
  fwOfs    : Nat × Nat
  fwMax    : Nat
  calOfs   : Nat
  recOfs   : Nat
  minFw    : Nat
  memPlan  : List Nat
  net      : NetCfg
  ringVlan : Nat
  ringRole : Nat
  ringBlk  : Nat
  coll     : List CollCfg
  keys     : List (List Byte)
  prot     : List Prot
deriving DecidableEq, Repr

/-- A live update (R469): loading the image into the cold Lamplighter, or on probation. -/
structure FwUpdate where
  slot      : Nat
  prev      : Nat
  probation : Bool := false
  owed      : Owed
  /-- tick of the take-over, once on probation -/
  since     : Nat := 0
deriving DecidableEq, Repr

structure Power where
  porn          : Bool := true
  pwrfail       : Bool := false
  pwrWait       : Option Nat := none
  perstLow      : Bool := false
  memReady      : Bool := false
  protLocked    : Bool := false
  fwUp          : Bool := false
  handed        : Bool := false
  fwLevel       : Nat := 0
  bootCount     : BitVec 32 := 0
  hub           : BitVec 16 := 0
  boot          : Option BootBlk := none
  fuses         : Fuses := {}
  flash         : List Host.Cell := []
  bootRecSector : Nat := 0
  fwState       : Tab Nat := []
  fwRun         : Option Nat := none
  fwVerify      : List (Nat × Owed) := []
  fwUpdate      : Option FwUpdate := none
  plane         : Bool := false
  llActive      : Nat := 0
  llUp          : Tab Bool := []
  llTakeover    : Bool := false
  llFenced      : Tab Bool := []
  prot          : Tab Prot := []
deriving DecidableEq, Repr

/-- GLB counters and die temperatures (R405, R488). -/
structure Glb where
  bar2Denied : BitVec 32 := 0
  bar2Writes : BitVec 32 := 0
  badAccess  : BitVec 32 := 0
  bar2Rose   : Bool := false
  dieTemp    : Tab Int := []
  vcore      : Nat := 0
  tempOver   : Tab Nat := []
  tempUnder  : Tab Nat := []
  tempAlarm  : Tab Bool := []
deriving DecidableEq, Repr

/-- Host ports and JTAG (R404, R413, R484, R489). -/
inductive JtagIr where
  | bypass | samplePreload | extest | idcode | clamp | highz
deriving DecidableEq, Repr

structure Ports where
  qBusy     : Bool := false
  qErases   : BitVec 32 := 0
  qPrograms : BitVec 32 := 0
  qVerify   : BitVec 32 := 0
  sCmdErr   : BitVec 32 := 0
  sAborted  : BitVec 32 := 0
  sWords    : BitVec 32 := 0
  sOut      : List Byte := []
  pLinkUp   : Bool := false
  pGen      : Nat := 0
  pWidth    : Nat := 0
  pCorr     : BitVec 32 := 0
  pUncorr   : BitVec 32 := 0
  pOut      : List Byte := []
  msix      : List Nat := []
  jIr       : JtagIr := .idcode
  jActive   : Bool := false
  jPins     : List Bool := []
  jCells    : List Bool := []
  jTdo      : BitVec 32 := 0
deriving DecidableEq, Repr

/-! ### Time base (R46 to R80) -/

inductive TimeState where
  | unset | acquiring | locked | holdover | slewing
deriving DecidableEq, Repr

/-- What is due at the next tick boundary (R72): nothing, a qualified master, or the lock. -/
inductive TimeAct where
  | none | master | lock
deriving DecidableEq, Repr

/-- A time-to-digital input (R78 to R80, R126). -/
structure Tdc where
  last       : BitVec 64 := 0
  latched    : BitVec 64 := 0
  edges      : BitVec 32 := 0
  misses     : BitVec 32 := 0
  lostBefore : Bool := false
  /-- instant of the previous stamped edge, in 2^-16 ns -/
  prev       : Option Nat := none
  /-- the stamp buffer of island 11, 16 words deep (R33) -/
  buf        : List (BitVec 64) := []
deriving DecidableEq, Repr

/-- A beacon setting (R75): times and lengths in 1/16 ref. -/
structure BeaconSet where
  periodic  : Bool
  activeLow : Bool
  start     : Nat
  period    : Nat
  width     : Nat
deriving DecidableEq, Repr

structure Beacon where
  cfg      : Option BeaconSet := none
  /-- a new setting, or a stop, that waits for the pulse in progress (R77) -/
  next     : Option BeaconSet := none
  stopping : Bool := false
  /-- the output is inside a pulse -/
  inPulse  : Bool := false
  level    : Bool := false
  pulses   : BitVec 32 := 0
  /-- the next edge, in 1/16 ref -/
  edge     : Option Nat := none
deriving DecidableEq, Repr

structure PtpCfg where
  domain     : Nat := 0
  profile    : Nat := 0
  transport  : Nat := 3
  annTimeout : Nat := 3
  syncLog    : Int := -3
  annLog     : Int := 0
  dreqLog    : Int := -3
  slewPpm    : Nat := 10
  bwMhz      : Nat := 0
  asym       : List Int := [0, 0, 0, 0]
deriving DecidableEq, Repr

/-- A master heard in Announce messages (R54): its port, its last data set, how many have come, and when the last came. -/
structure Foreign where
  port  : Nat
  data  : AnnounceData
  count : Nat
  at_   : Nat
deriving DecidableEq, Repr

structure TimeBase where
  state      : TimeState := .unset
  tick       : Nat := 0
  markSeq    : BitVec 32 := 0
  tickNum    : BitVec 64 := 0
  tickSec    : BitVec 48 := 0
  tickNsec   : BitVec 32 := 0
  tickHw     : BitVec 32 := 0
  utcOffset  : Int := 0
  offset     : Int := 0
  ptpTerm    : Int := 0
  synceTerm  : Int := 0
  slewTerm   : Int := 0
  /-- the frequency word minus nominal, in 2^-40 (R47, R48) -/
  freq       : Int := 0
  ptpBefore  : Int := 0
  servoUpd   : BitVec 32 := 0
  servoLast  : Nat := 0
  leave      : Bool := false
  act        : TimeAct := .none
  /-- the hardware watchdog of R55 has expired -/
  dog        : Bool := false
  /-- boundaries in refs at which HOLD began (true) or ended (false), newest first (R50) -/
  holdLog    : List (Nat × Bool) := [(0, true)]
  nowLatch   : BitVec 48 := 0
  cfg        : PtpCfg := {}
  masters    : List Foreign := []
  parent     : Option (Nat × AnnounceData) := none
  qAnn       : Nat := 0
  qSync      : Nat := 0
  qDelay     : Nat := 0
  postStep   : Nat := 0
  syncWait   : Option SyncMsg := none
  /-- ingress minus origin of the last complete Sync, in 2^-16 ns -/
  msDelay    : Option Int := none
  /-- receipt minus egress of the last delay exchange, in 2^-16 ns -/
  smDelay    : Option Int := none
  /-- sequence, egress stamp and port of the outstanding Delay_Req -/
  dreqWait   : Option (Nat × Nat × Nat) := none
  dreqSeq    : BitVec 16 := 0
  synceMode  : Nat := 0
  syncePort  : Nat := 0
  syncePrio  : List Nat := [0, 0, 0, 0]
  synceSel   : Option Nat := none
  ql         : Tab Byte := []
  /-- end of the pull toward a new source (R62) -/
  syncePull  : Option Nat := none
  /-- bandwidth in force in mHz while the default is in use (R55) -/
  bwInForce  : Nat := 100
  tsReport   : Tab Bool := []
  tdc        : Tab Tdc := []
  /-- the timer-event buffer of island 1, 32 words deep (R33) -/
  evBuf      : List (BitVec 64) := []
  evtEdges   : Tab Nat := []
  evtLevel   : Tab Bool := []
  beacon     : Tab Beacon := []
deriving DecidableEq, Repr

/-! ### Front end and converters (R81 to R133) -/

inductive WinKind where
  /-- [lo - H/f, hi + H/f] (R97, R101, R122) -/
  | step
  /-- [lo, hi + H/f) (R122) -/
  | start
  /-- [lo, hi), whatever the span (R94, R104, R105) -/
  | plain
deriving DecidableEq, Repr

/-- A window in which a flag is set on outputs; `hi` none while it is still open. -/
structure Win where
  flag : Byte
  kind : WinKind
  lo   : Nat
  hi   : Option Nat
deriving DecidableEq, Repr

inductive Route where
  | pins | refbus | parked | channel
deriving DecidableEq, Repr

/-- A value in a delay line of Chandler: a wide word, whether it was saturated, and whether it is missing because its
word never crossed the tile link (R117, R142). -/
structure Tap where
  v    : Int := 0
  sat  : Bool := false
  miss : Bool := false
deriving DecidableEq, Repr

/-- One chain of FIR stages with its delay lines, newest first (R142). -/
structure Chain where
  bank   : Nat := 0
  set    : Nat := 0
  rate   : Nat := 0
  /-- outputs are delivered with instants in [lo, hi) -/
  lo     : Nat := 0
  hi     : Option Nat := none
  stages : List (List Tap) := []
deriving DecidableEq, Repr

/-- A swap or set change on one slot (R149): the incoming chain, exponent k and first blended index, and the final wide
words that wait for their turn. -/
structure Fade where
  k     : Nat
  np    : Nat
  inc   : Chain
  /-- the half-span of the outgoing set, in samples -/
  half  : Nat := 0
  /-- the next index to deliver, once one has been delivered -/
  nxt   : Option Nat := none
  oldQ  : Tab Tap := []
  newQ  : Tab Tap := []
  /-- the outgoing chain has stopped -/
  past  : Bool := false
  /-- output n_p + L - 1 has been committed -/
  done  : Bool := false
  owed  : Option Owed := none
  /-- tick at which it started -/
  since : Nat := 0
deriving DecidableEq, Repr

/-- A channel slot 0 to 607 (R81, R415). Wideband slots use `range` and `coupling`. -/
structure Chan where
  enabled    : Bool := false
  gain       : Nat := 0
  bias       : Bool := true
  rate       : Nat := 0
  set        : Nat := 0
  range      : Nat := 0
  coupling   : Nat := 0
  route      : Route := .pins
  wins       : List Win := []
  wire       : List Nat := []
  /-- `SEQ` of the word that the next round takes, and of the next word to cross the tile link (R117) -/
  seqNext    : Option (BitVec 8) := none
  seqIn      : Option (BitVec 8) := none
  /-- `ROUTE`, `CLAMP`, `BIAS`, `EXC` and `GAIN_CHG` of the newest word taken, bits [45:40] of R117 -/
  linkBits   : BitVec 6 := 0
  chains     : List Chain := []
  fade       : Option Fade := none
  raw        : SampleWord := 0x80000001
  eng        : SampleWord := 0x80000001
  index      : Nat := 0
  flagOr     : Tab Byte := []
  staleEvals : BitVec 32 := 0
  wireEvents : BitVec 32 := 0
  clampEv    : BitVec 32 := 0
  ovrCnt     : Tab (BitVec 32) := []
  mirrorSeq  : BitVec 32 := 0
  /-- index of the newest committed sample plus one -/
  next       : Nat := 0
  /-- the newest committed samples, newest first: index, raw and engineering word; all of one rate -/
  recent     : List (Nat × SampleWord × SampleWord) := []
  /-- the rate of `recent`, `next` and the slot's history -/
  atRate     : Nat := 0
  /-- earlier gains, and earlier routes with the spare's position: each with the instant before which it held -/
  gainOld    : List (Nat × Nat) := []
  routeOld   : List (Nat × Route × Nat) := []
deriving DecidableEq, Repr

structure Bank where
  spareK     : Nat := 0
  legacyHeld : Bool := false
  /-- position for which the spare delivers and the first index it delivers -/
  deliver    : Option (Nat × Nat) := none
  /-- position to which delivery returned and the first index the channel delivers again -/
  back       : Option (Nat × Nat) := none
  clampPins  : List Pin := []
  cicBuf     : List (BitVec 64) := []
  /-- SAR words with the number of their hold, 64 refs apart from the epoch (R120) -/
  sarBuf     : List (Nat × Int) := []
deriving DecidableEq, Repr

/-- An excitation group (R87 to R98). -/
structure Exc where
  mode       : Nat := 0
  level      : Nat := 0
  sense      : Bool := false
  imin       : Nat := 100
  dropout    : Bool := false
  limit      : Bool := false
  /-- instant at which the group left dropout or limit -/
  leftAt     : Option Nat := none
  shutOff    : Bool := false
  settleEnd  : Nat := 0
  suspendEnd : Nat := 0
  iMean      : Nat := 0
  vMean      : Int := 0
  vin        : List Int := [0, 0, 0, 0]
  /-- regulator dissipation in units of 0.05 nW -/
  pG         : Nat := 0
deriving DecidableEq, Repr

structure Tile where
  /-- dissipation in units of 0.05 nW -/
  power     : Nat := 0
  overTicks : Nat := 0
  over66    : Nat := 0
  shutting  : Bool := false
  noticed   : Bool := false
  vexc      : Nat := 0
  /-- the calibration reference pins that clamp, positive and negative -/
  refPins   : List Bool := []
  refEvents : BitVec 32 := 0
  /-- gaps in `SEQ` found on the tile link (R117) -/
  linkFaults : BitVec 32 := 0
deriving DecidableEq, Repr

structure Comparator where
  enable     : Bool := false
  threshold  : Nat := 0
  polarity   : Nat := 0
  hyst       : Nat := 0
  mutedUntil : Nat := 0
deriving DecidableEq, Repr

inductive AuxPhase where
  /-- no table, or the scan has nothing to convert -/
  | idle
  /-- at a WAIT entry, waiting for its event -/
  | waiting
  /-- the event has come; the segment's first hold is at `due`, `late` if acquisition delayed it -/
  | delay (due : Nat) (late : Bool)
  /-- a conversion holds at `hold`; `rep` conversions of the entry are done -/
  | converting (hold : Nat) (rep : Nat)
deriving DecidableEq, Repr

structure AuxTimer where
  period : Nat := 0
  phase  : Nat := 0
deriving DecidableEq, Repr

structure AuxConv where
  table     : List (BitVec 64) := []
  /-- a table whose apply tick has come and that waits for the conversion in progress (R133) -/
  waiting   : Option (List (BitVec 64)) := none
  pos       : Nat := 0
  phase     : AuxPhase := .idle
  /-- conversions of an averaged entry: value, untrimmed code and flags -/
  acc       : List (Int × Int × Nat) := []
  firstHold : Nat := 0
  /-- end of the newest conversion and its `DELAY`: the scan is at a `WAIT` entry from then on -/
  freeAt    : Nat := 0
  /-- instant at which the multiplexer came to the present input -/
  muxAt     : Nat := 0
  /-- start event of the segment that runs -/
  event     : Option Nat := none
  timers    : Tab AuxTimer := []
  late      : BitVec 32 := 0
  missed    : BitVec 32 := 0
deriving DecidableEq, Repr

/-- A delivered auxiliary sample (R132, R284). -/
structure AuxSample where
  word  : SampleWord
  stamp : Nat
  at_   : Nat
  /-- untrimmed code (R344) -/
  code  : Int := 0
  mode  : Nat := 0
  gain  : Nat := 0
deriving DecidableEq, Repr

structure FrontEnd where
  chan : Tab Chan := []
  bank : Tab Bank := []
  exc  : Tab Exc := []
  tile : Tab Tile := []
  comp : Tab Comparator := []
  aux  : Tab AuxConv := []
  /-- newest samples of each auxiliary slot, newest first -/
  auxLast : Tab (List AuxSample) := []
  /-- clamp windows of each auxiliary pin, by 17 × tile + input, `AUXCOM` as input 16 -/
  auxClamp : Tab (List Win) := []
deriving DecidableEq, Repr

/-! ### Chandler, linearisation, value outputs (R135 to R177) -/

/-- A finished output of Chandler: front end or slot, rate, index, raw word. -/
structure ChOut where
  fe   : Nat
  rate : Nat
  n    : Nat
  raw  : SampleWord
  /-- instant at which the round that made it ended its CIC period -/
  endT : Nat := 0
deriving DecidableEq, Repr

/-- A sample on its way to the commit stage: raw and engineering word, corrected signal x (R162). -/
structure CommitItem where
  fe   : Nat
  rate : Nat
  n    : Nat
  raw  : SampleWord
  eng  : SampleWord := 0
  x    : F64 := 0
  /-- instant at which the round that made it ended its CIC period -/
  endT : Nat := 0
  /-- the linearisation unit was out: no engineering sample exists -/
  noEng : Bool := false
deriving DecidableEq, Repr

/-- A bank swap that runs or waits: its exponent, its tick, who is owed, and since which tick it waits. -/
structure SwapRun where
  k     : Nat
  tick  : Nat
  owed  : Owed
  since : Nat := 0
deriving DecidableEq, Repr

/-- A FILT_SELECT that is held back, and since which tick (R154). -/
structure HeldSel where
  slot  : Nat
  rate  : Nat
  set   : Nat
  k     : Nat
  tick  : Nat
  owed  : Owed
  since : Nat := 0
deriving DecidableEq, Repr

structure Chandler where
  words    : Tab (BitVec 24) := []
  descs    : Tab (BitVec 64) := []
  active   : Nat := 0
  swap     : Option SwapRun := none
  /-- an accepted swap whose tick has come while a set change runs (R156) -/
  late     : Option SwapRun := none
  deferred : Option SwapRun := none
  held     : List HeldSel := []
  round    : Nat := 0
  laneOut  : Option Nat := none
  /-- the work of each running slot for which the slot sequencer's table was made, and the table: the lanes of each slot
  with the work that each of them does (R137), in thousandths of a MAC per round -/
  work     : List (Nat × Nat) := []
  lanes    : Tab (List (Nat × Nat)) := []
  linQ     : List ChOut := []
  comQ     : List CommitItem := []
deriving DecidableEq, Repr

structure LinDesc where
  tsrc   : Nat := 0xFFFF
  stale  : Nat := 40960000
  lsb    : F64 := 0x3E80000000000000
  tscale : F64 := 0x3FF0000000000000
  t0     : F64 := 0
  coef   : List F64 := List.replicate 4 0 ++ [0x3FF0000000000000] ++ List.replicate 19 0
deriving DecidableEq, Repr

/-- A slot's use of its temperature source (R169, R170). -/
structure TempUse where
  last  : Option Int := none
  stale : Option Nat := none
  bad   : Bool := false
  /-- instant of the source's last delivered sample -/
  lastT : Nat := 0
deriving DecidableEq, Repr

/-- The correction of R162 with the quality of its store entry. -/
structure Corr where
  o : F64 := 0
  g : F64 := 0x3FF0000000000000
  q : Nat := 0
deriving DecidableEq, Repr

structure VoutSet where
  eng    : Bool
  slot   : Nat
  pwm    : Bool
  onBad  : Nat
  actLow : Bool
  pc     : Nat
  base   : F64
  k      : F64
  fault  : F64
deriving DecidableEq, Repr

structure Vout where
  cfg      : Option VoutSet := none
  /-- a change of mode or carrier, or a stop, that waits for the period in progress (R177) -/
  next     : Option VoutSet := none
  stopping : Bool := false
  running  : Bool := false
  level    : Bool := false
  acc      : BitVec 48 := 0
  accAt    : Nat := 0
  /-- the present frequency, or the latched duty -/
  f        : F64 := 0
  /-- the number of the newest good sample since configuration, and whether it was limited (R175, R176) -/
  good     : Option (F64 × Bool) := none
  newest   : Option SampleWord := none
  halted   : Bool := false
  high     : Nat := 0
  period   : Option Nat := none
  clamped  : Bool := false
  onBad    : Bool := false
  badCnt   : BitVec 32 := 0
deriving DecidableEq, Repr

structure Lin where
  desc : Tab LinDesc := []
  temp : Tab TempUse := []
  /-- earlier descriptors with their temperature's state, and earlier corrections: each with the instant before which
  it held (R166, R348) -/
  descOld : Tab (List (Nat × LinDesc × TempUse)) := []
  corrOld : Tab (List (Nat × Corr)) := []
  /-- by store entry: page × 264 + entry index (R346) -/
  corr : Tab Corr := []
  vout : Tab Vout := []
deriving DecidableEq, Repr

/-! ### Streams, reductions, ledger (R16 to R32, R182 to R204) -/

structure StreamDef where
  kind    : Nat := 0
  rate    : Nat := 0
  skind   : Nat := 0
  slots   : List Nat := []
  dest    : Nat := 0
  opts    : Nat := 0
  roGroup : Nat := 0
  target  : Nat := 0
  port    : Nat := 0
  block   : Nat := 0
  retain  : Nat := 0
  rto     : Nat := 20
  pars    : List Int := [0, 0, 0, 0]
deriving DecidableEq, Repr

/-- Where a word of a block stands: not yet there; resident before its deadline; in M; booked F or D; or replaced before
its deadline and to be booked F or D, with its cause, when the deadline passes. -/
inductive WordSt where
  | absent | early | inM | inF | inD
  | dueF (cause : Nat)
  | dueD (cause : Nat)
deriving DecidableEq, Repr

structure Word32 where
  w  : BitVec 32 := 0x80000001
  st : WordSt := .absent
deriving DecidableEq, Repr

/-- What a destination knows of a block (R202, R203). -/
structure DestSt where
  acked : Bool := false
  sent  : Option Nat := none
  /-- last retransmission for a later block acknowledged (R203) -/
  fast  : Option Nat := none
deriving DecidableEq, Repr

/-- The ledger snapshot that a block carries (R26, R198). -/
structure BlockSnap where
  tick : Nat := 0
  p    : Nat := 0
  d    : Nat := 0
  f    : Nat := 0
  brk  : Bool := false
deriving DecidableEq, Repr

structure Block where
  seq     : BitVec 32
  /-- first output that the block covers, and how many; for kinds 4 and 5 the interval, for kind 6 the tick -/
  first   : Nat
  count   : Nat
  /-- the header's FIRST_INDEX and the instant of it in refs -/
  fidx    : Nat
  firstT  : Nat
  body    : List Word32 := []
  /-- stamp and slot of each entry of a stamped block, in order -/
  stamps  : List (Nat × Nat) := []
  partial_ : Bool := false
  /-- no further output is added -/
  fixed   : Bool := true
  restart : Bool := false
  closed  : Bool := false
  /-- the stored body is final -/
  coded   : Bool := false
  snap    : BlockSnap := {}
  /-- header and body as they are sent, once coded -/
  bytes   : List Byte := []
  /-- the credits that the block holds, by their number in the retention area -/
  creds   : List Nat := []
  closeAt : Nat := 0
  dst     : Tab DestSt := []
deriving DecidableEq, Repr

structure Counters where
  p : BitVec 64 := 0
  m : BitVec 64 := 0
  a : BitVec 64 := 0
  d : BitVec 64 := 0
  f : BitVec 64 := 0
deriving DecidableEq, Repr

structure Pool where
  cap       : Nat := 0
  free      : Nat := 0
  held      : Nat := 0
  reclaimed : Nat := 0
deriving DecidableEq, Repr

structure Stream where
  defd      : Bool := false
  cfg       : StreamDef := {}
  enabled   : Bool := false
  retained  : Bool := false
  base      : Nat := 0
  size      : Nat := 0
  cnt       : Counters := {}
  cause     : Tab (BitVec 32) := []
  lateCnt   : BitVec 32 := 0
  brk       : Bool := false
  pool      : Pool := {}
  nextSeq   : BitVec 32 := 0
  /-- the next block starts the sequence numbers again (R187) -/
  restarted : Bool := true
  closedAny : Bool := false
  /-- first output of the next block to open -/
  nextM     : Nat := 0
  /-- next output to be booked at its deadline, by channel -/
  due       : List Nat := []
  /-- first output that is not delivered any more, once disabled, or from the start -/
  stopAt    : Option Nat := some 0
  /-- outputs [from, to) that were not delivered, oldest first -/
  gaps      : List (Nat × Nat) := []
  /-- ticks of the partial outputs of kinds 4 and 5 -/
  cutTicks  : List Nat := []
  /-- emissions of an instance that started within its interval: output, and first input counted (R496) -/
  partOuts  : List (Nat × Nat) := []
  /-- blocks in assembly, in index order -/
  asm       : List Block := []
  blocks    : List Block := []
  /-- entries of a stamped stream since the first enable -/
  entries   : Nat := 0
  /-- words whose block was freed before their deadline: output, channel, and the cause if not acknowledged -/
  earlyGone : List (Nat × Nat × Option Nat × Bool) := []
  /-- words of a records-only stream before their deadline: output, channel, word -/
  held      : List (Nat × Nat × List (BitVec 32)) := []
deriving DecidableEq, Repr

structure StreamSnap where
  cnt      : Counters := {}
  retained : Bool := false
  enabled  : Bool := false
  brk      : Bool := false
  late     : BitVec 32 := 0
  pool     : Pool := {}
  cause    : Tab (BitVec 32) := []
deriving DecidableEq, Repr

/-- A reduction instance (R190, R496). -/
structure RedInst where
  slot    : Nat
  skind   : Nat
  kind    : Nat
  rate    : Nat
  target  : Nat
  period  : Nat
  pars    : List Int
  /-- byte address of the cells or bins, and the allocation that holds them: base and size in KiB -/
  base    : Nat := 0
  extent  : Nat × Nat := (0, 0)
  /-- ticks at which the instance starts and stops, oldest first; the head is the run that is counted -/
  runs    : List (Nat × Option Nat) := []
  /-- next input index to be counted -/
  nextIn  : Nat := 0
  /-- output that is gathered and its inputs, newest first (kinds 1 to 3) -/
  accM    : Nat := 0
  acc     : List (Nat × SampleWord) := []
  /-- inputs that wait behind an interval boundary (kinds 4 and 5), oldest first -/
  wait    : List (Nat × SampleWord) := []
  /-- the interval that is counted, by its number -/
  intv    : Nat := 0
  /-- streams disabled within the interval: the tick, and the stream -/
  cuts    : List (Nat × Nat) := []
  cells   : Tab Nat := []
  stack   : List Int := []
  dir     : Int := 0
  ext     : Int := 0
  ref     : Int := 0
  seen    : Bool := false
  skipped : Nat := 0
  sat     : Bool := false
  resOvf  : Bool := false
  flagOr  : Nat := 0
  /-- poisoned cells or bins -/
  poison  : List Nat := []
deriving DecidableEq, Repr

structure HandOver where
  tick    : Nat
  func    : Nat
  standIn : Nat
  back    : Bool
  /-- stream, last index from the old source, first from the new -/
  entries : List (Nat × Nat × Nat) := []
deriving DecidableEq, Repr

structure Streams where
  s         : Tab Stream := []
  red       : List RedInst := []
  fabric    : Pool := { cap := 128, free := 128 }
  fabHeldR  : Tab Nat := []
  fabBreak  : Bool := false
  snap      : Tab StreamSnap := []
  snapFab   : Pool := { cap := 128, free := 128 }
  snapHeldR : Tab Nat := []
  snapBreak : Bool := false
  checkSeq  : BitVec 32 := 0
  checkTick : Nat := 0
  poolBreak : Tab Bool := []
  handovers : List HandOver := []
  keptAcks  : List Dgram := []
deriving DecidableEq, Repr

/-! ### Triggers and records (R205 to R241) -/

structure Sequencer where
  table  : Tab (BitVec 128) := []
  state  : Nat := 0
  cnt    : Tab (BitVec 32) := []
  tmr    : Tab Nat := []
deriving DecidableEq, Repr

structure RecSlot where
  slot  : Nat
  dkind : Nat
  aTh   : Nat
deriving DecidableEq, Repr

structure GroupDef where
  rate     : Nat := 0
  seqMask  : Nat := 0
  ignore   : Byte := 0xA9
  events   : Nat := 0
  queues   : Nat := 0
  nflags   : Nat := 0
  slots    : List RecSlot := []
  keyId    : Nat := 0
  mcPort   : Nat := 0
  tPre     : Nat := 0
  tPost    : Nat := 0
  tRearm   : Nat := 0
  area     : Nat := 0
  netGroup : BitVec 32 := 0
  mcAddr   : BitVec 128 := 0
  /-- the fixed fields and slot entries as TRIG_STATUS returns them -/
  bytes    : List Byte := []
deriving DecidableEq, Repr

/-- A fire that reaches a group (R216); `member` is the mask of members that fired. -/
structure Fire where
  /-- t_trig in 2^-16 ns -/
  trig    : Nat
  cause   : BitVec 32 := 0
  members : Nat := 0
  network : Bool := false
  forced  : Bool := false
  origHub : BitVec 16 := 0
  origRec : BitVec 32 := 0
  origCause : BitVec 32 := 0
  named   : Bool := false
  send    : Bool := false
  owed    : Option Owed := none
  /-- of a fire that is handled before its evaluation: for each record slot, its oldest held index then and its held words of
  the window; and whether a slot's history no longer reached back (R215, R225) -/
  held    : List (Nat × List (Nat × SampleWord)) := []
  late    : Bool := false
deriving DecidableEq, Repr

structure RecPart where
  slot  : Nat
  dkind : Nat
  rate  : Nat
  aTh   : Nat := 0
  first : Nat
  nPre  : Nat
  nPost : Nat
  words : List SampleWord := []
deriving DecidableEq, Repr

structure Record where
  no       : BitVec 32
  trig     : Nat
  fireT    : Nat
  flags    : BitVec 16 := 0
  cause    : BitVec 32 := 0
  origHub  : BitVec 16 := 0
  origRec  : BitVec 32 := 0
  origCause : BitVec 32 := 0
  missed   : BitVec 32 := 0
  armTick  : Nat := 0
  parts    : List RecPart := []
  stamps   : List (BitVec 64) := []
  /-- byte offset in record memory and reserved bytes -/
  ofs      : Nat := 0
  reserved : Nat := 0
  length   : Nat := 0
  complete : Bool := false
  tPre     : Nat := 0
  tPost    : Nat := 0
  netGroup : BitVec 32 := 0
  defCrc   : BitVec 32 := 0
deriving DecidableEq, Repr

structure Group where
  defd     : Bool := false
  cfg      : GroupDef := {}
  base     : Nat := 0
  size     : Nat := 0
  armed    : Bool := false
  armTick  : Nat := 0
  /-- next evaluation index -/
  next     : Nat := 0
  /-- first index that a disarm no longer evaluates, and the tick of an arm that follows it -/
  stopAt   : Option Nat := none
  rearm    : Option Nat := none
  recNo    : BitVec 32 := 0
  lastE    : Option Nat := none
  missed   : BitVec 32 := 0
  missHold : BitVec 32 := 0
  missSpc  : BitVec 32 := 0
  disarmed : Nat := 0
  lateArm  : Bool := false
  fires    : List Fire := []
  recs     : List Record := []
  /-- windows of the records accepted so far, in 2^-16 ns (R188) -/
  recWins  : List (Nat × Nat) := []
  /-- arms and disarms named by messages: tick and whether it arms -/
  armAt    : List (Nat × Bool) := []
deriving DecidableEq, Repr

structure Triggers where
  seqr     : Tab Sequencer := []
  grp      : Tab Group := []
  /-- stamps taken: TDC input 0 to 31, instant in 2^-16 ns, and the stamp, newest first -/
  stamps   : List (Nat × Nat × BitVec 64) := []
  handled  : List (BitVec 16 × BitVec 32) := []
deriving DecidableEq, Repr

/-! ### Record memory (R242 to R262) -/

structure HistEntry where
  slot  : Nat
  kind  : Nat
  depth : Nat
  base  : Nat
  size  : Nat
  /-- kept samples, newest first: index and word -/
  ring  : List (Nat × SampleWord) := []
deriving DecidableEq, Repr

structure PhysBank where
  lastSweep : BitVec 32 := 0
  thisSweep : BitVec 32 := 0
  total     : BitVec 64 := 0
  uncorr    : BitVec 32 := 0
deriving DecidableEq, Repr

inductive MigPhase where
  | copying | copied
deriving DecidableEq, Repr

structure Migration where
  bank  : Nat
  phase : MigPhase
  owed  : Option Owed := none
deriving DecidableEq, Repr

/-- A poison map: the poisoned words, by address, in three copies of which a majority counts (R254). -/
structure PoisonMap where
  c0 : List Nat := []
  c1 : List Nat := []
  c2 : List Nat := []
deriving DecidableEq, Repr

structure RecMem where
  mem       : List Host.Cell := []
  poison    : PoisonMap := {}
  llPoison  : PoisonMap := {}
  plan      : List Nat := [0, 0, 0, 0, 0]
  hist      : List HistEntry := []
  physOf    : Tab Nat := []
  sparePhys : Option Nat := some 32
  retired   : List Nat := []
  mig       : Option Migration := none
  /-- banks that R258 asks to migrate at the next boundary, with a renewal's request -/
  wantMig   : List (Nat × Option Owed) := []
  bankCnt   : Tab PhysBank := []
  period    : Nat := 60
  ceLimit   : Nat := 64
  ueMigrate : Bool := true
  pos       : Nat := 0
  sweeps    : BitVec 24 := 0
deriving DecidableEq, Repr

/-! ### Cooper (R275 to R280) -/

structure Job where
  tag     : BitVec 16
  group   : Nat
  options : Nat
  record  : BitVec 32
  base    : Nat
  size    : Nat
  bwords  : Nat
  owed    : Owed
  running : Bool := false
  /-- bytes of job blocks written, and the place after the job header of the next one -/
  written : Nat := 0
  span    : Nat := 0
  blocks  : Nat := 0
  /-- directory position, words of that slot already coded, and whether the first block is written -/
  slotPos : Nat := 0
  wordPos : Nat := 0
  started : Bool := false
  /-- the room left for the first block where data blocks came before it (log 152); 0 where none is -/
  room    : Nat := 0
deriving DecidableEq, Repr

/-! ### Loops, Wicks, drive ports, pairs (R282 to R329) -/

structure LoopDef where
  fb      : Nat := 0
  vbus    : Nat := 0xFFFF
  acc     : Nat := 0xFFFF
  accKind : Nat := 0
  period  : Nat := 0
  phase   : Nat := 0
deriving DecidableEq, Repr

structure LoopParam where
  safeState : Nat := 0
  staleMax  : Nat := 4
  rSet      : Int := 0
  ki        : Nat := 0
  iMin      : Int := -1073741824
  iMax      : Int := 1073741824
  kv        : Int := 0
  vNom      : Int := 0
  ka        : Int := 0
  h         : Nat := 65536
  tOnMin    : Nat := 0
  tOffMin   : Nat := 0
  lFe       : Nat := 1073741824
  tFe       : Nat := 0
  nFrz      : Nat := 64
  ffHold    : Nat := 64
deriving DecidableEq, Repr

inductive LoopMode where
  | off | forced | closed | inject | safe
deriving DecidableEq, Repr

inductive Supervision where
  | none | fbBad | fbWire | fbOvr | stale | frozen | following | noCheckpoint
deriving DecidableEq, Repr

structure Inject where
  signal : Nat
  order  : Nat
  ampl   : Nat
  count  : Nat
  base   : Nat
  bitLen : Nat
  f0     : F64
  f1     : F64
  freqs  : List F64
deriving DecidableEq, Repr

/-- One captured evaluation (R303). -/
structure CapEntry where
  d  : Int
  y  : Int
  i  : Int
  st : Nat
deriving DecidableEq, Repr

/-- The state of R299 that a checkpoint carries. -/
structure LoopRun where
  mode      : LoopMode := .off
  out       : Bool := false
  forced    : Bool := false
  k         : Nat := 0
  onEdge    : Nat := 0
  offEdge   : Nat := 0
  i         : Int := 0
  y         : Int := 0
  usedStamp : Nat := 0
  staleRun  : Nat := 0
  frzRun    : Nat := 0
  frzValue  : Int := 0
  /-- fresh values used since the output last switched within the freeze run -/
  frzSince  : Option Nat := none
  feStart   : Nat := 0
  tvHeld    : Int := 0
  taHeld    : Int := 0
  ffvLeft   : Nat := 0
  ffaLeft   : Nat := 0
  ffvBad    : Bool := false
  ffaBad    : Bool := false
  edges     : BitVec 32 := 0
  injPos    : Nat := 0
  prbs      : Nat := 0
  safeCause : Supervision := .none
  stale     : Bool := false
  capturing : Bool := false
deriving DecidableEq, Repr

/-- The fields of the LOOP block that are not in the run (R304). -/
structure LoopRegs where
  r        : Int := 0
  e        : Int := 0
  v        : Int := 0
  fbWord   : BitVec 32 := 0
  fbNs     : BitVec 32 := 0
  edgeNs   : BitVec 32 := 0
  staleCnt : Tab (BitVec 32) := []
  minHolds : Tab (BitVec 32) := []
  safeCnt  : BitVec 32 := 0
  feRun    : BitVec 32 := 0
  actWick  : Nat := 0
  snapSeq  : BitVec 32 := 0
deriving DecidableEq, Repr

structure Loop where
  defd     : Bool := false
  cfg      : LoopDef := {}
  par      : LoopParam := {}
  stgPar   : Option (Nat × LoopParam) := none
  /-- staged mode, forced state, apply tick -/
  stgMode  : Option (Nat × LoopMode × Bool) := none
  /-- who is told of the end of the capture that a staged `LOOP_MODE` starts -/
  modeOwed : Option Owed := none
  /-- a staged LOOP_INJECT: its apply tick and who is owed -/
  stgInj   : Option (Nat × Option Owed) := none
  run      : LoopRun := {}
  reg      : LoopRegs := {}
  inj      : Option Inject := none
  capOwed  : Option Owed := none
  captured : List CapEntry := []
  firstK   : Nat := 0
  tstatus  : Nat := 0
  capEnd   : Bool := false
  /-- the first evaluation after a failover has yet to come; the stage's reported output -/
  resume   : Option Bool := none
  /-- instant before which the loop is not evaluated -/
  from_    : Nat := 0
  /-- deputy loop: tracks the stage's output (R323) -/
  tracking : Bool := false
  /-- address of the last tuning record written -/
  tuned    : Option Nat := none
deriving DecidableEq, Repr

/-- A frame that left a port and whose status frame is awaited (R329): its `SEQ`, its bits and its start. -/
structure Awaited where
  seq   : BitVec 8
  frame : BitVec 64
  start : Nat
deriving DecidableEq, Repr

/-- A drive port with its link counters (R325 to R329, R413). -/
structure DrivePort where
  seq       : BitVec 8 := 0
  frame     : BitVec 64 := 0
  start     : Nat := 0
  /-- oldest first -/
  expect    : List Awaited := []
  last      : BitVec 64 := 0
  lastEnd   : Nat := 0
  latched   : BitVec 64 := 0
  age       : BitVec 32 := 0
  missing   : BitVec 32 := 0
  crcErr    : BitVec 32 := 0
  refused   : BitVec 32 := 0
  missRun   : Nat := 0
  linkDown  : Bool := false
  acceptAt  : Nat := 0
  acting    : BitVec 16 := 0
  stageOut  : Bool := false
  conflict  : Bool := false
  /-- the partner's first DRIVE frame has not been accepted yet (R318) -/
  waitFirst : Bool := false
  released  : Bool := false
deriving DecidableEq, Repr

inductive FailPhase where
  | none | fenced | powered
deriving DecidableEq, Repr

structure Wick where
  active    : Option Nat := some 0
  fenced    : Tab Nat := []
  home      : Nat := 0
  station   : Nat := 0
  interval  : Nat := 204800
  ckJ       : Nat := 0
  ckSlot    : Nat := 0
  ckSeq     : BitVec 32 := 0
  skipped   : BitVec 32 := 0
  failovers : BitVec 32 := 0
  fail      : FailPhase := .none
  /-- Wick whose take-back or planned hand-over is due at the next boundary -/
  takeback  : Option Nat := none
  loop      : Tab Loop := []
  port      : Tab DrivePort := []
  partner   : BitVec 16 := 0
  pairKey   : Nat := 0
  paired    : Bool := false
  /-- deputy loop and the partner's home loop it covers -/
  pairs     : List (Nat × Nat) := []
  hbSeq     : BitVec 32 := 0
  hbLast    : Nat := 0
  hbMask    : BitVec 32 := 0xFFFFFFFF
  pairLost  : Bool := false
deriving DecidableEq, Repr

/-! ### Calibration (R331 to R354) -/

inductive CalPhase where
  /-- the spare is beside the channel and the windows run -/
  | overlapOut
  /-- a window has passed; delivery switches at the next boundary -/
  | switchOut
  /-- the spare delivers; the channel leaves its pins at the boundary of R337 -/
  | parking
  | out | overlapBack | switchBack | parkBack | mismatchHeld
deriving DecidableEq, Repr

structure CalPoint where
  gain   : Nat
  source : Nat
  m      : Nat
  v      : F64
  mean   : F64 := 0
  sd     : F64 := 0
  /-- samples seen and samples used, while it runs -/
  seen   : Nat := 0
  vals   : List Int := []
  done   : Bool := false
  tick   : Nat := 0
  owed   : Option Owed := none
deriving DecidableEq, Repr

structure CalResult where
  entry   : Nat
  o       : F64
  g       : F64
  quality : Nat
  isOver  : Bool
  tick    : Nat
deriving DecidableEq, Repr

structure Session where
  target   : Nat
  phase    : CalPhase
  nMatch   : Nat := 256
  mOfs     : Nat := 50
  mRms     : Nat := 10
  qMax     : Nat := 200
  rate     : Nat := 0xFF
  set      : Nat := 0xFF
  points   : List CalPoint := []
  results  : List CalResult := []
  windows  : Nat := 0
  /-- usable corrected signals by index, channel's and spare's, and the index after the newest of each -/
  seenChan : Nat := 0
  seenSpare : Nat := 0
  xChan    : Tab F64 := []
  xSpare   : Tab F64 := []
  /-- first usable index of the window -/
  winFrom  : Option Nat := none
  swIndex  : Nat := 0
  mean     : F64 := 0
  sd       : F64 := 0
  force    : Bool := false
  owed     : Option Owed := none
  /-- opened by a renewal, a disable or a substitution instead of CAL_BEGIN -/
  forFunc  : Option Nat := none
  /-- a substitution that stays: the session ends once the spare delivers (R354, R463) -/
  legacy   : Bool := false
  /-- the slot's own gain, while points set the gain of its front end (R353) -/
  gain0    : Option Nat := none
deriving DecidableEq, Repr

/-- A commit whose store write waits (R347): the page, the results to merge into it, the tick of its acceptance and the tick
from which it may take effect (R4). -/
structure StoreWrite where
  page    : Nat
  results : List CalResult
  at_     : Nat
  tick    : Nat
  owed    : Owed
deriving DecidableEq, Repr

/-- A page written and verified, whose coefficients have yet to take effect (R348). -/
structure StoredPage where
  page  : Nat
  bytes : List Byte
  tick  : Nat
  owed  : Owed
deriving DecidableEq, Repr

structure Cal where
  sess   : Tab Session := []
  writes : List StoreWrite := []
  stored : List StoredPage := []
  /-- slot of each page in force: 0 or 1, with its SEQ and commit tick -/
  inUse  : Tab (Nat × Nat × Nat) := []
deriving DecidableEq, Repr

/-! ### Functions (R407 to R411, R461 to R467) -/

inductive FnState where
  | running | draining | quiescent | off | fault | renewing | enablePending
deriving DecidableEq, Repr

inductive RenewPhase where
  /-- the work goes out, or there is none: the hand-over is due -/
  | going
  /-- reset and self-test -/
  | testing
  /-- passed: the work returns -/
  | returning
deriving DecidableEq, Repr

structure Func where
  state    : FnState := .running
  held     : Bool := false
  cause    : Nat := 0
  standIn  : Nat := 0xFFFF
  /-- state at the reset write (R410) -/
  prior    : FnState := .off
  /-- an FRS write or FUNC_ENABLE starts it at the next boundary -/
  starting : Bool := false
  testing  : Bool := false
  enOwed   : Option Owed := none
  disOwed  : List Owed := []
  renOwed  : Option Owed := none
  renew    : Option RenewPhase := none
  /-- whether the renewal only tests, and the state to which it returns (R464) -/
  testOnly : Option FnState := none
  /-- members that a renewal has yet to take in turn: positions of a bank, lanes of Chandler (R467) -/
  todo     : List Nat := []
  consumed : Bool := false
  /-- last commit deadline of the words it took (R462) -/
  drainTo  : Nat := 0
  /-- outages by FRS writes: cause (0 reset, 1 disable), start, and end once it runs again (R19) -/
  loss     : List (Nat × Nat × Option Nat) := []
deriving DecidableEq, Repr

/-! ### Pace monitors and health monitors (R39 to R43, R417 to R423) -/

structure Pace where
  cycle      : BitVec 16 := 0
  margin     : Int := 0
  minMargin  : Tab Int := []
  floor      : Int := 0x7FFF
  alarmLvl   : Int := 300
  overflow   : Tab Bool := []
  valid      : Bool := false
  belowFloor : Tab Bool := []
  alarm      : Bool := false
  goodRun    : Nat := 0
deriving DecidableEq, Repr

structure MonBank where
  count : Nat := 0
  min   : Int := 0x7FFFFFFF
  max   : Int := -0x80000000
  bins  : Tab Nat := []
deriving DecidableEq, Repr

structure Monitor where
  owner    : Nat := 0
  running  : Bool := false
  auto     : Bool := false
  winTicks : Nat := 200
  source   : Nat := 0
  binLo    : Int := 0
  binW     : Nat := 1
  snapSeq  : BitVec 32 := 0
  snapTick : Nat := 0
  live     : MonBank := {}
  snap     : MonBank := {}
  /-- tick of the last swap by SNAP, and of the last automatic swap (R421) -/
  snapIn   : Option Nat := none
  autoIn   : Option Nat := none
deriving DecidableEq, Repr

/-! ### Network (R424 to R447) -/

structure NetPort where
  mode       : Nat := 0
  link       : Bool := false
  los        : Bool := false
  blocked    : Bool := false
  /-- a regained ring link that does not pass ring control frames yet (R440), and since when it is up -/
  holding    : Bool := false
  upSince    : Nat := 0
  /-- bytes in the receive buffer of 8 KiB (R33) -/
  rxBuf      : Nat := 0
  rxDiscard  : BitVec 32 := 0
  discard    : BitVec 32 := 0
  authFail   : BitVec 32 := 0
  dropped    : BitVec 32 := 0
  rxFrames   : BitVec 64 := 0
  txFrames   : BitVec 64 := 0
  blockAlign : BitVec 16 := 0
deriving DecidableEq, Repr

structure Learned where
  mac  : BitVec 48
  vlan : Nat
  port : Nat
  seen : Nat
deriving DecidableEq, Repr

structure RingSt where
  configured : Bool := false
  role       : Nat := 0
  blockedPort : Nat := 0
  vlan       : Nat := 0
  state      : Nat := 0
  healthSeq  : BitVec 32 := 0
  downSeq    : BitVec 32 := 0
  flushSeq   : BitVec 32 := 0
  /-- HEALTH frames sent and not yet back -/
  out        : Nat := 0
  broken     : Bool := false
  /-- sender and number of the newest FLUSH taken in -/
  lastFlush  : Option (Nat × Nat) := none
deriving DecidableEq, Repr

/-- A NOTICE datagram outstanding: its counter, its bytes, the notices it carries, when it was last sent. -/
structure OutNotice where
  counter : Nat
  bytes   : List Byte
  items   : List Notice
  sent    : Nat
deriving DecidableEq, Repr

structure Collector where
  cfg     : CollCfg := {}
  lastSrc : BitVec 128 := 0
  lastPrt : Nat := 0
  rxCnt   : Nat := 0
  txCnt   : Nat := 1
  outst   : Option OutNotice := none
deriving DecidableEq, Repr

structure Net where
  port     : Tab NetPort := []
  table    : List Learned := []
  own      : NetCfg := {}
  v6Usable : Bool := false
  ring     : RingSt := {}
  coll     : Tab Collector := []
  arp      : List (BitVec 32 × BitVec 48 × Nat) := []
  icmpSec  : Nat := 0
  icmpCnt  : Nat := 0
  /-- frames delivered to the hub's own port, oldest first -/
  ownRx    : List (List Byte) := []
  /-- mailbox requests that arrived while a takeover ran (R366) -/
  keptReqs : List Dgram := []
deriving DecidableEq, Repr

/-- What the hub gives to the outside (model's observation log). -/
inductive OutMsg where
  /-- a UDP datagram: destination address, destination port, priority, payload -/
  | udp (addr : BitVec 128) (port : Nat) (prio : Nat) (body : List Byte)
  /-- the same as IP fragments, each but the last of so many bytes of the datagram with its UDP header (R432) -/
  | udpCut (addr : BitVec 128) (port : Nat) (prio : Nat) (piece : Nat) (body : List Byte)
  /-- a Layer 2 frame out of a physical port -/
  | frame (port : Nat) (body : List Byte)
  /-- a ring control frame out of a ring port: type, PORT, SEQ -/
  | ring (port : Nat) (type : Nat) (named : Nat) (seq : BitVec 32)
  /-- a drive frame -/
  | drive (port : Nat) (frame : BitVec 64) (start : Nat)
  /-- a Delay_Req, an ESMC, an ARP reply, a neighbour advertisement, an echo reply -/
  | delayReq (port : Nat) (seq : BitVec 16)
  | esmc (port : Nat) (ql : Byte)
  | arpReply (dst : BitVec 32) (mac : BitVec 48)
  | neighbourAdv (dst : BitVec 128)
  | echoReply (v6 : Bool) (dst : BitVec 128) (data : List Byte)
deriving DecidableEq, Repr

/-! ### The whole -/

structure State where
  pending : List Instr := []
  now     : Nat := 0
  freeCtr : Nat := 0
  sent    : List OutMsg := []
  pwr     : Power := {}
  glb     : Glb := {}
  io      : Ports := {}
  tb      : TimeBase := {}
  fe      : FrontEnd := {}
  chd     : Chandler := {}
  lin     : Lin := {}
  str     : Streams := {}
  trg     : Triggers := {}
  rm      : RecMem := {}
  cop     : List Job := []
  wick    : Wick := {}
  cal     : Cal := {}
  mbx     : MbxState := {}
  ntq     : Tab Ntq := []
  fn      : Tab Func := []
  pace    : Tab Pace := []
  mon     : Tab Monitor := []
  net     : Net := {}
deriving DecidableEq, Repr

/-- The hub at the instant at which PORN has just risen (R449 row 0). -/
def State.reset : State := {}

end Sys2Proof.Machine
end

