-- ==== Sys2Proof/Machine/Flags.lean ====
section
/-! DEFINITION. The sample word (R178 to R181), its flags, and the windows in which a flag is set (R97, R101, R122). -/
namespace Sys2Proof.Machine

def fBad : Nat := 0x01
def fHold : Nat := 0x02
def fSpare : Nat := 0x04
def fWire : Nat := 0x08
def fOvr : Nat := 0x10
def fClamp : Nat := 0x20
def fDist : Nat := 0x40
def fSettle : Nat := 0x80

/-- Positive and negative saturation and the value of a `BAD` sample (R179). -/
def satMax : Int := 8388607
def satMin : Int := -8388607

/-- A word from its value and flags (R178). -/
def mkWord (v : Int) (fl : Nat) : SampleWord := BitVec.ofNat 32 (unsgn 24 v * 256 + fl % 256)

/-- A word delivered because it was booked F or D (R181). -/
def badWord : SampleWord := 0x80000001

/-- The value of a sample. -/
def wVal (w : SampleWord) : Int := sgn 24 (w.toNat / 256)

/-- The flags of a sample. -/
def wFlags (w : SampleWord) : Nat := w.toNat % 256

def wHas (w : SampleWord) (f : Nat) : Bool := (wFlags w).land f != 0

def wBad (w : SampleWord) : Bool := wHas w fBad

/-- A measured value saturated as R143, R168 and R128 give; the codes of saturation carry `OVR` (R179). -/
def satWord (v : Int) (fl : Nat) : SampleWord :=
  if satMax ≤ v then mkWord satMax (fl.lor fOvr)
  else if v ≤ satMin then mkWord satMin (fl.lor fOvr)
  else mkWord v fl

/-- A sample made `BAD`, keeping the flags that its path gave it (R181). -/
def badKeep (fl : Nat) : SampleWord := mkWord (-8388608) (fl.lor fBad)

/-- Flag codes of a window in a byte. -/
def flagByte (f : Nat) : Byte := BitVec.ofNat 8 f

/-- Whether an output with instant `t` lies in the window, for a half-span of `hr` refs (R122). -/
def Win.covers (w : Win) (hr t : Nat) : Bool :=
  match w.kind with
  | .step => decide (w.lo ≤ t + hr) && (match w.hi with | none => true | some h => decide (t ≤ h + hr))
  | .start => decide (w.lo ≤ t) && (match w.hi with | none => true | some h => decide (t < h + hr))
  | .plain => decide (w.lo ≤ t) && (match w.hi with | none => true | some h => decide (t < h))

/-- The flags that a slot's windows give an output (R97, R101: the union of the windows). -/
def winFlags (ws : List Win) (hr t : Nat) : Nat :=
  ws.foldl (fun a w => if w.covers hr t then a.lor w.flag.toNat else a) 0

/-- Whether a window of a flag and kind is still open. -/
def winOpen (ws : List Win) (f : Nat) (k : WinKind) : Bool :=
  ws.any fun w => w.flag == flagByte f && w.hi.isNone && w.kind == k

/-- A window opened. -/
def winStart (ws : List Win) (f : Nat) (k : WinKind) (lo : Nat) : List Win :=
  { flag := flagByte f, kind := k, lo := lo, hi := none } :: ws

/-- The open windows of a flag and kind closed at `hi`. -/
def winStop (ws : List Win) (f : Nat) (k : WinKind) (hi : Nat) : List Win :=
  ws.map fun w => if w.flag == flagByte f && w.hi.isNone && w.kind == k then { w with hi := some hi } else w

/-- A window of known length (R122). -/
def winAdd (ws : List Win) (f : Nat) (k : WinKind) (lo t : Nat) : List Win :=
  { flag := flagByte f, kind := k, lo := lo, hi := some (lo + t) } :: ws

end Sys2Proof.Machine
end

