-- ==== Sys2Proof/Config.lean ====
section
/-! DEFINITION. What one implementation fixes and the spec does not state: constants with no body, so that no proof can
see a value of them. Each is named in a row of the assumption log. -/
namespace Sys2Proof.Config

/-- A value that the spec leaves open, applied to the counter `State.freeCtr`. -/
opaque freeValue : Nat → BitVec 64

/-- Values of a monitored source that the spec leaves open, of one tick, applied to the counter `State.freeCtr`. -/
opaque freeValues : Nat → List Nat

/-- Coefficient word 0 to 8 191 of the factory sets, loaded from ROM (R144). The spec gives their responses only. -/
opaque factoryCoef : Nat → BitVec 24

/-- Stage descriptor 0 to 287 of the factory sets 0 to 3 (R144); `Machine.factoryChain` holds them to R118, R121, R140
and R145. -/
opaque factoryStage : Nat → BitVec 64

/-- Tap 0 to 62 of the wideband half-band (R140), and the shift of its stage. -/
opaque halfBandTap : Nat → BitVec 24

opaque halfBandShift : Nat

/-- The production value of the tile's 2.5 V reference, input 18, where the fuses are read (R344), by tile. -/
opaque tileRef : Nat → F64

/-- The budget in picoseconds of each pace segment at the slow corner (R39). -/
opaque paceBudget : Nat → Nat

/-- Pelmezar's firmware public key, whose hash is in the boot ROM (R458): 64 bytes, x then y. -/
opaque firmwareKey : List Byte

/-- The last bit of a binary64 sine, cosine and argument (R300, R302), which the spec does not fix: 1 one step up in
magnitude from the value rounded once, 2 one step down, else none. -/
opaque sineStep : F64 → BitVec 2

opaque cosineStep : F64 → BitVec 2

opaque argumentStep : F64 → F64 → BitVec 2

/-- The table of the slot sequencer (R137) that the active Lamplighter computes for the work of the running slots: for each
slot the lanes that do it, with their shares. The first argument is the counter `State.freeCtr`. -/
opaque laneTable : Nat → List (Nat × Nat) → List (Nat × List (Nat × Nat))

end Sys2Proof.Config
end

