-- ==== Sys2Proof/Machine/F64.lean ====
section
/-! DEFINITION. Binary64 arithmetic on bits (R162, R163, R168, R237, R341, R342): every operation computes the exact
value and rounds once to nearest, ties to even, as IEEE 754 gives. A NaN result has one bit pattern
(0x7FF8_0000_0000_0000); the spec never reads a NaN's payload. -/
namespace Sys2Proof.Machine

/-- The value of a binary64: not a number, an infinity, or (-1)^s * m * 2^e. -/
inductive Fv where
  | nan
  | inf (s : Bool)
  | fin (s : Bool) (m : Nat) (e : Int)
deriving DecidableEq, Repr

def F64.nan : F64 := 0x7FF8000000000000
def F64.inf (s : Bool) : F64 := if s then 0xFFF0000000000000 else 0x7FF0000000000000

/-- The value that bits stand for. -/
def F64.unpack (x : F64) : Fv :=
  let v := x.toNat
  let s := bit v 63
  let ex := bits v 62 52
  let fr := v % 2 ^ 52
  if ex = 2047 then (if fr = 0 then .inf s else .nan)
  else if ex = 0 then .fin s fr (-1074)
  else .fin s (fr + 2 ^ 52) ((ex : Int) - 1075)

/-- Sign and a mantissa below 2^54 at exponent e, packed; overflow gives an infinity. -/
def F64.pack (s : Bool) (m : Nat) (e : Int) : F64 :=
  let (m, e) := if 2 ^ 53 ≤ m then (m / 2, e + 1) else (m, e)
  let sb := if s then 2 ^ 63 else 0
  if m < 2 ^ 52 then BitVec.ofNat 64 (sb + m)
  else if 971 < e then F64.inf s
  else BitVec.ofNat 64 (sb + (e + 1075).toNat * 2 ^ 52 + (m - 2 ^ 52))

/-- The quotient of two numbers rounded to nearest, ties to even. -/
def divEven (a b : Nat) : Nat :=
  let q := a / b
  let r := a % b
  if 2 * r < b then q else if b < 2 * r then q + 1 else if q % 2 = 0 then q else q + 1

/-- (-1)^s * num / den rounded once to binary64. -/
def F64.ofRat (s : Bool) (num den : Nat) : F64 :=
  if num = 0 then (if s then 0x8000000000000000 else 0)
  else
    let e0 : Int := (num.log2 : Int) - (den.log2 : Int) - 53
    let sc (e : Int) : Nat × Nat := if 0 ≤ e then (num, den * 2 ^ e.toNat) else (num * 2 ^ (-e).toNat, den)
    let q0 := (sc e0).1 / (sc e0).2
    let e1 : Int := if 2 ^ 53 ≤ q0 then e0 + 1 else e0
    let e : Int := if e1 < -1074 then -1074 else e1
    F64.pack s (divEven (sc e).1 (sc e).2) e

/-- An exact dyadic number rounded once; `z` is the sign of an exact zero. -/
def F64.ofDyadic (z : Bool) (m : Int) (e : Int) : F64 :=
  if m = 0 then (if z then 0x8000000000000000 else 0)
  else if 0 ≤ e then F64.ofRat (decide (m < 0)) (m.natAbs * 2 ^ e.toNat) 1
  else F64.ofRat (decide (m < 0)) m.natAbs (2 ^ (-e).toNat)

def F64.ofInt (v : Int) : F64 := F64.ofDyadic false v 0

/-- A signed mantissa. -/
def smant (s : Bool) (m : Nat) : Int := if s then -(m : Int) else m

/-- Two dyadic numbers added exactly at the smaller exponent. -/
def dyAdd (m1 : Int) (e1 : Int) (m2 : Int) (e2 : Int) : Int × Int :=
  if e1 ≤ e2 then (m1 + m2 * (2 ^ (e2 - e1).toNat : Nat), e1) else (m1 * (2 ^ (e1 - e2).toNat : Nat) + m2, e2)

/-- a * b + c with one rounding. -/
def F64.fma (a b c : F64) : F64 :=
  match F64.unpack a, F64.unpack b, F64.unpack c with
  | .nan, _, _ => F64.nan
  | _, .nan, _ => F64.nan
  | _, _, .nan => F64.nan
  | .inf s, .inf t, .inf u => if (s != t) == u then F64.inf u else F64.nan
  | .inf s, .inf t, .fin .. => F64.inf (s != t)
  | .inf s, .fin t m _, .inf u => if m = 0 then F64.nan else if (s != t) == u then F64.inf u else F64.nan
  | .inf s, .fin t m _, .fin .. => if m = 0 then F64.nan else F64.inf (s != t)
  | .fin s m _, .inf t, .inf u => if m = 0 then F64.nan else if (s != t) == u then F64.inf u else F64.nan
  | .fin s m _, .inf t, .fin .. => if m = 0 then F64.nan else F64.inf (s != t)
  | .fin .., .fin .., .inf u => F64.inf u
  | .fin s m e, .fin t n f, .fin u k g =>
    let p := smant (s != t) (m * n)
    let r := dyAdd p (e + f) (smant u k) g
    F64.ofDyadic ((s != t) && u && decide (m * n = 0 ∧ k = 0)) r.1 r.2

def F64.one : F64 := 0x3FF0000000000000
def F64.neg (a : F64) : F64 := a ^^^ 0x8000000000000000
def F64.abs (a : F64) : F64 := a &&& 0x7FFFFFFFFFFFFFFF

def F64.isNan (a : F64) : Bool := match F64.unpack a with | .nan => true | _ => false
def F64.isFinite (a : F64) : Bool := match F64.unpack a with | .fin .. => true | _ => false
def F64.isZero (a : F64) : Bool := F64.abs a == 0

def F64.add (a b : F64) : F64 := F64.fma a F64.one b
def F64.sub (a b : F64) : F64 := F64.fma a F64.one (F64.neg b)

def F64.mul (a b : F64) : F64 :=
  match F64.unpack a, F64.unpack b with
  | .nan, _ => F64.nan
  | _, .nan => F64.nan
  | .inf s, .inf t => F64.inf (s != t)
  | .inf s, .fin t m _ => if m = 0 then F64.nan else F64.inf (s != t)
  | .fin s m _, .inf t => if m = 0 then F64.nan else F64.inf (s != t)
  | .fin s m e, .fin t n f => F64.ofDyadic (s != t) (smant (s != t) (m * n)) (e + f)

def F64.div (a b : F64) : F64 :=
  match F64.unpack a, F64.unpack b with
  | .nan, _ => F64.nan
  | _, .nan => F64.nan
  | .inf _, .inf _ => F64.nan
  | .inf s, .fin t _ _ => F64.inf (s != t)
  | .fin s _ _, .inf t => F64.ofRat (s != t) 0 1
  | .fin s m e, .fin t n f =>
    if n = 0 then (if m = 0 then F64.nan else F64.inf (s != t))
    else if f ≤ e then F64.ofRat (s != t) (m * 2 ^ (e - f).toNat) n
    else F64.ofRat (s != t) m (n * 2 ^ (f - e).toNat)

/-- The square root, correctly rounded: the root with at least 60 spare bits and a sticky bit. -/
def F64.sqrt (a : F64) : F64 :=
  match F64.unpack a with
  | .nan => F64.nan
  | .inf s => if s then F64.nan else F64.inf false
  | .fin s m e =>
    if m = 0 then a else if s then F64.nan
    else
      let (m, e) := if e % 2 = 0 then (m, e) else (2 * m, e - 1)
      let m := m * 2 ^ 128
      let r := isqrt m
      F64.ofDyadic false ((2 * r + (if r * r = m then 0 else 1) : Nat) : Int) (e / 2 - 65)

/-- a compared with b, for numbers: `none` when either is NaN. -/
def F64.cmp (a b : F64) : Option Ordering :=
  match F64.unpack a, F64.unpack b with
  | .nan, _ => none
  | _, .nan => none
  | .inf s, .inf t => some (compare (if s then (0 : Int) else 1) (if t then 0 else 1))
  | .inf s, .fin .. => some (if s then .lt else .gt)
  | .fin .., .inf t => some (if t then .gt else .lt)
  | .fin s m e, .fin t n f =>
    let d := (dyAdd (smant s m) e (-(smant t n)) f).1
    some (compare d 0)

def F64.lt (a b : F64) : Bool := F64.cmp a b == some .lt
def F64.le (a b : F64) : Bool := F64.cmp a b == some .lt || F64.cmp a b == some .eq

/-- The nearest integer, ties to even (R168, R173, R345); none for a NaN or an infinity. -/
def F64.toInt (a : F64) : Option Int :=
  match F64.unpack a with
  | .fin s m e =>
    let n := if 0 ≤ e then m * 2 ^ e.toNat else divEven m (2 ^ (-e).toNat)
    some (smant s n)
  | _ => none

/-- The least integer not below, for a finite number. -/
def F64.ceil (a : F64) : Option Int :=
  match F64.unpack a with
  | .fin s m e =>
    if 0 ≤ e then some (smant s (m * 2 ^ e.toNat))
    else some (-(fdiv (-(smant s m)) ((2 ^ (-e).toNat : Nat) : Int)))
  | _ => none

/-- A positive, finite, normal number (R165). -/
def F64.posNormal (a : F64) : Bool := decide (2 ^ 52 ≤ a.toNat) && decide (a.toNat < 2047 * 2 ^ 52)

/-- a limited to [lo, hi]; a NaN gives lo. -/
def F64.clamp (a lo hi : F64) : F64 := if F64.lt a lo || F64.isNan a then lo else if F64.lt hi a then hi else a

/-! ### Sine, cosine and argument (R300, R302)

Each is worked out in fixed point with at least 250 bits after the point, rounded once, and moved by the step that Config
leaves open (log 120). -/

/-- The last bit of a result that the spec leaves open. -/
def F64.step (x : F64) (b : BitVec 2) : F64 :=
  if F64.isZero x then x else if b = 1 then x + 1 else if b = 2 then x - 1 else x

/-- The sum of p/d - p/(n (d + 2)) + p/(n^2 (d + 4)) - ... -/
def atanInvGo (n : Nat) : Nat → Nat → Nat → Int
  | 0, _, _ => 0
  | f + 1, p, d => ((p / d : Nat) : Int) - atanInvGo n f (p / n) (d + 2)

/-- pi with k bits after the point: 16 atan (1/5) - 4 atan (1/239). -/
def piFix (k : Nat) : Int := 16 * atanInvGo 25 (k / 4 + 2) (2 ^ k / 5) 1 - 4 * atanInvGo 57121 (k / 4 + 2) (2 ^ k / 239) 1

/-- The series t - t x^2 / ((n + 1)(n + 2)) + ..., for x^2 with k bits after the point. -/
def trigGo (x2 : Int) (k : Nat) : Nat → Int → Nat → Int
  | 0, _, _ => 0
  | f + 1, t, n => t - trigGo x2 k f (fdiv (fdiv (t * x2) ((2 ^ k : Nat) : Int)) (((n + 1) * (n + 2) : Nat) : Int)) (n + 2)

/-- The sine or the cosine of a finite angle, rounded once. -/
def F64.trig (cosine : Bool) (x : F64) : F64 :=
  match F64.unpack x with
  | .fin s m e =>
    let k := 256 + e.natAbs
    let v : Int := if 0 ≤ e then ((m * 2 ^ (e.toNat + k) : Nat) : Int) else ((m * 2 ^ (k - e.natAbs) : Nat) : Int)
    let r := v % (2 * piFix k)
    let x2 := fdiv (r * r) ((2 ^ k : Nat) : Int)
    if cosine then F64.ofDyadic false (trigGo x2 k 100 ((2 ^ k : Nat) : Int) 0) (-(k : Int))
    else if m = 0 then x
    else let t := trigGo x2 k 100 r 1; F64.ofDyadic s (if s then -t else t) (-(k : Int))
  | _ => F64.nan

def F64.sin (x : F64) : F64 := F64.step (F64.trig false x) (Config.sineStep x)
def F64.cos (x : F64) : F64 := F64.step (F64.trig true x) (Config.cosineStep x)

/-- atan t for t in [0, 1], with k bits after the point: the angle halved three times, then the series. -/
def atanFix (k t : Nat) : Nat :=
  let half (t : Nat) : Nat := t * 2 ^ k / (2 ^ k + isqrt (2 ^ (2 * k) + t * t))
  let h := half (half (half t))
  let go := (List.range 160).foldl (fun (a : Int × Nat) i =>
    (a.1 + (if i % 2 = 0 then 1 else -1) * ((a.2 / (2 * i + 1) : Nat) : Int), a.2 * h / 2 ^ k * h / 2 ^ k)) (0, h)
  8 * go.1.toNat

/-- The angle of (x, y) in (-pi, pi], rounded once; of two zeros, 0 or pi. -/
def F64.angle (y x : F64) : F64 :=
  match F64.unpack y, F64.unpack x with
  | .fin s m e, .fin t n f =>
    let a : Nat × Nat := if e ≤ f then (m, n * 2 ^ (f - e).toNat) else (m * 2 ^ (e - f).toNat, n)
    let lo := min a.1 a.2
    let hi := max a.1 a.2
    let k := 320 + hi.log2 - lo.log2
    let q : Int := if lo = 0 then 0 else (atanFix k (lo * 2 ^ k / hi) : Nat)
    let w := if a.2 < a.1 then fdiv (piFix k) 2 - q else q
    let w := if t then piFix k - w else w
    F64.ofDyadic s (if s then -w else w) (-(k : Int))
  | _, _ => F64.nan

def F64.argument (y x : F64) : F64 := F64.step (F64.angle y x) (Config.argumentStep y x)

/-- The sum of a list, from the first on. -/
def F64.sum (xs : List F64) : F64 := xs.foldl F64.add 0

end Sys2Proof.Machine
end

