-- ==== Sys2Proof/Machine/Operands.lean ====
section
/-! DEFINITION. The operand forms: the numbers of slots, functions and rates (R81, R118, R408), ticks and indices
(R2, R67, R68), and the fields of a mailbox request with what its validation answers (R359, R367, R371). -/
namespace Sys2Proof.Machine

/-! ### Ticks, refs and seconds (R1, R2, R67, R68) -/

def tickRefs : Nat := 1048576
def refsPerSec : Nat := 204800000

/-- Units of 2^-16 ns in one ref. -/
def fuPerRef : Nat := 320000

def fuPerSec : Nat := 65536000000000

/-- Nanoseconds of an instant in refs, whole part (one ref is 625/128 ns). -/
def refNs (t : Nat) : Nat := t * 625 / 128

/-- The seconds of an instant in refs, and the nanoseconds within them. -/
def secOf (t : Nat) : Nat := t / refsPerSec
def nsOf (t : Nat) : Nat := refNs (t % refsPerSec)

/-- A time of seconds, nanoseconds and 2^-16 ns, in units of 2^-16 ns. -/
def fuOf (sec ns frac : Nat) : Nat := (sec * 1000000000 + ns) * 65536 + frac

/-- Refs per sample of a rate code (R67, R118); 0 for a reserved code. -/
def rateRefs : Nat → Nat
  | 0 => 4096 | 1 => 10240 | 2 => 20480 | 3 => 40960 | 4 => 102400 | 5 => 204800 | 6 => 409600 | 7 => 1024000
  | 8 => 2048000 | 9 => 4096000 | 10 => 10240000 | 11 => 20480000 | 15 => 128
  | _ => 0

/-- Decimation after the CIC (R118). -/
def rateDecim (r : Nat) : Nat := rateRefs r / 512

/-- n0(N, f): the first index at or after the boundary of tick N, at `refs` per sample (R68). -/
def n0 (tick refs : Nat) : Nat := cdiv (tick * tickRefs) refs

/-! ### Slots and functions (R81, R408) -/

def isPrec (n : Nat) : Bool := decide (n < 512)
def isSpare (n : Nat) : Bool := decide (512 ≤ n) && decide (n < 528)
def isWb (n : Nat) : Bool := decide (528 ≤ n) && decide (n < 544)
def isAux (n : Nat) : Bool := decide (544 ≤ n) && decide (n < 608)

/-- The bank of a precision, spare or wideband slot. -/
def bankOf (n : Nat) : Nat := if n < 512 then n / 32 else if n < 528 then n - 512 else n - 528

/-- The slots of a bank: its 32 channels, its spare and its wideband channel. -/
def bankSlots (b : Nat) : List Nat := (List.range 32).map (32 * b + ·) ++ [512 + b, 528 + b]

def fnSlot (n : Nat) : Nat := n
def fnBank (b : Nat) : Nat := 0x260 + b
def fnAuxConv (t : Nat) : Nat := 0x274 + t
def fnLane (l : Nat) : Nat := 0x280 + l
def fnChandler : Nat := 0x2C0
def fnLin : Nat := 0x2C1
def fnRed : Nat := 0x2C2
def fnSeqr (i : Nat) : Nat := 0x2C8 + i
def fnCooper : Nat := 0x2D0
def fnWick (w : Nat) : Nat := 0x2D8 + w
def fnQueue (q : Nat) : Nat := 0x2E0 + q
def fnPort (p : Nat) : Nat := 0x2E8 + p
def fnSwitch : Nat := 0x2EC
def fnLl (l : Nat) : Nat := 0x2F8 + l
def fnMemBank (b : Nat) : Nat := 0x300 + b
def fnSpareBank : Nat := 0x320
def fnMon (m : Nat) : Nat := 0x330 + m
def fnVout (o : Nat) : Nat := 0x350 + o
def fnDrive (p : Nat) : Nat := 0x370 + p
def fnEvent (i : Nat) : Nat := 0x390 + i
def fnBeacon (b : Nat) : Nat := 0x3A0 + b
def fnServo : Nat := 0x3F0

/-- Whether an identifier names a function (R408). -/
def fnExists (id : Nat) : Bool :=
  decide (id < 0x278) || (decide (0x280 ≤ id) && decide (id ≤ 0x2B0)) || [0x2C0, 0x2C1, 0x2C2, 0x2D0, 0x2D8, 0x2D9, 0x320, 0x328, 0x3F0].contains id
  || (decide (0x2C8 ≤ id) && decide (id ≤ 0x2CF)) || (decide (0x2E0 ≤ id) && decide (id ≤ 0x2E3))
  || (decide (0x2E8 ≤ id) && decide (id ≤ 0x2EC)) || (decide (0x2F0 ≤ id) && decide (id ≤ 0x2F2))
  || (decide (0x2F8 ≤ id) && decide (id ≤ 0x2F9)) || (decide (0x300 ≤ id) && decide (id ≤ 0x31F))
  || (decide (0x330 ≤ id) && decide (id ≤ 0x39F)) || (decide (0x3A0 ≤ id) && decide (id ≤ 0x3AF))

/-! ### Filter chains (R121, R139, R144) -/

/-- The fields of a stage descriptor (R144). -/
def dLast (d : BitVec 64) : Bool := bit d.toNat 63
def dSym (d : BitVec 64) : Bool := bit d.toNat 62
def dShift (d : BitVec 64) : Nat := bits d.toNat 61 56
def dDecim (d : BitVec 64) : Nat := bits d.toNat 55 51
def dTaps (d : BitVec 64) : Nat := bits d.toNat 50 40
def dOfs (d : BitVec 64) : Nat := bits d.toNat 39 26
def dSpan (d : BitVec 64) : Nat := bits d.toNat 25 18
def dRes (d : BitVec 64) : Nat := bits d.toNat 17 0

/-- The stages of a list of descriptors, up to and including the first with `LAST`. -/
def upToLast : List (BitVec 64) → List (BitVec 64)
  | [] => []
  | d :: ds => if dLast d then [d] else d :: upToLast ds

/-- Half-spans of the factory sets (R121). -/
def factoryHalf (set rate : Nat) : Nat :=
  match set with
  | 0 => if rate = 0 then 16 else if rate = 1 then 22 else 24
  | 1 => if rate = 0 then 18 else if rate = 1 then 28 else 32
  | 2 => 8
  | _ => 12

/-- The coefficient words that a stage stores (R144). -/
def storedWords (d : BitVec 64) : Nat := if dSym d then cdiv (dTaps d) 2 else dTaps d

/-- Σ (TAPS - 1) × 512 × product of the decimations before (R145). -/
def chainSpanRefs : Nat → List (BitVec 64) → Nat
  | _, [] => 0
  | per, d :: ds => (dTaps d - 1) * per + chainSpanRefs (per * dDecim d) ds

def chainDecim (ds : List (BitVec 64)) : Nat := ds.foldl (fun p d => p * dDecim d) 1

/-- Σ TAPS × 400 000 / product of the decimations so far, times the whole decimation `total` (R145). -/
def chainCost (total : Nat) : Nat → List (BitVec 64) → Nat
  | _, [] => 0
  | per, d :: ds => dTaps d * 400000 * (total / (per * dDecim d)) + chainCost total (per * dDecim d) ds

/-- The cost of a factory set at 50 kS/s in MAC per output (R140). -/
def factoryCost : Nat → Nat
  | 0 => 118 | 1 => 146 | 2 => 64 | _ => 90

/-- Whether the fields of a descriptor are in range (R144). -/
def fieldsOk (lo hi : Nat) (first : Bool) (d : BitVec 64) : Bool :=
  decide (dShift d ≤ 47) && decide (1 ≤ dDecim d) && decide (dDecim d ≤ 16) && decide (1 ≤ dTaps d) && decide (dTaps d ≤ 1024)
  && dRes d == 0 && decide (lo ≤ dOfs d) && decide (dOfs d + storedWords d ≤ hi)
  && (if first then dSpan d % 2 == 0 && decide (2 ≤ dSpan d) && decide (dSpan d ≤ 64) else dSpan d == 0)

/-- Whether a chain is what the spec says of a factory set: the decimation of R118, the span of R121, symmetric stages and
the cost of R140, and a response within the span (R145). -/
def factoryOk (set rate : Nat) (ds : List (BitVec 64)) : Bool :=
  (ds.getLast?.map dLast).getD false && ds.all dSym && ds.zipIdx.all (fun x => fieldsOk 0 8192 (x.2 == 0) x.1)
  && chainDecim ds == rateDecim rate && dSpan (ds.headD 0) == 2 * factoryHalf set rate
  && decide (2400 + chainSpanRefs 512 ds ≤ dSpan (ds.headD 0) * rateRefs rate)
  && decide (chainCost (chainDecim ds) 1 ds ≤ 7500000 * chainDecim ds)
  && (rate != 0 || chainCost (chainDecim ds) 1 ds == 50000 * factoryCost set * chainDecim ds)

/-- Decimations of at most 16 that make up that of a rate (R118). -/
def plainDecims : Nat → List Nat
  | 0 => [8] | 1 => [10, 2] | 2 => [10, 4] | 3 => [16, 5] | 4 => [10, 10, 2] | 5 => [16, 5, 5] | 6 => [16, 10, 5] | 7 => [16, 5, 5, 5]
  | 8 => [16, 10, 5, 5] | 9 => [16, 10, 10, 5] | 10 => [16, 10, 5, 5, 5] | _ => [16, 10, 10, 5, 5]

/-- A chain that keeps the rules of `factoryOk`. -/
def plainChain (set rate : Nat) : List (BitVec 64) :=
  let ms := plainDecims rate
  ms.zipIdx.map fun x => BitVec.ofNat 64 (b2n (x.2 + 1 == ms.length) * 2 ^ 63 + 2 ^ 62 + x.1 * 2 ^ 51
    + (if rate = 0 then factoryCost set else 1) * 2 ^ 40 + (if x.2 = 0 then 2 * factoryHalf set rate else 0) * 2 ^ 18)

/-- The chain of a factory set (R139): the constants of the ROM. They stand in the model as constants with no body; should
they break a rule that the spec states of them, a plain chain that keeps those rules stands in their place (log 134). -/
def factoryChain (set rate : Nat) : List (BitVec 64) :=
  let ds := upToLast ((List.range 6).map fun i => Config.factoryStage (set * 72 + rate * 6 + i))
  if factoryOk set rate ds then ds else plainChain set rate

/-- A descriptor of a bank: entry s × 72 + r × 6 + i; the factory sets are the same in both banks. -/
def descOf (c : Chandler) (bank e : Nat) : BitVec 64 :=
  if e < 288 then (factoryChain (e / 72) (e % 72 / 6)).getD (e % 6) 0 else tget c.descs (bank * 576 + e) 0

/-- A coefficient word of a bank. -/
def coefOf (c : Chandler) (bank e : Nat) : BitVec 24 :=
  if e < 8192 then Config.factoryCoef e else tget c.words (bank * 16384 + e) 0

/-- The chain of a set at a rate in a bank. -/
def chainOf (c : Chandler) (bank set rate : Nat) : List (BitVec 64) :=
  upToLast ((List.range 6).map fun i => descOf c bank (set * 72 + rate * 6 + i))

/-- Whether a set is defined at a rate in a bank (R146, R148). -/
def chainDefined (c : Chandler) (bank set rate : Nat) : Bool :=
  decide (rate < 12) && decide (set < 8) && (decide (set < 4) || dTaps (descOf c bank (set * 72 + rate * 6)) != 0)

/-- The half-span H of a set at a rate in a bank, in output samples (R121). -/
def halfSpan (c : Chandler) (bank set rate : Nat) : Nat :=
  if rate = 15 then 16 else if set < 4 then factoryHalf set rate else dSpan (descOf c bank (set * 72 + rate * 6)) / 2

/-! ### Requests and answers -/

/-- A request in validation: its header, the payloads of its parts, its apply tick. -/
structure Req where
  h     : ReqHdr
  op    : Nat
  parts : List (List Byte)
  /-- apply tick (R362); the next boundary where none is named -/
  tick  : Nat
deriving DecidableEq, Repr

/-- The payload of a request of one part, or of part 0. -/
def Req.p (r : Req) : List Byte := r.parts.headD []

/-- What validation finds. -/
inductive Ans where
  /-- refused: status and DETAIL; nothing changes -/
  | refuse (st : Status) (detail : Nat)
  /-- answered `OK` with a payload; changes nothing and is not staged -/
  | reply (detail : Nat) (pay : List Byte)
  /-- validated: answered with a status and staged for the apply tick -/
  | stage (st : Status) (detail : Nat)
  /-- validated: answered with a status, and it acts as it is validated -/
  | act (st : Status) (detail : Nat)
  /-- validated; the answer comes later (R377) -/
  | wait
deriving DecidableEq, Repr

/-- `BAD_ARGUMENT` at an offset of the payload of the first part (R371). -/
def badAt (o : Nat) : Ans := .refuse .badArgument (16 + o)

/-- `BAD_ARGUMENT` at an offset of the payload of part k (R371). -/
def badPart (k o : Nat) : Ans := .refuse .badArgument (65536 * k + 16 + o)

/-- The first refusal whose condition holds, else the answer. -/
def firstOf : List (Bool × Ans) → Ans → Ans
  | [], a => a
  | (true, r) :: _, _ => r
  | (false, _) :: t, a => firstOf t a

def Ans.refused : Ans → Bool
  | .refuse .. => true
  | _ => false

/-- Status codes (R367). -/
def statusCode : Status → Nat
  | .ok => 0 | .accepted => 1 | .deferred => 2 | .badOpcode => 0x10 | .badArgument => 0x11 | .notPermitted => 0x12
  | .busy => 0x13 | .functionState => 0x14 | .noSpace => 0x15 | .mismatch => 0x16 | .restarted => 0x17
  | .staleSequence => 0x18 | .signature => 0x19 | .ledger => 0x1A

/-- Function state codes (R382). -/
def fnCode : FnState → Nat
  | .running => 0 | .draining => 1 | .quiescent => 2 | .off => 3 | .fault => 4 | .renewing => 5 | .enablePending => 6

/-- The bytes of a binary64. -/
def leF (x : F64) : List Byte := le 8 x.toNat

def rdF (p : List Byte) (o : Nat) : F64 := BitVec.ofNat 64 (rd p o 8)

/-- DETAIL where the target has not been defined (R367, R498). -/
def notDefined : Nat := 0xFFFFFFFF

end Sys2Proof.Machine
end

