-- ==== Sys2Proof/Machine/Ops.lean ====
section
/-! DEFINITION. The shared operations: reading and updating the parts of the state, time, notices (R388 to R395),
interrupts (R398), completions (R361), hand-overs (R29) and ledger breaks (R27), monitors' values (R417 to R420),
function states (R461), and record memory (R242). -/
namespace Sys2Proof.Machine

abbrev Outc := Host.Outcome State Fault Refusal

/-- The outcome of a command that takes its effect. -/
def done (s : State) : Outc := .next s

/-! ### Access to the parts -/

/-- A channel slot; the spare's front end starts at `PARKED` (R414). -/
def chanOf (s : State) (n : Nat) : Chan := tget s.fe.chan n (if isSpare n then { route := .parked } else {})
def bankSt (s : State) (b : Nat) : Bank := tget s.fe.bank b {}
def excOf (s : State) (g : Nat) : Exc := tget s.fe.exc g {}
def tileOf (s : State) (t : Nat) : Tile := tget s.fe.tile t {}
def compOf (s : State) (c : Nat) : Comparator := tget s.fe.comp c {}
def auxOf (s : State) (t : Nat) : AuxConv := tget s.fe.aux t {}
def auxNewest (s : State) (n : Nat) : List AuxSample := tget s.fe.auxLast n []
def linOf (s : State) (n : Nat) : LinDesc := tget s.lin.desc n {}
def voutOf (s : State) (o : Nat) : Vout := tget s.lin.vout o {}
def strOf (s : State) (i : Nat) : Stream := tget s.str.s i {}
def grpOf (s : State) (g : Nat) : Group := tget s.trg.grp g {}
def seqrOf (s : State) (i : Nat) : Sequencer := tget s.trg.seqr i {}
def loopOf (s : State) (n : Nat) : Loop := tget s.wick.loop n {}
def portOf (s : State) (n : Nat) : DrivePort := tget s.wick.port n {}
def fnOf (s : State) (id : Nat) : Func := tget s.fn id {}
def ntqOf (s : State) (q : Nat) : Ntq := tget s.ntq q {}
def boxOf (s : State) (m : Nat) : Mailbox := tget s.mbx.box m {}
def monOf (s : State) (m : Nat) : Monitor := tget s.mon m {}
def paceOf (s : State) (m : Nat) : Pace := tget s.pace m {}
def netOf (s : State) (p : Nat) : NetPort := tget s.net.port p {}
def collOf (s : State) (r : Nat) : Collector := tget s.net.coll r {}
def tdcOf (s : State) (i : Nat) : Tdc := tget s.tb.tdc i {}
def beaconOf (s : State) (b : Nat) : Beacon := tget s.tb.beacon b {}
def protOf (s : State) (e : Nat) : Prot := tget s.pwr.prot e {}

def State.onChan (s : State) (n : Nat) (f : Chan → Chan) : State := { s with fe := { s.fe with chan := tset s.fe.chan n (f (chanOf s n)) } }
def State.onBank (s : State) (b : Nat) (f : Bank → Bank) : State := { s with fe := { s.fe with bank := tset s.fe.bank b (f (bankSt s b)) } }
def State.onExc (s : State) (g : Nat) (f : Exc → Exc) : State := { s with fe := { s.fe with exc := tset s.fe.exc g (f (excOf s g)) } }
def State.onTile (s : State) (t : Nat) (f : Tile → Tile) : State := { s with fe := { s.fe with tile := tset s.fe.tile t (f (tileOf s t)) } }
def State.onComp (s : State) (c : Nat) (f : Comparator → Comparator) : State := { s with fe := { s.fe with comp := tset s.fe.comp c (f (compOf s c)) } }
def State.onAux (s : State) (t : Nat) (f : AuxConv → AuxConv) : State := { s with fe := { s.fe with aux := tset s.fe.aux t (f (auxOf s t)) } }
def State.onVout (s : State) (o : Nat) (f : Vout → Vout) : State := { s with lin := { s.lin with vout := tset s.lin.vout o (f (voutOf s o)) } }
def State.onStr (s : State) (i : Nat) (f : Stream → Stream) : State := { s with str := { s.str with s := tset s.str.s i (f (strOf s i)) } }
def State.onGrp (s : State) (g : Nat) (f : Group → Group) : State := { s with trg := { s.trg with grp := tset s.trg.grp g (f (grpOf s g)) } }
def State.onSeqr (s : State) (i : Nat) (f : Sequencer → Sequencer) : State := { s with trg := { s.trg with seqr := tset s.trg.seqr i (f (seqrOf s i)) } }
def State.onLoop (s : State) (n : Nat) (f : Loop → Loop) : State := { s with wick := { s.wick with loop := tset s.wick.loop n (f (loopOf s n)) } }
def State.onPort (s : State) (n : Nat) (f : DrivePort → DrivePort) : State := { s with wick := { s.wick with port := tset s.wick.port n (f (portOf s n)) } }
def State.onFn (s : State) (id : Nat) (f : Func → Func) : State := { s with fn := tset s.fn id (f (fnOf s id)) }
def State.onNtq (s : State) (q : Nat) (f : Ntq → Ntq) : State := { s with ntq := tset s.ntq q (f (ntqOf s q)) }
def State.onBox (s : State) (m : Nat) (f : Mailbox → Mailbox) : State := { s with mbx := { s.mbx with box := tset s.mbx.box m (f (boxOf s m)) } }
def State.onMon (s : State) (m : Nat) (f : Monitor → Monitor) : State := { s with mon := tset s.mon m (f (monOf s m)) }
def State.onPace (s : State) (m : Nat) (f : Pace → Pace) : State := { s with pace := tset s.pace m (f (paceOf s m)) }
def State.onNet (s : State) (p : Nat) (f : NetPort → NetPort) : State := { s with net := { s.net with port := tset s.net.port p (f (netOf s p)) } }
def State.onColl (s : State) (r : Nat) (f : Collector → Collector) : State := { s with net := { s.net with coll := tset s.net.coll r (f (collOf s r)) } }
def State.onTdc (s : State) (i : Nat) (f : Tdc → Tdc) : State := { s with tb := { s.tb with tdc := tset s.tb.tdc i (f (tdcOf s i)) } }
def State.onBeacon (s : State) (b : Nat) (f : Beacon → Beacon) : State := { s with tb := { s.tb with beacon := tset s.tb.beacon b (f (beaconOf s b)) } }
def State.onTb (s : State) (f : TimeBase → TimeBase) : State := { s with tb := f s.tb }
def State.onPwr (s : State) (f : Power → Power) : State := { s with pwr := f s.pwr }
def State.onGlb (s : State) (f : Glb → Glb) : State := { s with glb := f s.glb }
def State.onIo (s : State) (f : Ports → Ports) : State := { s with io := f s.io }
def State.onRm (s : State) (f : RecMem → RecMem) : State := { s with rm := f s.rm }
def State.onWick (s : State) (f : Wick → Wick) : State := { s with wick := f s.wick }
def State.onChd (s : State) (f : Chandler → Chandler) : State := { s with chd := f s.chd }

/-- A fold over numbers 0 to n - 1. -/
def forN (n : Nat) (s : State) (f : State → Nat → State) : State := (List.range n).foldl f s

/-- A fold over a list. -/
def forAll {α : Type} (xs : List α) (s : State) (f : State → α → State) : State := xs.foldl f s

/-! ### Time and free values -/

/-- The present instant moves to `t`; it never runs backwards. -/
def State.at_ (s : State) (t : Nat) : State := { s with now := max s.now t }

/-- The next value that the spec leaves open, and the counter behind it advanced. -/
def State.free (s : State) : BitVec 64 × State := (Config.freeValue s.freeCtr, { s with freeCtr := s.freeCtr + 1 })

/-- A message out of the hub. -/
def State.send (s : State) (m : OutMsg) : State := { s with sent := s.sent ++ [m] }

/-- Whether samples with instant `t` carry `HOLD` (R50): the newest mark at or before `t`. -/
def holdAt : List (Nat × Bool) → Nat → Bool
  | [], _ => true
  | (b, h) :: t, x => if b ≤ x then h else holdAt t x

/-! ### Interrupts (R398) -/

/-- An MSI-X message. -/
def State.msi (s : State) (v : Nat) : State := { s with io := { s.io with msix := s.io.msix ++ [v] } }

/-- A queue's pending bits after a change of its fill or a priority-0 posting (R397); queue 0 sends MSI-X messages. -/
def raiseLvl (s : State) (q : Nat) (before : Nat) : State :=
  let n := ntqOf s q
  if before < n.level && n.level ≤ n.chain.length && !n.lvlPend then
    let s := s.onNtq q fun n => { n with lvlPend := true }
    if q = 0 && n.lvlEn then s.msi 0 else s
  else s

def raiseP0 (s : State) (q : Nat) : State :=
  let n := ntqOf s q
  if n.p0Pend then s
  else
    let s := s.onNtq q fun n => { n with p0Pend := true }
    if q = 0 && n.p0En then s.msi 1 else s

/-- IRQN (R398): whether the open-drain output is asserted. -/
def irqn (s : State) : Bool :=
  let q := ntqOf s 1
  let mb (m : Nat) : Bool := (boxOf s m).respReady && (boxOf s m).respIrq
  (q.lvlPend && q.lvlEn) || (q.p0Pend && q.p0En) || mb 4 || mb 5

/-! ### Monitors (R417 to R420) -/

/-- The bin of a value (R419). -/
def monBin (lo : Int) (w : Nat) (x : Int) : Nat := (clampI (fdiv (x - lo) w) 0 63).toNat

/-- One value counted in a bank. -/
def monBankAdd (b : MonBank) (lo : Int) (w : Nat) (x : Int) : MonBank :=
  let i := monBin lo w x
  { count := b.count + 1, min := min b.min x, max := max b.max x,
    bins := tset b.bins i (min (tget b.bins i 0 + 1) 0xFFFFFFFF) }

/-- A source's value: every running monitor with that source takes it. -/
def monValue (s : State) (cls idx : Nat) (x : Int) : State :=
  { s with mon := s.mon.map fun e =>
      let f := tget s.fn (fnMon e.1) {}
      let at_ := match f.state with | .off | .fault | .renewing => false | _ => !f.held
      if e.2.running && at_ && e.2.source == cls * 4096 + idx then (e.1, { e.2 with live := monBankAdd e.2.live e.2.binLo e.2.binW x }) else e }

/-! ### Notices -/

/-- The notices of one packet (R388): 16 payload bytes in the first, 24 in each later one. -/
def mkPacket (num : BitVec 16) (tick now type pri src arg : Nat) (pay : List Byte) : List Notice :=
  let n := 1 + cdiv (pay.length - 16) 24
  (List.range n).map fun i =>
    let o := 16 + 24 * (i - 1)
    { type := type, pri := pri, cont := decide (i + 1 < n), part := i, packet := num.toNat, source := src,
      w1 := if i = 0 then BitVec.ofNat 64 (tick % 2 ^ 32 * 2 ^ 32 + arg % 2 ^ 32) else BitVec.ofNat 64 (rd pay o 8),
      w2 := BitVec.ofNat 64 (if i = 0 then rd pay 0 8 else rd pay (o + 8) 8),
      w3 := BitVec.ofNat 64 (if i = 0 then rd pay 8 8 else rd pay (o + 16) 8),
      at_ := now, firstTk := tick, lastTk := tick }

/-- Word 0 of a notice (R388). -/
def noticeW0 (n : Notice) : BitVec 64 :=
  BitVec.ofNat 64 (n.type * 2 ^ 56 + n.pri * 2 ^ 54 + b2n n.cont * 2 ^ 53 + b2n n.summary * 2 ^ 52 + n.part % 256 * 2 ^ 40
    + n.packet % 65536 * 2 ^ 16 + n.source % 65536)

/-- The 32 bytes of a notice. -/
def noticeBytes (n : Notice) : List Byte := le 8 (noticeW0 n).toNat ++ le 8 n.w1.toNat ++ le 8 n.w2.toNat ++ le 8 n.w3.toNat

/-- Whether the chain takes a packet (R393): priority 1 to 3 leaves 4 stages free, and nothing overtakes the backlog. -/
def chainTakes (q : Ntq) (pri n : Nat) : Bool :=
  !(q.backlog.any fun x => x.pri == pri) && (if pri = 0 then decide (q.chain.length + n ≤ 64) else decide (q.chain.length + n + 4 ≤ 64))

/-- The summary of a list of notices of one type (R394), oldest first. -/
def mkSummary (xs : List Notice) : Option Notice :=
  match xs with
  | [] => none
  | a :: _ =>
    let cnt := xs.foldl (fun c x => c + x.stands) 0
    let f := xs.foldl (fun c x => min c x.firstTk) a.firstTk
    let l := xs.foldl (fun c x => max c x.lastTk) a.lastTk
    some { a with summary := true, cont := false, part := 0, stands := cnt, firstTk := f, lastTk := l,
                  w1 := BitVec.ofNat 64 (a.firstTk % 2 ^ 32 * 2 ^ 32 + cnt % 2 ^ 32), w2 := BitVec.ofNat 64 f, w3 := BitVec.ofNat 64 l }

def isItem (ty : Nat) (x : Notice) : Bool := x.pri == 3 && x.type == ty

/-- The items of a type replaced by one summary at the place of the oldest. -/
def putSummary (ty : Nat) (sm : Notice) : List Notice → List Notice
  | [] => []
  | x :: t => if isItem ty x then sm :: t.filter (fun y => !isItem ty y) else x :: putSummary ty sm t

/-- The priority-3 type to merge: of the oldest notice whose type has two items (R394 step 2). -/
def mergeType (all : List Notice) : List Notice → Option Nat
  | [] => none
  | x :: t => if x.pri == 3 && 2 ≤ (all.filter (isItem x.type)).length then some x.type else mergeType all t

/-- A packet put into a full backlog (R394); `fuel` bounds the merges. -/
def backlogFullPut : Nat → Ntq → List Notice → Ntq
  | 0, q, pkt => { q with lost := q.lost + BitVec.ofNat 32 pkt.length, backlogFull := [(0, true), (1, true)] }
  | fuel + 1, q, pkt =>
    let pri := (pkt.map (·.pri)).headD 0
    let ty := (pkt.map (·.type)).headD 0
    if q.backlog.length + pkt.length ≤ 1024 then { q with backlog := q.backlog ++ pkt }
    else if pri == 3 && q.backlog.any (isItem ty) then
      let items := q.backlog.filter (isItem ty) ++ pkt
      match mkSummary items with
      | none => q
      | some sm => { q with backlog := putSummary ty sm q.backlog, coalesced := q.coalesced + BitVec.ofNat 32 (items.length - 1) }
    else
      match mergeType q.backlog q.backlog with
      | none => { q with lost := q.lost + BitVec.ofNat 32 pkt.length, backlogFull := [(0, true), (1, true)] }
      | some t =>
        let items := q.backlog.filter (isItem t)
        match mkSummary items with
        | none => q
        | some sm => backlogFullPut fuel { q with backlog := putSummary t sm q.backlog, coalesced := q.coalesced + BitVec.ofNat 32 (items.length - 1) } pkt

/-- A packet enters a queue whole (R390, R393). -/
def enterPacket (q : Ntq) (pkt : List Notice) : Ntq :=
  let pri := (pkt.map (·.pri)).headD 0
  let q := { q with posted := q.posted + BitVec.ofNat 32 pkt.length, packet := q.packet + 1 }
  if chainTakes q pri pkt.length then { q with chain := q.chain ++ pkt } else backlogFullPut 1024 q pkt

/-- A packet posted to one queue. -/
def postTo (q : Nat) (type pri src arg : Nat) (pay : List Byte) (s : State) : State :=
  let n := ntqOf s q
  let s := s.onNtq q fun n => enterPacket n (mkPacket n.packet s.tb.tick s.now type pri src arg pay)
  let s := raiseLvl s q n.chain.length
  if pri = 0 then raiseP0 s q else s

/-- A packet posted to several queues. -/
def postTos (qs : List Nat) (type pri src arg : Nat) (pay : List Byte) (s : State) : State :=
  qs.foldl (fun s q => postTo q type pri src arg pay s) s

/-- A notice whose rule names no queue goes to all four (DESIGN CHOICE, log 11). -/
def post (type pri src arg : Nat) (pay : List Byte) (s : State) : State := postTos [0, 1, 2, 3] type pri src arg pay s

/-- The queues of a mask of 4 bits. -/
def maskQueues (m : Nat) : List Nat := (List.range 4).filter (bit m)

/-- The queue of a mailbox (R355). -/
def queueOf (mbx : Nat) : Nat := if mbx < 4 then 0 else if mbx < 6 then 1 else if mbx = 6 then 2 else 3

/-- A status and its `DETAIL` as an opcode reports them: of the level-2 aliases, a status that R385 does not list is
`FUNCTION_STATE` with its code in `DETAIL`. -/
def reported (op : Nat) (st : Status) (detail : Nat) : Status × Nat :=
  if op / 256 = 0xF then
    match st with
    | .ok | .accepted | .badOpcode | .badArgument | .notPermitted | .busy | .functionState => (st, detail)
    | st => (.functionState, statusCode st)
  else (st, detail)

/-- The completion notice of a command (R361, R385, R389). -/
def complete (o : Owed) (st : Status) (detail tick : Nat) (s : State) : State :=
  let r := reported o.opcode st detail
  postTo (queueOf o.mbx) 0x20 2 0 r.2
    (le 1 o.mbx ++ [0] ++ le 2 o.opcode ++ le 2 o.seq.toNat ++ le 2 (statusCode r.1) ++ le 8 tick) s

def completeOpt (o : Option Owed) (st : Status) (detail tick : Nat) (s : State) : State :=
  match o with
  | some o => complete o st detail tick s
  | none => s

/-! ### The ledger's notices (R27, R29, R491) -/

def counterBytes (c : Counters) : List Byte := le 8 c.p.toNat ++ le 8 c.m.toNat ++ le 8 c.a.toNat ++ le 8 c.d.toNat ++ le 8 c.f.toNat
def poolBytes (p : Pool) : List Byte := le 8 p.cap ++ le 8 p.free ++ le 8 p.held ++ le 8 p.reclaimed ++ le 8 0

/-- A ledger break of a stream, of its credit pool (`pool`), once until it is cleared (R27, R491). -/
def breakStream (i : Nat) (pool : Bool) (tick : Nat) (s : State) : State :=
  let st := strOf s i
  let old := if pool then tget s.str.poolBreak i false else st.brk
  if old then s
  else
    let s := if pool then { s with str := { s.str with poolBreak := tset s.str.poolBreak i true } } else s
    let s := s.onStr i fun st => { st with brk := true }
    if pool then post 0x01 0 (0x40 + i) tick (poolBytes st.pool) s else post 0x01 0 i tick (counterBytes st.cnt) s

def breakFabric (tick : Nat) (s : State) : State :=
  if s.str.fabBreak then s
  else post 0x01 0 0x80 tick (poolBytes s.str.fabric) { s with str := { s.str with fabBreak := true } }

/-- The sample index at which a hand-over stands: the least of the first indices from its new source; none where it
carries no stream. -/
def HandOver.index (h : HandOver) : Option Nat := (h.entries.map (·.2.2)).min?

/-- A hand-over's place in the log: in tick order, and within a tick in sample-index order (R31, R32); one that carries
no stream has no index and stands behind those booked before it. -/
def logHandOver (h : HandOver) : List HandOver → List HandOver
  | [] => [h]
  | x :: t =>
    let before := match h.index, x.index with | some a, some b => decide (a < b) | _, _ => false
    if h.tick == x.tick && before then h :: x :: t else x :: logHandOver h t

/-- A hand-over entered in the log and reported (R29); one that fails its check is a ledger break. -/
def handOver (func standIn : Nat) (back : Bool) (entries : List (Nat × Nat × Nat)) (s : State) : State :=
  let tick := s.tb.tick
  let s := { s with str := { s.str with handovers := logHandOver { tick, func, standIn, back, entries } s.str.handovers } }
  let pay := le 1 (b2n back) ++ le 1 entries.length ++ zeros 14
    ++ (entries.map fun e => le 8 e.2.1 ++ le 8 e.2.2 ++ le 1 e.1 ++ zeros 7).flatten
  let s := post 0x21 2 func standIn pay s
  entries.foldl (fun s e => if e.2.2 = e.2.1 + 1 then s else breakStream e.1 false tick s) s

/-! ### Memory-fabric tokens (R22, R23, R37, R38) -/

/-- The tokens reserved to a requester, 0 to 6 in the order of R38; it never borrows another's. -/
def fabReserve (r : Nat) : Nat := [48, 32, 16, 12, 8, 8, 4].getD r 0

/-- The tokens that a requester holds. -/
def fabHeld (s : State) (r : Nat) : Nat := tget s.str.fabHeldR r 0

/-- A requester issues `n` transactions, each with one token of its own reservation; beyond it, none. -/
def fabTake (r n : Nat) (s : State) : State :=
  let k := min n (fabReserve r - fabHeld s r)
  { s with str := { s.str with fabric := { s.str.fabric with free := s.str.fabric.free - k, held := s.str.fabric.held + k },
                               fabHeldR := tset s.str.fabHeldR r (fabHeld s r + k) } }

/-- `n` of a requester's transactions complete and return their tokens. -/
def fabGive (r n : Nat) (s : State) : State :=
  let k := min n (fabHeld s r)
  { s with str := { s.str with fabric := { s.str.fabric with free := s.str.fabric.free + k, held := s.str.fabric.held - k },
                               fabHeldR := tset s.str.fabHeldR r (fabHeld s r - k) } }

/-- How many of a requester's transactions are in flight at an instant is timing inside the fabric: a free value, within
its reservation (log 100). -/
def fabFlight (s : State) (r : Nat) : State :=
  let v := s.free
  fabTake r (v.1.toNat % (fabReserve r + 1)) (fabGive r (fabHeld s r) v.2)

/-- The requester as which a function reaches the fabric, and whether no other function shares it (log 100). -/
def fabRequester (id : Nat) : Option (Nat × Bool) :=
  if id < 0x2B1 || id = fnChandler || id = fnLin || id = fnRed then some (0, false)
  else if (decide (fnSeqr 0 ≤ id) && decide (id ≤ fnSeqr 7)) || (decide (fnPort 0 ≤ id) && decide (id ≤ fnSwitch)) then some (1, false)
  else if id = fnCooper then some (2, true)
  else if id = fnLl 0 || id = fnLl 1 then some (3, true)
  else if id = 0x328 || id = fnSpareBank then some (4, false)
  else if id = 0x2F0 || id = 0x2F1 then some (5, false)
  else if id = fnWick 0 || id = fnWick 1 then some (6, true)
  else none

/-- A function reset or fenced: every token that it held returns to the free count and is counted as reclaimed (R23).
How many of a shared requester's tokens are its own is a free value. -/
def fabReclaim (id : Nat) (s : State) : State :=
  match fabRequester id with
  | none => s
  | some (r, sole) =>
    let s := fabFlight s r
    let v := s.free
    let n := if sole then fabHeld s r else v.1.toNat % (fabHeld s r + 1)
    let s := fabGive r n v.2
    { s with str := { s.str with fabric := { s.str.fabric with reclaimed := s.str.fabric.reclaimed + n } } }

/-! ### Addresses (R431, R432) -/

/-- The IPv4 address that an IPv4-mapped address spells. -/
def v4Of (a : BitVec 128) : Option (BitVec 32) := if a.toNat / 2 ^ 32 = 0xFFFF then some (a.setWidth 32) else none

/-- Whether the first `n` bits of two numbers of `w` bits agree. -/
def samePrefix (w n a b : Nat) : Bool := a / 2 ^ (w - n) == b / 2 ^ (w - n)

/-- A destination that the hub can send to (R432): inside its own prefix, a multicast group, or link-local. -/
def onLink (s : State) (a : BitVec 128) : Bool :=
  match v4Of a with
  | some v => bits v.toNat 31 28 == 14 || v.toNat == 0xFFFFFFFF || (s.net.own.ipv4 != 0 && samePrefix 32 s.net.own.prefix4 v.toNat s.net.own.ipv4.toNat)
  | none => bits a.toNat 127 120 == 0xFF || bits a.toNat 127 118 == 0x3FA
            || (s.net.own.ipv6 != 0 && samePrefix 128 s.net.own.prefix6 a.toNat s.net.own.ipv6.toNat)

/-- A datagram sent to an on-link destination; to any other none is (R432). Only DATA is ever longer than an MTU. -/
def sendUdp (a : BitVec 128) (port prio : Nat) (body : List Byte) (s : State) : State :=
  { s with sent := s.sent ++ if onLink s a then [.udp a port prio body] else [] }

/-- The MAC address that the ARP cache holds for a station. -/
def stationMac (s : State) (v : BitVec 32) : Option (BitVec 48) := (s.net.arp.find? fun e => e.1 == v).map fun e => e.2.1

/-- The port that the learning table gives for a MAC address on the hub's VLAN. -/
def stationPort (s : State) (m : BitVec 48) : Option Nat := (s.net.table.find? fun e => e.mac == m && e.vlan == s.net.own.vlan).map (·.port)

/-- The ports at which a datagram to an address may leave: the one that the learning table gives for the address's station,
else every port with its link up (log 158). -/
def dgramPorts (s : State) (a : BitVec 128) : List Nat :=
  match ((v4Of a).bind (stationMac s)).bind (stationPort s) with
  | some p => [p]
  | none => [0, 1, 2, 3].filter fun p => (netOf s p).link

/-- The IP MTU toward an address (R432): 1 500 bytes where a port is 1000BASE-X, else 2 000. -/
def dgramMtu (s : State) (a : BitVec 128) : Nat := if (dgramPorts s a).any fun p => (netOf s p).mode == 1 then 1500 else 2000

/-- A DATA datagram as it leaves: whole, or as IP fragments where it exceeds the MTU. A fragment carries a multiple of 8
bytes behind an IPv4 header of 20 bytes, or behind an IPv6 header of 40 and a fragment header of 8. -/
def dataMsg (s : State) (a : BitVec 128) (port : Nat) (body : List Byte) : OutMsg :=
  let v4 := (v4Of a).isSome
  if (if v4 then 20 else 40) + 8 + body.length ≤ dgramMtu s a then .udp a port 4 body
  else .udpCut a port 4 ((dgramMtu s a - if v4 then 20 else 48) / 8 * 8) body

/-! ### Functions -/

def fnState (s : State) (id : Nat) : FnState := (fnOf s id).state

/-- Functions whose renewal leaves no stand-in at work (R467): nothing passes while they renew. -/
def silentRenewal (id : Nat) : Bool :=
  (decide (0x210 ≤ id) && decide (id ≤ 0x25F)) || (decide (0x274 ≤ id) && decide (id ≤ 0x277)) || (decide (0x2C8 ≤ id) && decide (id ≤ 0x2CF))
    || (decide (0x350 ≤ id) && decide (id ≤ 0x38F))

/-- Whether a function is out: held in reset, off, in fault, or under a renewal that leaves its work undone. -/
def fnOut (s : State) (id : Nat) : Bool :=
  match fnState s id with
  | .off | .fault => true
  | .renewing => silentRenewal id || (fnOf s id).held
  | _ => (fnOf s id).held

/-- Whether a function takes no new work: it is out, or it drains (R461). -/
def fnIdle (s : State) (id : Nat) : Bool := fnOut s id || fnState s id == .draining || fnState s id == .enablePending

/-- A stand-in that keeps a function's work is consumed, with its notice (R471; its type is a DESIGN CHOICE, log 39). -/
def consumeStandIn (id si : Nat) (s : State) : State :=
  post 0x21 1 id si [] (s.onFn id fun f => { f with standIn := si, consumed := true })

/-- The commands that wait on a function end with one status and `DETAIL`, under `FUNCTION_STATE` the code of the state
that ends them (R367): its renewal and its disables. -/
def endOwed (id : Nat) (st : Status) (detail : Nat) (s : State) : State :=
  let f := fnOf s id
  let s := s.onFn id fun f => { f with renOwed := none, disOwed := [], renew := none, testOnly := none, todo := [], testing := false }
  forAll f.disOwed (completeOpt f.renOwed st detail s.tb.tick s) fun s o => complete o st detail s.tb.tick s

/-- A renewal or a disable that its match test ended: the function runs on (R336, R463, R466). -/
def funcFail (id : Nat) (s : State) : State := (endOwed id .mismatch 0 s).onFn id fun f => { f with state := .running }

/-! ### Record memory (R242, R251) -/

def rmBytes : Nat := 67108864

/-- Whether a word is poisoned: by majority of the three copies (R254). -/
def PoisonMap.has (p : PoisonMap) (w : Nat) : Bool :=
  (p.c0.contains w && p.c1.contains w) || (p.c1.contains w && p.c2.contains w) || (p.c0.contains w && p.c2.contains w)

/-- The poisoned words. -/
def PoisonMap.words (p : PoisonMap) : List Nat := (p.c0 ++ p.c1).eraseDups.filter p.has

/-- A word's bit set in every copy. -/
def PoisonMap.add (w : Nat) (p : PoisonMap) : PoisonMap := { c0 := w :: p.c0, c1 := w :: p.c1, c2 := w :: p.c2 }

/-- The bits of words kept in every copy, the others cleared. -/
def PoisonMap.keep (k : Nat → Bool) (p : PoisonMap) : PoisonMap := { c0 := p.c0.filter k, c1 := p.c1.filter k, c2 := p.c2.filter k }

/-- The scrubber rewrites a copy of a word that disagrees with the majority (R254). -/
def PoisonMap.vote (w : Nat) (p : PoisonMap) : PoisonMap :=
  let fix (c : List Nat) : List Nat := if c.contains w == p.has w then c else if p.has w then w :: c else c.filter (· != w)
  { c0 := fix p.c0, c1 := fix p.c1, c2 := fix p.c2 }

/-- Bytes of record memory; power-on fill is zero (R250). -/
def rmRead (s : State) (a n : Nat) : List Byte := memReads 0 s.rm.mem a n

/-- Bytes stored; a 64-bit word written whole loses its poison (R252). -/
def rmWrite (s : State) (a : Nat) (bs : List Byte) : State :=
  s.onRm fun m => { m with mem := memWrites 0 m.mem a bs,
                           poison := m.poison.keep fun w => !(a ≤ w && w + 8 ≤ a + bs.length) }

/-- An elastic buffer of island 1 or 2 found full (R35): the overflow bit of the segment that reads it, and a notice. -/
def bufferFull (seg : Nat) (s : State) : State :=
  let s := s.onPace seg fun p => { p with overflow := [(0, true), (1, true)] }
  post 0x03 0 seg (unsgn 32 (paceOf s seg).margin) [] s

end Sys2Proof.Machine
end

