-- ==== Sys2Proof/Machine/FrontEnd.lean ====
section
/-! DEFINITION. Inputs, excitation and protection (R81 to R111, R122 to R127): the channel, wideband, excitation and
route commands' validation and effect, and the clamp, wire and excitation events. -/
namespace Sys2Proof.Machine

/-- The boundary at which a change of the present tick applies. -/
def applyT (s : State) : Nat := s.tb.tick * tickRefs

/-! ### Which front end is connected to which pins (R99 to R102, R111) -/

/-- The position whose pins the spare of a bank is connected to. -/
def spareAt (s : State) (b : Nat) : Option Nat :=
  if (chanOf s (512 + b)).route = .channel then some (bankSt s b).spareK else none

/-- The front ends connected to a precision slot's pins. -/
def onPins (s : State) (slot : Nat) : List Nat :=
  (if (chanOf s slot).route = .pins then [slot] else []) ++
  (if spareAt s (slot / 32) = some (slot % 32) then [512 + slot / 32] else [])

/-- Whether a slot's front end is connected to a pin. -/
def pinConnected (s : State) (slot : Nat) : Pin → Bool
  | .ain n _ => (onPins s n.val).contains slot
  | .wb c _ => slot == 528 + c.val
  | .calRef t _ => decide ((chanOf s slot).route = .refbus) && bankOf slot / 4 == t.val
  | .aux .. => false
  | .auxCom _ => false

/-- Whether a bank has a front end on its tile's reference bus (R102, R414). -/
def busBusy (s : State) (b : Nat) : Bool :=
  (bankSlots b).any fun n => decide ((chanOf s n).route = .refbus)

/-- Whether a clamp event on the tile's calibration reference is in force. -/
def Tile.refClamp (t : Tile) : Bool := !t.refPins.isEmpty

/-- The clamp events that bear on a bank. -/
def bankClamps (s : State) (b : Nat) : List Pin :=
  (bankSt s b).clampPins ++
  (if h : b / 4 < 4 then (if (tileOf s (b / 4)).refClamp && busBusy s b then [Pin.calRef ⟨b / 4, h⟩ false] else []) else [])

/-- One flag of one slot opened or closed as its cause stands (R100, R101). -/
def flagTo (f : Nat) (on : Bool) (t hi : Nat) (c : Chan) : Chan :=
  if on && !winOpen c.wins f .step then { c with wins := winStart c.wins f .step t }
  else if !on && winOpen c.wins f .step then { c with wins := winStop c.wins f .step hi }
  else c

/-- `CLAMP` and `DIST` of every slot of a bank brought to the present clamp events; an ended one runs on for the
references' recovery, 8 192 refs (R100 to R102). -/
def reflag (b t : Nat) (s : State) : State :=
  let ps := bankClamps s b
  forAll (bankSlots b) s fun s n =>
    let c := ps.any (pinConnected s n)
    let d := ps.any fun p => !pinConnected s n p
    s.onChan n fun x => flagTo fDist d t (t + 8192) (flagTo fClamp c t (t + 8192) x)

/-! ### Clamp events (R99 to R102) -/

/-- The slot whose `CLAMP_EVENTS` counts an event of a pin. -/
def pinSlot : Pin → Option Nat
  | .ain n _ => some n.val
  | .wb c _ => some (528 + c.val)
  | .aux t i => some (544 + 16 * t.val + i.val)
  | .auxCom _ => none
  | .calRef .. => none

def auxPinKey (t i : Nat) : Nat := 17 * t + i

def onAuxClamp (s : State) (k : Nat) (f : List Win → List Win) : State :=
  { s with fe := { s.fe with auxClamp := tset s.fe.auxClamp k (f (tget s.fe.auxClamp k [])) } }

/-- The banks of a tile. -/
def tileBanks (t : Nat) : List Nat := [4 * t, 4 * t + 1, 4 * t + 2, 4 * t + 3]

/-- Whether a clamp event of a pin is in force. -/
def pinClamps (s : State) : Pin → Bool
  | .ain n g => (bankSt s (n.val / 32)).clampPins.contains (.ain n g)
  | .wb c g => (bankSt s c.val).clampPins.contains (.wb c g)
  | .aux a i => winOpen (tget s.fe.auxClamp (auxPinKey a.val i.val) []) fClamp .step
  | .auxCom a => winOpen (tget s.fe.auxClamp (auxPinKey a.val 16) []) fClamp .step
  | .calRef a g => (tileOf s a.val).refPins.contains g

/-- An instant timed to one modulator period (R99): the period in which it lies (DESIGN CHOICE, log 144: the spec names no
direction). -/
def clampTime (t : Nat) : Nat := t / 32 * 32

/-- CLAMP_ONSET (R99): a clamp event begins on a pin that has none. -/
def execClampOnset (pin : Pin) (t : Nat) (s : State) : Outc :=
  let s := s.at_ t
  let t := clampTime t
  if pinClamps s pin then done s
  else
    let s := match pinSlot pin with | some n => s.onChan n fun c => { c with clampEv := c.clampEv + 1 } | none => s
    done <| match pin with
      | .ain n _ => reflag (n.val / 32) t (s.onBank (n.val / 32) fun b => { b with clampPins := pin :: b.clampPins })
      | .wb c _ => reflag c.val t (s.onBank c.val fun b => { b with clampPins := pin :: b.clampPins })
      | .aux a i => onAuxClamp s (auxPinKey a.val i.val) fun w => winStart w fClamp .step t
      | .auxCom a => onAuxClamp s (auxPinKey a.val 16) fun w => winStart w fClamp .step t
      | .calRef a g =>
        let s := s.onTile a.val fun x => { x with refPins := g :: x.refPins, refEvents := x.refEvents + 1 }
        forAll (tileBanks a.val) s fun s b => reflag b t s

/-- CLAMP_RELEASE (R99, R101). -/
def execClampRelease (pin : Pin) (t : Nat) (s : State) : Outc :=
  let s := s.at_ t
  let t := clampTime t
  done <| match pin with
    | .ain n _ => reflag (n.val / 32) t (s.onBank (n.val / 32) fun b => { b with clampPins := b.clampPins.filter (· ≠ pin) })
    | .wb c _ => reflag c.val t (s.onBank c.val fun b => { b with clampPins := b.clampPins.filter (· ≠ pin) })
    | .aux a i => onAuxClamp s (auxPinKey a.val i.val) fun w => winStop w fClamp .step (t + 8192)
    | .auxCom a => onAuxClamp s (auxPinKey a.val 16) fun w => winStop w fClamp .step (t + 8192)
    | .calRef a g =>
      -- the bank's pins are gathered with the event in force, and the flags close once it has ended
      let s := s.onTile a.val fun x => { x with refPins := x.refPins.filter (· != g) }
      forAll (tileBanks a.val) s fun s b => reflag b t s

/-! ### Settling windows -/

/-- Settling time T of an excitation mode (R96). -/
def excT : Nat → Nat
  | 2 => 1024000
  | 3 => 512000000
  | _ => 409600

/-- A SETTLE step window on a slot (R97, R122). -/
def settle (n lo t : Nat) (s : State) : State := s.onChan n fun c => { c with wins := winAdd c.wins fSettle .step lo t }

/-- The slots of a group and any spare connected to their pins (R96, R103). -/
def groupSlots (s : State) (g : Nat) : List Nat :=
  let b := g / 8
  (List.range 4).map (4 * g + ·) ++
  (match spareAt s b with | some k => if k / 4 = g % 8 then [512 + b] else [] | none => [])

/-- A precision slot and any spare connected to its pins. -/
def slotAndSpare (s : State) (n : Nat) : List Nat :=
  n :: (if spareAt s (n / 32) = some (n % 32) then [512 + n / 32] else [])

/-! ### Wire-break detection (R103 to R107) -/

/-- The row of the table of R103, counted from 0 (DESIGN CHOICE, log 146: R389 gives the row no numbers), its slots, and what
the notice names. -/
def wireRow : WireFault → Nat
  | .voltage _ => 0 | .current _ => 1 | .iepeOpen _ => 2 | .iepeShort _ => 3 | .sense _ => 4 | .signal _ => 5

def wireSlots (s : State) : WireFault → List Nat
  | .voltage g => groupSlots s g.val
  | .current g => groupSlots s g.val
  | .sense g => groupSlots s g.val
  | .iepeOpen n => slotAndSpare s n.val
  | .iepeShort n => slotAndSpare s n.val
  | .signal n => slotAndSpare s n.val

def wireSubject : WireFault → Nat
  | .voltage g => g.val | .current g => g.val | .sense g => g.val
  | .iepeOpen n => n.val | .iepeShort n => n.val | .signal n => n.val

/-- Whether some front end runs the bias test on a slot's pins (R107, R111). -/
def biasRuns (s : State) (n : Nat) : Bool :=
  let c := chanOf s n
  c.bias && c.enabled && (decide (c.route = .pins) || decide (spareAt s (n / 32) = some (n % 32)))

/-- The effective mode of a group: off while R94 keeps it off. -/
def excMode (s : State) (g : Nat) : Nat := if (excOf s g).shutOff then 0 else (excOf s g).mode

/-- Whether the test behind a fault runs (R98, R103, R107). The SENSE pair of a group is watched as long as the bias test of any of
its four channels runs, and its fault is flagged on all four (DESIGN CHOICE, log 145). -/
def testRuns (s : State) (t : Nat) : WireFault → Bool
  | .voltage g => excMode s g.val == 1 && decide ((excOf s g.val).suspendEnd ≤ t)
  | .current g => excMode s g.val == 2 && decide ((excOf s g.val).suspendEnd ≤ t)
  | .iepeOpen n => excMode s (n.val / 4) == 3 && decide ((excOf s (n.val / 4)).suspendEnd ≤ t)
  | .iepeShort n => excMode s (n.val / 4) == 3 && decide ((excOf s (n.val / 4)).suspendEnd ≤ t)
  | .sense g => excMode s g.val == 1 && (excOf s g.val).sense && (List.range 4).any fun i => biasRuns s (4 * g.val + i)
  | .signal n => biasRuns s n.val

/-- WIRE_BREAK_DETECT (R103, R104, R106): a detection of a test that runs. -/
def execWireBreakDetect (f : WireFault) (t : Nat) (s : State) : Outc :=
  let s := s.at_ t
  let row := wireRow f
  let fresh := (wireSlots s f).filter fun n => (isSpare n || (chanOf s n).enabled) && !((chanOf s n).wire.contains row)
  if !testRuns s t f || fresh.isEmpty then done s
  else
    let s := forAll fresh s fun s n => s.onChan n fun c =>
      { c with wire := row :: c.wire, wireEvents := c.wireEvents + 1,
               wins := if winOpen c.wins fWire .plain then c.wins else winStart c.wins fWire .plain t }
    done (post 0x12 1 (wireSubject f) row [] s)

/-- T of the settling window after a fault clears (R105). -/
def wireT (s : State) (f : WireFault) : Nat :=
  match f with
  | .voltage g => excT (excMode s g.val)
  | .current g => excT (excMode s g.val)
  | .iepeOpen n => excT (excMode s (n.val / 4))
  | .iepeShort n => excT (excMode s (n.val / 4))
  | .sense _ => 204800
  | .signal _ => 204800

/-- One slot's wire row ended at `t` (R105): `WIRE` closes with the last row, and `SETTLE` is flagged. -/
def wireEnd (row t tt : Nat) (c : Chan) : Chan :=
  let w := c.wire.filter (· != row)
  let ws := if w.isEmpty then winStop c.wins fWire .plain t else c.wins
  { c with wire := w, wins := winAdd ws fSettle .step t tt }

/-- WIRE_CLEAR (R105, R106). -/
def execWireClear (f : WireFault) (t : Nat) (s : State) : Outc :=
  let s := s.at_ t
  let row := wireRow f
  let set := (wireSlots s f).filter fun n => (chanOf s n).wire.contains row
  if !testRuns s t f || set.isEmpty then done s
  else
    let tt := wireT s f
    done (post 0x12 3 (wireSubject f) row [] (forAll set s fun s n => s.onChan n (wireEnd row t tt)))

/-! ### Excitation faults (R91) -/

/-- Whether a group's state sets `WIRE` (R91). -/
def groupWire (s : State) (g : Nat) : Bool := (groupSlots s g).any fun n => (chanOf s n).wire.any (· < 5)

def excFlag (g t : Nat) (s : State) : State :=
  forAll (groupSlots s g) s fun s n => s.onChan n fun c =>
    if winOpen c.wins fDist .plain then c else { c with wins := winStart c.wins fDist .plain t }

/-- A group in dropout from `t` (R91): a voltage or current group, unless its state already sets `WIRE`. -/
def dropOut (g t : Nat) (s : State) : State :=
  if (excMode s g == 1 || excMode s g == 2) && !groupWire s g then
    excFlag g t (s.onExc g fun e => { e with dropout := true, leftAt := none })
  else s

/-- EXC_DROPOUT_ONSET (R91). -/
def execExcDropoutOnset (g : Fin 128) (t : Nat) (s : State) : Outc := done (dropOut g.val t (s.at_ t))

/-- EXC_LIMIT_ONSET (R91): a voltage group at its current limit. -/
def execExcLimitOnset (g : Fin 128) (t : Nat) (s : State) : Outc :=
  let s := s.at_ t
  if excMode s g.val == 1 then
    done (excFlag g.val t (s.onExc g.val fun e => { e with limit := true, leftAt := none }))
  else done s

/-- EXC_DROPOUT_OR_LIMIT_END (R91): the group is in regulation again; its flags run on for the settling time. -/
def execExcDropoutOrLimitEnd (g : Fin 128) (t : Nat) (s : State) : Outc :=
  let s := s.at_ t
  let e := excOf s g.val
  if (e.dropout || e.limit) && e.leftAt.isNone then done (s.onExc g.val fun e => { e with leftAt := some t }) else done s

/-- EXC_FAULT_END (R91): the settling time after the group left dropout or limit has passed. -/
def execExcFaultEnd (g : Fin 128) (t : Nat) (s : State) : Outc :=
  let s := s.at_ t
  match (excOf s g.val).leftAt with
  | none => done s
  | some l =>
    let e := l + excT (excMode s g.val)
    if t < e then done s
    else
      let s := s.onExc g.val fun x => { x with dropout := false, limit := false, leftAt := none }
      done (forAll (groupSlots s g.val) s fun s n => s.onChan n fun c => { c with wins := winStop c.wins fDist .plain e })

/-! ### CHAN_CONFIG (R83, R123, R158, R159, R184, R213, R373) -/

/-- Whether an enabled stream carries a slot. -/
def streamCarries (s : State) (n : Nat) : Bool := s.str.s.any fun e => e.2.enabled && e.2.cfg.slots.contains n

/-- Whether an armed group uses a slot as a record slot or in a sample condition (R213). -/
def armedUses (condSlotsOf : State → Nat → List Nat) (s : State) (n : Nat) : Bool :=
  s.trg.grp.any fun e => e.2.armed &&
    (e.2.cfg.slots.any (fun r => r.slot == n) ||
     (List.range 8).any fun i => bit e.2.cfg.seqMask i && (condSlotsOf s i).contains n)

/-- The chain that a slot starts at `t` (R141, R149, R158): one chain, and a fade where a swap runs. -/
def startChain (s : State) (t : Nat) (c : Chan) : Chan :=
  let ch (bank : Nat) : Chain := { bank, set := c.set, rate := c.rate, lo := t }
  let c := { c with chains := (c.chains.map fun x => if x.hi.isNone then { x with hi := some t } else x) ++ [ch s.chd.active], fade := none }
  match s.chd.swap with
  | none => c
  | some w =>
    let f : Fade := { k := w.k, np := n0 w.tick (rateRefs c.rate) + halfSpan s.chd (1 - s.chd.active) c.set c.rate,
                      inc := ch (1 - s.chd.active), half := halfSpan s.chd s.chd.active c.set c.rate, since := s.tb.tick }
    -- a slot that starts behind the last blended output of its rate keeps no swap waiting
    { c with fade := some { f with done := decide (f.np + 2 ^ f.k ≤ cdiv t (rateRefs c.rate)) } }

/-- Whether a front end's chain runs. -/
def Chan.live (c : Chan) : Bool := c.chains.any (·.hi.isNone)

/-- Whether a front end is in use: its slot is enabled, or it stands in for a position (R119). -/
def Chan.running (c : Chan) : Bool := c.enabled || c.live

/-- A slot's outputs end before `t`. -/
def stopChain (t : Nat) (c : Chan) : Chan :=
  { c with chains := c.chains.map fun x => if x.hi.isNone then { x with hi := some t } else x, fade := none }

/-- A slot enabled at `t` with its start window (R123). -/
def enableChan (s : State) (n t : Nat) : State :=
  s.onChan n fun c =>
    let c := startChain s t { c with enabled := true }
    { c with wins := winAdd c.wins fSettle .start t 8192 }

/-- A slot disabled at `t`: its wire state ends (R105) and it leaves any swap (R159). -/
def disableChan (n t : Nat) (s : State) : State :=
  s.onChan n fun c =>
    let c := stopChain t { c with enabled := false, wire := [] }
    { c with wins := winStop c.wins fWire .plain t }

/-- The gain of a front end set at `t` (R83, R123). -/
def setGain (n g t : Nat) (s : State) : State :=
  if (chanOf s n).gain = g then s
  else s.onChan n fun c => { c with gain := g, gainOld := (t, c.gain) :: c.gainOld, wins := if c.running then winAdd c.wins fSettle .step t 2048 else c.wins }

def chkChan (uses : State → Nat → Bool) (slot en gain bias : Nat) (oEn oGain oBias : Nat) (s : State) : Ans :=
  firstOf [(decide (543 < slot), badAt 0), (decide (1 < en), badAt oEn), (decide (7 < gain) || (isWb slot && gain != 0), badAt oGain),
    (decide (1 < bias) || (isWb slot && bias != 0), badAt oBias),
    (en == 0 && (chanOf s slot).enabled && (streamCarries s slot || uses s slot), .refuse .functionState (fnCode (fnState s slot)))]
    (.stage .ok 0)

/-- The effect of CHAN_CONFIG at its apply tick. While the spare delivers for the slot, a gain change applies to the
spare and is kept for the channel (R353). -/
def setChan (slot en gain : Nat) (bias : Option Nat) (s : State) : State :=
  let t := applyT s
  let was := (chanOf s slot).enabled
  let s := if en = 1 && !was then enableChan s slot t else if en = 0 && was then disableChan slot t s else s
  let s := match bias with | some v => if isWb slot then s else s.onChan slot fun c => { c with bias := v == 1 } | none => s
  if isWb slot then s
  else
    let s := match s.cal.sess.find? fun e => e.1 == slot && e.2.gain0.isSome with
      | some _ => { s with cal := { s.cal with sess := s.cal.sess.map fun e => if e.1 = slot then (e.1, { e.2 with gain0 := some gain }) else e } }
      | none => setGain slot gain t s
    match (bankSt s (bankOf slot)).deliver with
    | some (k, _) => if isPrec slot && k == slot % 32 then setGain (512 + slot / 32) gain t s else s
    | none => s

def appChanConfig (r : Req) (s : State) : State :=
  setChan (rd r.p 0 2) (rd r.p 2 1) (rd r.p 3 1) (some (rd r.p 4 1)) s

/-! ### WB_CONFIG, WB_COMPARATOR (R84, R125, R127) -/

def chkWbConfig (_s : State) (r : Req) : Ans :=
  firstOf [(decide (15 < rd r.p 0 1), badAt 0), (decide (2 < rd r.p 1 1), badAt 1), (decide (1 < rd r.p 2 1), badAt 2)] (.stage .ok 0)

def appWbConfig (r : Req) (s : State) : State :=
  let c := rd r.p 0 1
  let n := 528 + c
  let t := applyT s
  let x := chanOf s n
  let s := if x.range = rd r.p 1 1 then s else settle n t 2048 (s.onComp c fun k => { k with mutedUntil := max k.mutedUntil (t + 2048) })
  let s := if x.coupling = rd r.p 2 1 then s else settle n t 20480000 (s.onComp c fun k => { k with mutedUntil := max k.mutedUntil (t + 20480000) })
  s.onChan n fun x => { x with range := rd r.p 1 1, coupling := rd r.p 2 1 }

def chkWbComparator (_s : State) (r : Req) : Ans :=
  firstOf [(decide (15 < rd r.p 0 1), badAt 0), (decide (1 < rd r.p 1 1), badAt 1), (decide (2 < rd r.p 2 1), badAt 2),
    (decide (4095 < rd r.p 4 2), badAt 4)] (.stage .ok 0)

def appWbComparator (r : Req) (s : State) : State :=
  s.onComp (rd r.p 0 1) fun k => { k with enable := rd r.p 1 1 == 1, polarity := rd r.p 2 1, hyst := rd r.p 3 1, threshold := rd r.p 4 2 }

/-! ### EXC_CONFIG (R87, R95 to R98, R373) -/

def excLevelOk (mode level : Nat) : Bool :=
  match mode with
  | 1 => decide (500 ≤ level) && decide (level ≤ 10000)
  | 2 => decide (1000 ≤ level) && decide (level ≤ 1000000)
  | 3 => level == 2 || level == 4 || level == 8
  | _ => true

def chkExcConfig (_s : State) (r : Req) : Ans :=
  let imin := rd r.p 8 4
  firstOf [(decide (127 < rd r.p 0 1), badAt 0), (decide (3 < rd r.p 1 1), badAt 1), (decide (1 < rd r.p 2 1), badAt 2),
    (!excLevelOk (rd r.p 1 1) (rd r.p 4 4), badAt 4),
    (imin != 0 && (decide (imin < 10) || decide (1000 < imin)), badAt 8)] (.stage .ok 0)

/-- Whether a change opens a settling window (R96). -/
def excChanges (oldMode : Nat) (e : Exc) (mode level : Nat) (sense : Bool) : Bool :=
  if mode != oldMode then true
  else match mode with
    | 0 => false
    | 1 => e.level != level || e.sense != sense
    | _ => e.level != level

/-- A group set at `t`: windows on its channels and any spare on their pins (R96, R97), tests suspended (R98). -/
def setExc (g mode level imin : Nat) (sense : Bool) (t : Nat) (s : State) : State :=
  let e := excOf s g
  let old := excMode s g
  let chg := excChanges old e mode level sense
  let s := s.onExc g fun e => { e with
    mode := mode, level := level, sense := sense, imin := imin, shutOff := false,
    settleEnd := if chg then max e.settleEnd (t + excT mode) else e.settleEnd,
    suspendEnd := if chg then max e.suspendEnd (t + excT mode) else e.suspendEnd,
    leftAt := if old != mode && (e.dropout || e.limit) && e.leftAt.isNone then some t else e.leftAt }
  let s := forAll (groupSlots s g) s fun s n => s.onChan n fun c => { c with wins := winStop c.wins fBad .plain t }
  if chg then forAll (groupSlots s g) s fun s n => settle n t (excT mode) s else s

def appExcConfig (r : Req) (s : State) : State :=
  setExc (rd r.p 0 1) (rd r.p 1 1) (rd r.p 4 4) (if rd r.p 8 4 = 0 then 100 else rd r.p 8 4) (rd r.p 2 1 == 1) (applyT s) s

/-! ### FE_ROUTE (R108 to R110, R119, R353) -/

def routeOf : Nat → Route
  | 0 => .pins | 1 => .refbus | 2 => .parked | _ => .channel

def routeCode : Route → Nat
  | .pins => 0 | .refbus => 1 | .parked => 2 | .channel => 3

/-- Whether a bank has a calibration session (R353, R414). -/
def bankInSession (s : State) (b : Nat) : Bool := s.cal.sess.any fun e => e.1 < 512 && e.1 / 32 == b || e.1 == 512 + b

/-- Whether a route keeps every rule of R109. -/
def routeLegal (s : State) (b fe : Nat) (pos : Route) (k : Nat) : Bool :=
  let onBus := (List.range 32).any (fun i => i != fe && decide ((chanOf s (32 * b + i)).route = .refbus))
    || (fe != 32 && decide ((chanOf s (512 + b)).route = .refbus))
  let busOk := decide (pos ≠ .refbus) || !onBus
  if fe = 32 then
    -- the spare leaves the pins of a channel whose own front end is off them only if that channel is disabled
    let leaves := match spareAt s b with
      | some j => decide (pos ≠ .channel ∨ k ≠ j) && decide ((chanOf s (32 * b + j)).route ≠ .pins) && (chanOf s (32 * b + j)).enabled
      | none => false
    busOk && !leaves
  else
    let off := decide (pos ≠ .pins)
    busOk && (!off || !(chanOf s (32 * b + fe)).enabled || decide (spareAt s b = some fe) || (bankSt s b).legacyHeld && (bankSt s b).spareK == fe)

def chkFeRoute (s : State) (r : Req) : Ans :=
  let b := rd r.p 0 1
  let fe := rd r.p 1 1
  let pos := rd r.p 2 1
  let k := rd r.p 3 1
  firstOf [(decide (15 < b), badAt 0), (decide (32 < fe), badAt 1),
    (decide (3 < pos) || (fe == 32 && pos == 0) || (fe != 32 && pos == 3), badAt 2), (decide (31 < k), badAt 3),
    (bankInSession s b, .refuse .busy 0),
    (!routeLegal s b fe (routeOf pos) k, .refuse .functionState (fnCode (fnState s (if fe = 32 then 512 + b else 32 * b + fe))))]
    (.stage .ok 0)

/-- A spare taken off a channel's pins at `t`: the flags that the group's and the pins' faults gave it end (R91, R94, R103). -/
def leavePins (t : Nat) (c : Chan) : Chan :=
  { c with wire := [], wins := winStop (winStop (winStop c.wins fWire .plain t) fDist .plain t) fBad .plain t }

/-- A flag opened by a fault that is in force. -/
def joinFlag (f t : Nat) (on : Bool) (ws : List Win) : List Win := if on && !winOpen ws f .plain then winStart ws f .plain t else ws

/-- A spare brought onto a channel's pins at `t`: it is flagged with the channel for the faults in force (R91, R94, R103). -/
def joinPins (s : State) (p t : Nat) (c : Chan) : Chan :=
  let e := excOf s (p / 4)
  let rows := (chanOf s p).wire
  { c with wire := rows,
           wins := joinFlag fWire t (!rows.isEmpty) (joinFlag fDist t (e.dropout || e.limit) (joinFlag fBad t e.shutOff c.wins)) }

/-- A front end moved at `t`: newly connected, it carries the route window (R110); a spare at `CHANNEL` k takes the
rate and set of position k (R119). -/
def setRoute (n : Nat) (pos : Route) (k t : Nat) (s : State) : State :=
  let c := chanOf s n
  let b := bankOf n
  let moved := decide (c.route ≠ pos) || (isSpare n && decide (pos = .channel) && (bankSt s b).spareK != k)
  if !moved then s
  else
    let s := s.onChan n fun c => { c with route := pos, routeOld := (t, c.route, (bankSt s b).spareK) :: c.routeOld, wins := winAdd c.wins fSettle .step t 4096 }
    let s := if isSpare n && decide (c.route = .channel) then s.onChan n (leavePins t) else s
    let s := if isSpare n && decide (pos = .channel) then
        let p := chanOf s (32 * b + k)
        let s := s.onChan n (joinPins s (32 * b + k) t)
        let s := s.onBank b fun x => { x with spareK := k }
        if p.rate != c.rate || p.set != c.set || c.chains.all (·.hi.isSome) then s.onChan n fun x => startChain s t { x with rate := p.rate, set := p.set } else s
      else if isSpare n && decide (c.route = .channel) && !c.enabled then s.onChan n (stopChain t)
      else s
    reflag b t s

def appFeRoute (r : Req) (s : State) : State :=
  let b := rd r.p 0 1
  let fe := rd r.p 1 1
  setRoute (if fe = 32 then 512 + b else 32 * b + fe) (routeOf (rd r.p 2 1)) (rd r.p 3 1) (applyT s) s

end Sys2Proof.Machine
end

