-- ==== Sys2Proof/Machine/AuxConv.lean ====
section
/-! DEFINITION. The auxiliary converters (R128 to R133, R345): the scan table's entries and segments, the converter's
steps through it, and the commands that load it, set its timers and report its offsets. -/
namespace Sys2Proof.Machine

/-! ### Entries (R129) -/

def auxWait (e : BitVec 64) : Bool := bits e.toNat 63 62 == 1
def auxLastE (e : BitVec 64) : Bool := bit e.toNat 61
def auxMode (e : BitVec 64) : Nat := bits e.toNat 60 60
def auxGain (e : BitVec 64) : Nat := bits e.toNat 59 58
def auxInput (e : BitVec 64) : Nat := bits e.toNat 57 52
def auxDest (e : BitVec 64) : Nat := bits e.toNat 51 48
def auxAvg (e : BitVec 64) : Bool := bit e.toNat 47
def auxRepeat (e : BitVec 64) : Nat := bits e.toNat 39 32
def auxDelay (e : BitVec 64) : Nat := bits e.toNat 31 16
def auxSource (e : BitVec 64) : Nat := bits e.toNat 15 8
def auxEdge (e : BitVec 64) : Nat := bits e.toNat 7 6

/-- The refs that an entry takes in its segment (R129). -/
def auxSpan (e : BitVec 64) : Nat := (auxRepeat e + 1) * (200 + auxDelay e)

/-- Whether every field of an entry is in range and its reserved bits are zero. -/
def auxEntryOk (e : BitVec 64) : Bool :=
  bits e.toNat 46 40 == 0 && bits e.toNat 5 0 == 0 &&
  (match bits e.toNat 63 62 with
   | 0 => decide (auxGain e ≠ 3) && decide (auxInput e ≤ 23)
   | 1 => (decide (auxSource e ≤ 1) && auxEdge e == 0) || (decide (0x20 ≤ auxSource e) && decide (auxSource e ≤ 0x3F) && decide (auxEdge e ≤ 2))
   | _ => false)

/-! ### Segments (R129, R131, R132) -/

/-- The entries of the segment that the `WAIT` entry `i` starts, with their numbers. -/
def segOf (t : List (BitVec 64)) (i : Nat) : List (Nat × BitVec 64) :=
  let es := (List.range t.length).map fun k => (k, t.getD k 0)
  ((es.drop (i + 1)) ++ es.take i).takeWhile fun e => !auxWait e.2

/-- The span C of a segment. -/
def segSpan (t : List (BitVec 64)) (i : Nat) : Nat := (segOf t i).foldl (fun c e => c + auxSpan e.2) 0

/-- The `WAIT` entries of a table, with their numbers. -/
def waits (t : List (BitVec 64)) : List (Nat × BitVec 64) :=
  ((List.range t.length).map fun k => (k, t.getD k 0)).filter fun e => auxWait e.2

/-- Whether every segment that a timer starts fits its period (R131); a timer never set is not checked. -/
def timerFits (t : List (BitVec 64)) (timer period : Nat) : Bool :=
  period == 0 || (waits t).all fun e => auxSource e.2 != timer || decide (segSpan t e.1 + auxDelay e.2 ≤ period)

/-- The number of the first `WAIT` entry whose segment does not fit its timer's period. -/
def misfit (a : AuxConv) (t : List (BitVec 64)) : Option Nat :=
  ((waits t).find? fun e => decide (auxSource e.2 ≤ 1) && decide ((tget a.timers (auxSource e.2) {}).period ≠ 0)
    && decide ((tget a.timers (auxSource e.2) {}).period < segSpan t e.1 + auxDelay e.2)).map (·.1)

/-- The table in force, or the one that waits for the conversion in progress. -/
def auxTable (a : AuxConv) : List (BitVec 64) := a.waiting.getD a.table

/-- Samples that an entry delivers in a run of its segment. -/
def auxDelivers (e : BitVec 64) : Nat := if auxAvg e then 1 else auxRepeat e + 1

/-- Whether a slot is delivered on the grid of a rate (R132). -/
def auxOnGrid (s : State) (slot rate : Nat) : Bool :=
  isAux slot &&
  (let a := auxOf s ((slot - 544) / 16)
   let d := (slot - 544) % 16
   let t := auxTable a
   let dests := ((List.range t.length).map fun k => (k, t.getD k 0)).filter fun e => !auxWait e.2 && auxDest e.2 == d
   (waits t).any fun w =>
     decide (auxSource w.2 ≤ 1) && decide (rateRefs rate ≠ 0) &&
     (let tm := tget a.timers (auxSource w.2) {}
      decide (tm.period = rateRefs rate) && decide (tm.phase = 0)) &&
     (let seg := segOf t w.1
      decide (dests ≠ []) && dests.all (fun e => seg.contains e) &&
      seg.all fun e => decide ((seg.foldl (fun c x => if auxDest x.2 = auxDest e.2 then c + auxDelivers x.2 else c) 0) = 1)))

/-- The declared offset of a segment's entry from its start event (R132). -/
def segOffset (start : Nat) : List (Nat × BitVec 64) → Nat → Nat
  | [], _ => 0xFFFFFFFF
  | (j, e) :: t, k =>
    if j = k then start + (if auxAvg e then auxRepeat e * (200 + auxDelay e) / 2 else 0) else segOffset (start + auxSpan e) t k

/-- The offset that AUX_SCAN_INFO reports of entry k; a table without a `WAIT` counts from its first hold. -/
def entryOffset (t : List (BitVec 64)) (k : Nat) : Nat :=
  if auxWait (t.getD k 0) then 0xFFFFFFFF
  else match (waits t).find? fun w => (segOf t w.1).any fun e => e.1 == k with
    | some w => segOffset (auxDelay w.2) (segOf t w.1) k
    | none => segOffset 0 ((List.range t.length).map fun i => (i, t.getD i 0)) k

/-! ### The converter's steps (R130, R133) -/

/-- The converter comes to entry `pos` with the multiplexer moved at `t`; a `CONVERT` holds at `hold`. -/
def auxEnter (a : AuxConv) (pos t hold : Nat) : AuxConv :=
  let a := { a with pos := pos, muxAt := t, acc := [] }
  if auxWait (a.table.getD pos 0) then { a with phase := .waiting, event := none }
  else { a with phase := .converting hold 0, firstHold := hold }

/-- The entry after `pos`, cyclically. -/
def auxNext (a : AuxConv) : Nat := if auxLastE (a.table.getD a.pos 0) || a.table.length ≤ a.pos + 1 then 0 else a.pos + 1

/-- A table starts at entry 0 (R133): the multiplexer moves to its input at `t`, or at the end of the `DELAY` that is in
progress then, and a `CONVERT` holds 100 refs later. -/
def auxStart (a : AuxConv) (tb : List (BitVec 64)) (t : Nat) : AuxConv :=
  let m := max t a.freeAt
  auxEnter { a with table := tb, waiting := none, freeAt := m, event := none } 0 m (m + 100)

/-- A converter that stops: the conversion in progress and what an averaged entry has gathered are lost. -/
def auxHalt (a : AuxConv) : AuxConv := { a with table := auxTable a, waiting := none, phase := .idle, acc := [], freeAt := 0, event := none }

/-- A converter that starts again takes its table up at entry 0, as a table that applies while nothing is in progress does
(R133; DEDUCED, log 148). -/
def auxAgain (t : Nat) (a : AuxConv) : AuxConv := if a.table = [] then a else auxStart a a.table t

/-- A start event of a source at `t`: with `on` the state that a loop's output takes (R130). A `WAIT` entry that the
scan is at takes it; any other event of a source that the table names is counted as missed, one that comes in the
`DELAY` before the `WAIT` too. -/
def auxEvent (source : Nat) (on : Bool) (t : Nat) (a : AuxConv) : AuxConv :=
  let hits (e : BitVec 64) : Bool :=
    auxSource e == source && (decide (source ≤ 1) || auxEdge e == 0 || (auxEdge e == 1 && on) || (auxEdge e == 2 && !on))
  if !((waits a.table).any fun e => hits e.2) then a
  else if decide (a.phase = .waiting) && decide (a.freeAt ≤ t) && hits (a.table.getD a.pos 0) then
    let due := t + auxDelay (a.table.getD a.pos 0)
    let d := max due (a.muxAt + 100)
    { a with phase := .delay d (decide (due < d)), event := some t }
  else { a with missed := a.missed + 1 }

/-- A start event reaches a converter that is in service. -/
def auxTrigger (conv source : Nat) (on : Bool) (t : Nat) (s : State) : State :=
  if fnIdle s (fnAuxConv conv) then s else s.onAux conv (auxEvent source on t)

/-- A timer event in the time base's elastic buffer, 32 words deep (R33): what the fabric has taken of it since the last one
is a free value, and one that finds it full is lost (R35; log 138). -/
def timerEvent (conv timer t : Nat) (s : State) : State :=
  let v := s.free
  let buf := v.1.toNat % (s.tb.evBuf.length + 1)
  let s := v.2.onTb fun b => { b with evBuf := b.evBuf.drop buf }
  if 32 ≤ s.tb.evBuf.length then bufferFull 13 s
  else
    let s := s.onTb fun b => { b with evBuf := b.evBuf ++ [BitVec.ofNat 64 t] }
    auxTrigger conv timer true t (monValue s 0xA 0 s.tb.evBuf.length)

/-- AUX_TIMER_FIRE (R131): a timer fires only where its period and phase say. -/
def execAuxTimerFire (conv : Fin 4) (timer : Fin 2) (t : Nat) (s : State) : Outc :=
  let s := s.at_ t
  let tm := tget (auxOf s conv.val).timers timer.val {}
  if tm.period = 0 || t < tm.phase || (t - tm.phase) % tm.period != 0 then done s
  else done (timerEvent conv.val timer.val t s)

/-- AUX_SEGMENT_START (R130): the segment's first hold. -/
def execAuxSegmentStart (conv : Fin 4) (s : State) : Outc :=
  match (auxOf s conv.val).phase with
  | .delay due late =>
    done ((s.at_ due).onAux conv.val fun a =>
      let a := if late then { a with late := a.late + 1 } else a
      let ev := a.event
      { auxEnter a (auxNext a) a.muxAt due with event := ev })
  | _ => done s

/-- AUX_TABLE_APPLY (R133): the waiting table starts once the conversion in progress and its `DELAY` are complete. -/
def execAuxTableApply (conv : Fin 4) (s : State) : Outc :=
  let a := auxOf s conv.val
  match a.waiting, a.phase with
  | some t, .idle =>
    done (s.onAux conv.val fun a => auxStart a t a.freeAt)
  | _, _ => done s

/-! ### AUX_SCAN_LOAD (R129, R131, R133, R373) -/

/-- The entries of one part, with their numbers. -/
def partEntries (p : List Byte) : List (Nat × BitVec 64) :=
  (List.range (rd p 6 1)).map fun i => (rd p 5 1 + i, BitVec.ofNat 64 (rd p (8 + 8 * i) 8))

/-- The whole table of 256 entries that the parts write: a later part replaces an earlier one. -/
def loadEntries (ps : List (List Byte)) : Tab (BitVec 64) :=
  (ps.map partEntries).flatten.foldl (fun t e => tset t e.1 e.2) []

/-- The entries from 0 to the first with `LAST`; none where one is missing before it. -/
def loadTable : Nat → Tab (BitVec 64) → Nat → Option (List (BitVec 64))
  | 0, _, _ => none
  | n + 1, t, k =>
    if !thas t k then none
    else
      let e := tget t k 0
      if auxLastE e then some [e] else (loadTable n t (k + 1)).map (e :: ·)

/-- The checks of one part that need no other part. -/
def chkScanPart (k : Nat) (p : List Byte) : Ans :=
  firstOf ([(decide (3 < rd p 4 1), badPart k 4), (decide (rd p 6 1 = 0) || decide (28 < rd p 6 1), badPart k 6),
    (decide (p.length ≠ 8 + 8 * rd p 6 1), .refuse .badArgument (65536 * k + 4)),
    (decide (256 < rd p 5 1 + rd p 6 1), badPart k 5)] ++
    (List.range (rd p 6 1)).map fun i => (!auxEntryOk (BitVec.ofNat 64 (rd p (8 + 8 * i) 8)), badPart k (8 + 8 * i))) (.reply 0 [])

/-- Where the parts carry entry `n`: part and payload offset. -/
def entryPlace (ps : List (List Byte)) (n : Nat) : Nat × Nat :=
  ((List.range ps.length).foldl (fun a k =>
    let p := ps.getD k []
    if rd p 5 1 ≤ n ∧ n < rd p 5 1 + rd p 6 1 then (k, 8 + 8 * (n - rd p 5 1)) else a) (0, 5))

def chkAuxScanLoad (s : State) (r : Req) : Ans :=
  let es := loadEntries r.parts
  let last := r.parts.length - 1
  match loadTable 256 es 0 with
  | none => badPart last 5
  | some t =>
    match misfit (auxOf s (rd r.p 4 1)) t with
    | some k => let w := entryPlace r.parts k; badPart w.1 w.2
    | none => .stage .ok 0

/-! ### AUX_TIMER, AUX_SCAN_INFO -/

def chkAuxTimer (s : State) (r : Req) : Ans :=
  let p := rd r.p 4 4
  firstOf [(decide (3 < rd r.p 0 1), badAt 0), (decide (1 < rd r.p 1 1), badAt 1), (decide (p < 200), badAt 4),
    (decide (p ≤ rd r.p 8 4), badAt 8), (!timerFits (auxTable (auxOf s (rd r.p 0 1))) (rd r.p 1 1) p, badAt 4)] (.stage .ok 0)

def appAuxTimer (r : Req) (s : State) : State :=
  s.onAux (rd r.p 0 1) fun a => { a with timers := tset a.timers (rd r.p 1 1) { period := rd r.p 4 4, phase := rd r.p 8 4 } }

def chkAuxScanInfo (s : State) (r : Req) : Ans :=
  let a := auxOf s (rd r.p 0 1)
  let first := rd r.p 1 1
  let n := min 56 (a.table.length - first)
  firstOf [(decide (3 < rd r.p 0 1), badAt 0)]
    (.reply 0 (le 4 a.late.toNat ++ le 4 a.missed.toNat ++ le 1 n ++ zeros 3
      ++ ((List.range n).map fun i => le 4 (entryOffset a.table (first + i))).flatten))

/-! ### One conversion's result (R128, R345) -/

/-- A trimmed code, clipped to the range of the mode (R345); the untrimmed code where the correction has no number. -/
def trimCode (c : Corr) (mode : Nat) (code : Int) : Int :=
  let lo : Int := if mode = 0 then 0 else -131072
  let hi : Int := if mode = 0 then 262143 else 131071
  let v := match F64.toInt (F64.mul (F64.sub (F64.ofInt code) c.o) c.g) with | some v => v | none => code
  clampI v lo hi

/-- The value and `OVR` flag of a code (R128). -/
def codeWord (mode : Nat) (code : Int) : Int × Nat :=
  if mode = 0 then (code * 32, if code = 0 ∨ code = 262143 then fOvr else 0)
  else if code = -131072 then (satMin, fOvr)
  else (code * 64, if code = 131071 then fOvr else 0)

end Sys2Proof.Machine
end

