-- ==== Sys2Proof/Machine/Linear.lean ====
section
/-! DEFINITION. Linearisation and value outputs (R161 to R177): the corrected signal, the polynomial, temperature and
stale runs, the engineering word, and the square waves and pulse widths of the value outputs. -/
namespace Sys2Proof.Machine

/-! ### What applies to a sample (R162, R166, R167, R346) -/

/-- The store entry of a front end at a gain: page × 264 + 8 × position + gain code. -/
def corrKey (fe gain : Nat) : Nat :=
  if fe < 512 then fe / 32 * 264 + 8 * (fe % 32) + gain else (fe - 512) * 264 + 8 * 32 + gain

/-- The store entry of an auxiliary mode and gain. -/
def auxCorrKey (tile mode gain : Nat) : Nat := (16 + tile) * 264 + 3 * mode + gain

def corrAt (s : State) (key t : Nat) : Corr := asOf (tget s.lin.corrOld key []) (tget s.lin.corr key {}) t

/-- The gain code of a front end at an instant. -/
def gainAt (s : State) (n t : Nat) : Nat := asOf (chanOf s n).gainOld (chanOf s n).gain t

/-- The route of a front end at an instant, with the position of a spare at `CHANNEL`. -/
def routeAt (s : State) (n t : Nat) : Route × Nat :=
  asOf (chanOf s n).routeOld ((chanOf s n).route, (bankSt s (bankOf n)).spareK) t

/-- The slot whose descriptor a front end uses at an instant (R167); none for a spare at `PARKED` or `REFBUS`. -/
def descSlot (s : State) (fe t : Nat) : Option Nat :=
  if fe < 512 then some fe
  else if (routeAt s fe t).1 = .channel then some (32 * (fe - 512) + (routeAt s fe t).2) else none

/-- A slot's descriptor and the use of its temperature at an instant. -/
def descAt (s : State) (n t : Nat) : LinDesc × TempUse :=
  asOf (tget s.lin.descOld n []) (linOf s n, tget s.lin.temp n {}) t

/-- 2^-23. -/
def f2m23 : F64 := 0x3E80000000000000

/-- The corrected signal x (R162). -/
def corrected (c : Corr) (v : Int) : F64 := F64.mul (F64.mul (F64.sub (F64.ofInt v) c.o) c.g) f2m23

/-- The coefficients of x^i in falling order of the power of τ, by fused multiply-adds (R163). -/
def polyRow (tau : F64) : List F64 → F64 → F64
  | [], a => a
  | c :: cs, a => polyRow tau cs (F64.fma a tau c)

/-- a for row i: c_i3, then c_i2, c_i1, c_i0 (R163). -/
def rowTerm (d : LinDesc) (tau : F64) (i : Nat) : F64 :=
  let c (j : Nat) : F64 := d.coef.getD (4 * i + j) 0
  polyRow tau [c 2, c 1, c 0] (c 3)

/-- The engineering value y (R163). -/
def poly (d : LinDesc) (x tau : F64) : F64 := [5, 4, 3, 2, 1, 0].foldl (fun y i => F64.fma y x (rowTerm d tau i)) 0

/-- The engineering word of a value y with the flags of its raw sample (R168). -/
def engWord (lsb y : F64) (fl : Nat) : SampleWord :=
  if F64.isFinite y then
    match F64.toInt (F64.div y lsb) with
    | some q => satWord q fl
    | none => badKeep fl
  else badKeep fl

/-! ### Temperature (R169 to R171) -/

/-- A temperature notice (R171, R491). -/
def tempNotice (slot ev tb tbad : Nat) (s : State) : State :=
  post 0x13 (if ev = 2 then 3 else 1) slot ev (le 8 tb ++ le 8 tbad) s

/-- τ of a sample with instant `t` (R169, R170): none where the sample is `BAD`. -/
def tauOf (d : LinDesc) (u : TempUse) (t : Nat) : Option F64 :=
  if d.tsrc = 0xFFFF then some 0
  else match u.last with
    | none => none
    | some v =>
      let tau := F64.sub (F64.mul (F64.ofInt v) d.tscale) d.t0
      match u.stale with
      | none => some tau
      | some tb => if t ≤ tb + d.stale then some tau else none

/-! ### LIN_SET, LIN_READ (R164 to R166) -/

def linOfBytes (p : List Byte) : LinDesc :=
  { tsrc := rd p 2 2, stale := rd p 4 4, lsb := rdF p 8, tscale := rdF p 16, t0 := rdF p 24,
    coef := (List.range 24).map fun i => rdF p (32 + 8 * i) }

def linBytes (n : Nat) (d : LinDesc) : List Byte :=
  le 2 n ++ le 2 d.tsrc ++ le 4 d.stale ++ leF d.lsb ++ leF d.tscale ++ leF d.t0
    ++ ((List.range 24).map fun i => leF (d.coef.getD i 0)).flatten

/-- Whether an enabled stream carries a slot's engineering samples (R166). -/
def engStream (s : State) (n : Nat) : Bool := s.str.s.any fun e => e.2.enabled && e.2.cfg.skind == 1 && e.2.cfg.slots.contains n

def chkLinSet (s : State) (r : Req) : Ans :=
  let n := rd r.p 0 2
  let d := linOfBytes r.p
  let isSource := s.lin.desc.any fun e => e.2.tsrc == n && e.1 != n
  firstOf ([(decide (511 < n), badAt 0),
    (d.tsrc != 0xFFFF && !((isPrec d.tsrc && d.tsrc != n) || isAux d.tsrc), badAt 2),
    (isPrec d.tsrc && decide ((linOf s d.tsrc).tsrc ≠ 0xFFFF), badAt 2),
    (d.tsrc != 0xFFFF && isSource, badAt 2),
    (decide (4096000000 < d.stale), badAt 4), (!F64.posNormal d.lsb, badAt 8),
    (!F64.isFinite d.tscale, badAt 16), (!F64.isFinite d.t0, badAt 24)] ++
    ((List.range 24).map fun i => (!F64.isFinite (d.coef.getD i 0), badAt (32 + 8 * i))) ++
    [(d.lsb != (linOf s n).lsb && engStream s n, .refuse .functionState (fnCode (fnState s n)))]) (.stage .ok 0)

def appLinSet (r : Req) (s : State) : State :=
  let n := rd r.p 0 2
  let t := applyT s
  { s with lin := { s.lin with
      descOld := tset s.lin.descOld n ((t, linOf s n, tget s.lin.temp n {}) :: tget s.lin.descOld n []),
      desc := tset s.lin.desc n (linOfBytes r.p), temp := tset s.lin.temp n {} } }

def chkLinRead (s : State) (r : Req) : Ans :=
  let n := rd r.p 0 2
  firstOf [(decide (511 < n), badAt 0)] (.reply 0 (linBytes n (linOf s n)))

/-! ### The spare in place of a channel (R337) -/

/-- Whether the spare of a bank delivers position k's index n (R337): from its first index until the channel's return. -/
def spareDelivers (s : State) (b k n : Nat) : Bool :=
  let x := bankSt s b
  (match x.deliver with | some (p, i) => p == k && decide (i ≤ n) | none => false) ||
  (match x.back with | some (p, i) => p == k && decide (n < i) && (match x.deliver with | none => true | some (q, _) => q != k) | none => false)

/-! ### Value outputs (R172 to R177) -/

def f01 : F64 := 0x3FB999999999999A
def f100k : F64 := 0x40F86A0000000000

/-- The phase increment of a frequency: round(f / 204.8 MHz × 2^48) (R173). -/
def voutInc (f : F64) : Nat :=
  match F64.toInt (F64.mul (F64.div f (F64.ofInt 204800000)) (F64.ofInt 281474976710656)) with
  | some v => v.toNat
  | none => 0

/-- The accumulator brought to ref `t`. -/
def voutSync (t : Nat) (v : Vout) : Vout :=
  if v.halted then { v with accAt := t }
  else { v with acc := v.acc + BitVec.ofNat 48 ((t - v.accAt) * voutInc v.f), accAt := t }

def voutActive (v : Vout) : Bool := !v.acc.msb

/-- The level of an output that is active or not (R172 polarity). -/
def voutLevel (c : VoutSet) (active : Bool) : Bool := active != c.actLow

/-- The law of R173 or R174 on a value in counts: the number, limited, and whether it was limited. A value that is no
number is open (log 12). -/
def voutLaw (c : VoutSet) (val : Int) (fr : F64) : F64 × Bool :=
  let raw := F64.add c.base (F64.mul c.k (F64.ofInt val))
  let raw := if F64.isNan raw then fr else raw
  let lo : F64 := if c.pwm then 0 else f01
  let hi : F64 := if c.pwm then F64.one else f100k
  let v := F64.clamp raw lo hi
  (v, F64.lt raw lo || F64.lt hi raw)

/-- The action on a `BAD` source in frequency mode (R176). A held frequency that is a limited one stays `CLAMPED` (R175). -/
def voutBadFreq (t : Nat) (c : VoutSet) (v : Vout) : Vout :=
  let v := { voutSync t v with onBad := true }
  match c.onBad, v.good with
  | 0, some g => { v with f := g.1, halted := false, clamped := g.2 }
  | 2, _ => { v with f := c.fault, halted := false, clamped := false }
  | _, _ => { v with halted := v.halted || voutActive v == false, clamped := false }

/-- A source's new word taken by an output at `t` (R175, R176). -/
def voutTake (fr : F64) (t : Nat) (w : SampleWord) (v : Vout) : Vout :=
  match v.cfg with
  | none => v
  | some c =>
    if wBad w then
      let v := { v with newest := some w, badCnt := v.badCnt + 1 }
      if c.pwm then v else voutBadFreq t c v
    else
      let r := voutLaw c (wVal w) fr
      if c.pwm then { v with newest := some w, good := some r }
      else { voutSync t v with newest := some w, f := r.1, good := some r, clamped := r.2, halted := false, onBad := false, running := true }

/-- An output ended at its inactive level (R177). -/
def voutEnd (v : Vout) : Vout :=
  { v with level := match v.cfg with | some c => voutLevel c false | none => false,
           running := false, stopping := false, high := 0, period := none, halted := true, clamped := false, onBad := false,
           cfg := none, next := none }

/-- A setting with another mode, carrier or source taken at `t`: the output is inactive until its first boundary (R177). A
frequency output whose source's newest word is known runs by it from there on; another waits for a word. -/
def voutSwitch (fr : F64) (c : VoutSet) (t : Nat) (v : Vout) : Vout :=
  let same := match v.cfg with | some b => b.slot == c.slot && b.eng == c.eng | none => false
  let w := if same then v.newest else none
  let v := { v with cfg := some c, next := none, level := voutLevel c false, period := none, high := 0, halted := true, newest := w,
                    f := 0, accAt := t, good := none, onBad := false, clamped := false, running := true, stopping := false }
  if c.pwm then { v with halted := false }
  else match w with
    | some w => if wBad w then voutBadFreq t c v else voutTake fr t w v
    | none => v

/-- A stop or a change that waits takes effect where no half-period is in progress any more (R177). -/
def voutRest (fr : F64) (t : Nat) (v : Vout) : Vout :=
  if !v.halted then v
  else if v.stopping then voutEnd v
  else match v.next with
    | some n => voutSwitch fr n t v
    | none => v

/-- A committed sample of a slot given to the outputs that follow it. -/
def voutFeed (slot : Nat) (raw eng : SampleWord) (t : Nat) (s : State) : State :=
  forN 32 s fun s o =>
    match (voutOf s o).cfg with
    | some c => if c.slot = slot && !fnOut s (fnVout o) then
        let fr := s.free
        fr.2.onVout o fun v => voutRest fr.1 t (voutTake fr.1 t (if c.eng then eng else raw) v) else s
    | none => s

/-- An output whose source is disabled or held in reset takes the action that is configured for it (R176). -/
def voutLose (t : Nat) (v : Vout) : Vout :=
  match v.cfg with
  | none => v
  | some c =>
    if c.pwm then (if (v.newest.map wBad).getD false then v else { v with newest := some badWord })
    else if v.onBad then v
    else voutRest 0 t (voutBadFreq t c v)

/-- VOUT_CARRIER_START (R174): a period begins at a multiple of P_c and latches its duty. -/
def execVoutCarrierStart (o : Fin 32) (t : Nat) (s : State) : Outc :=
  let s := s.at_ t
  let fr := s.free
  let v := voutOf s o.val
  -- a stop or a change that waits for the period in progress takes effect at its end
  let s := match v.cfg with
    | some c => if c.pwm && t % c.pc = 0 then
        (if v.stopping then s.onVout o.val voutEnd else match v.next with
          | some n => s.onVout o.val (voutSwitch fr.1 n t)
          | none => s) else s
    | none => s
  match (voutOf s o.val).cfg with
  | none => done s
  | some c =>
    if !c.pwm || c.pc = 0 || t % c.pc != 0 || fnOut s (fnVout o.val) then done s
    else
      let s := { s with freeCtr := fr.2.freeCtr }
      let v := voutOf s o.val
      let bad := match v.newest with | some w => wBad w | none => false
      let d : F64 × Bool := match v.newest with
        | none => (0, false)
        | some w =>
          if wBad w then (match c.onBad, v.good with | 0, some g => g | 2, _ => (c.fault, false) | _, _ => (0, false))
          else voutLaw c (wVal w) fr.1
      let high := match F64.toInt (F64.mul d.1 (F64.ofInt c.pc)) with | some h => h.toNat | none => 0
      done (s.onVout o.val fun v => { v with period := some t, high := high, f := d.1, clamped := d.2, onBad := bad, running := true,
                                                level := voutLevel c (decide (0 < high)) })

/-- VOUT_EDGE (R173, R174): the end of a pulse's active time, or a half-period of the square wave. -/
def execVoutEdge (o : Fin 32) (t : Nat) (s : State) : Outc :=
  let s := s.at_ t
  match (voutOf s o.val).cfg with
  | none => done s
  | some c =>
    if fnOut s (fnVout o.val) then done s
    else if c.pwm then
      match (voutOf s o.val).period with
      | some p => if p + (voutOf s o.val).high ≤ t && (voutOf s o.val).high < c.pc then done (s.onVout o.val fun v => { v with level := voutLevel c false }) else done s
      | none => done s
    else
      let before := voutActive (voutOf s o.val)
      let v := voutSync t (voutOf s o.val)
      let half := voutActive v != before
      let stopBad := v.onBad && (c.onBad = 1 || (c.onBad = 0 && v.good.isNone))
      if half && v.stopping then done (s.onVout o.val fun _ => voutEnd v)
      else match half, v.next with
        | true, some n => let fr := s.free; done (fr.2.onVout o.val fun _ => voutSwitch fr.1 n t v)
        | _, _ =>
          if half && stopBad then done (s.onVout o.val fun _ => { v with halted := true, level := voutLevel c false })
          else done (s.onVout o.val fun _ => { v with level := voutLevel c (voutActive v && !v.halted) })

def voutOfBytes (p : List Byte) : VoutSet :=
  { eng := rd p 1 1 == 1, slot := rd p 2 2, pwm := rd p 4 1 == 1, onBad := rd p 5 1, actLow := rd p 6 1 == 1, pc := rd p 8 4,
    base := rdF p 16, k := rdF p 24, fault := rdF p 32 }

def chkVoutSet (_s : State) (r : Req) : Ans :=
  let p := r.p
  let f := rdF p 32
  let pwm := rd p 4 1 == 1
  let okFault := if pwm then F64.le 0 f && F64.le f F64.one else F64.le f01 f && F64.le f f100k
  firstOf [(decide (31 < rd p 0 1), badAt 0), (decide (1 < rd p 1 1), badAt 1),
    (decide (607 < rd p 2 2) || (rd p 1 1 == 1 && decide (511 < rd p 2 2)), badAt 2), (decide (1 < rd p 4 1), badAt 4),
    (decide (2 < rd p 5 1), badAt 5), (decide (1 < rd p 6 1), badAt 6),
    (pwm && (decide (rd p 8 4 < 2048) || decide (204800 < rd p 8 4)), badAt 8), (!okFault, badAt 32)] (.stage .ok 0)

/-- A new setting of an output (R177). -/
def voutSet (fr : F64) (c : VoutSet) (t : Nat) (v : Vout) : Vout :=
  match v.cfg with
  | none => voutSwitch fr c t v
  | some b =>
    if b.pwm != c.pwm || (c.pwm && b.pc != c.pc) then
      let v := { v with next := some c, stopping := false }
      -- with no period in progress there is none to wait for
      if (b.pwm && v.period.isNone) || (!b.pwm && v.halted) then voutSwitch fr c t v else v
    else
      let same := b.slot == c.slot && b.eng == c.eng
      let v := { v with cfg := some c, stopping := false, next := none, good := none }
      match same, v.newest with
      | true, some w => if c.pwm then (if wBad w then v else { v with good := some (voutLaw c (wVal w) fr) })
          else if wBad w then voutBadFreq t c v else voutTake fr t w v
      | _, _ => { v with newest := none }

def chkVoutStop (_s : State) (r : Req) : Ans := firstOf [(decide (31 < rd r.p 0 1), badAt 0)] (.stage .ok 0)

/-- The effect of VOUT_STOP: the output ends after the period in progress (R177). -/
def appVoutStop (r : Req) (s : State) : State :=
  s.onVout (rd r.p 0 1) fun v => if v.cfg.isNone then v else if v.halted || (v.period.isNone && (v.cfg.map (·.pwm)).getD false) then voutEnd v else { v with stopping := true, next := none }

end Sys2Proof.Machine
end

