-- ==== Sys2Proof/Machine/Coder.lean ====
section
/-! DEFINITION. Cooper's coder (R263 to R270): sequences, segments of up to 32 words, the choice of predictor, Rice
parameter and flag mode, the bitstream, and the coded and stored-raw forms of a body. -/
namespace Sys2Proof.Machine

/-- A lane of words: `w` bits of value, and flags in a sample lane (R263). -/
structure Lane where
  sample : Bool
  words  : List (BitVec 32)
deriving DecidableEq, Repr

def laneW (sample : Bool) : Nat := if sample then 24 else 32
def laneVal (sample : Bool) (x : BitVec 32) : Nat := if sample then x.toNat / 256 else x.toNat
def laneFlag (x : BitVec 32) : Nat := x.toNat % 256

/-- The prediction of order p from the three words before, modulo 2^w (R264). -/
def predict (w p : Nat) (v1 v2 v3 : Nat) : Nat :=
  let m := 2 ^ w
  match p with
  | 0 => 0
  | 1 => v1 % m
  | 2 => (2 * v1 + (m - v2 % m)) % m
  | _ => (3 * v1 + 3 * (m - v2 % m) + v3) % m

/-- The residual mapped to an unsigned number (R264). -/
def zigzag (w v pred : Nat) : Nat :=
  let m := 2 ^ w
  let e := (v + (m - pred % m)) % m
  if e < m / 2 then 2 * e else 2 * (m - e) - 1

/-- The residuals of a segment of values, with the history before it. -/
def residuals (w p : Nat) : Nat → Nat → Nat → List Nat → List Nat
  | _, _, _, [] => []
  | v1, v2, v3, v :: vs => zigzag w v (predict w p v1 v2 v3) :: residuals w p v v1 v2 vs

/-- `n` bits of `v`, most significant first. -/
def bitsOf : Nat → Nat → List Bool
  | 0, _ => []
  | n + 1, v => bit v n :: bitsOf n v

/-- The code of one word (R265). -/
def riceBits (w k u : Nat) : List Bool :=
  let q := u / 2 ^ k
  if q < 24 then List.replicate q true ++ [false] ++ bitsOf k u else List.replicate 24 true ++ bitsOf w u

def riceLen (w k u : Nat) : Nat := let q := u / 2 ^ k; if q < 24 then q + 1 + k else 24 + w

def segLen (w k : Nat) (us : List Nat) : Nat := us.foldl (fun a u => a + riceLen w k u) 0

/-- The k with the fewest bits, the lowest among equals. -/
def bestK (w : Nat) (us : List Nat) : Nat × Nat :=
  (List.range w).foldl (fun b k => let l := segLen w k us; if l < b.2 then (k, l) else b) (0, segLen w 0 us)

/-- The p and k with the fewest bits; ties to the lower p, then the lower k (R266). -/
def bestPK (w v1 v2 v3 : Nat) (vs : List Nat) : Nat × Nat :=
  let r (p : Nat) : Nat × Nat := bestK w (residuals w p v1 v2 v3 vs)
  let pick := [1, 2, 3].foldl (fun (b : Nat × Nat × Nat) p => let x := r p; if x.2 < b.2.2 then (p, x.1, x.2) else b) (0, (r 0).1, (r 0).2)
  (pick.1, pick.2.1)

/-- The flag bits of a segment in flag mode 1: 0 for the flags of the word before, else 1 and the flags. -/
def flagBits : Nat → List Nat → List (List Bool)
  | _, [] => []
  | f, g :: gs => (if g = f then [false] else true :: bitsOf 8 g) :: flagBits g gs

/-- One segment coded, with the history before it. -/
def codeSeg (sample : Bool) (v1 v2 v3 f : Nat) (ws : List (BitVec 32)) : List Bool :=
  let w := laneW sample
  let vs := ws.map (laneVal sample)
  let pk := bestPK w v1 v2 v3 vs
  let us := residuals w pk.1 v1 v2 v3 vs
  let codes := us.map (riceBits w pk.2)
  let fs := ws.map laneFlag
  let mode1 := sample && !(fs.all (· == f))
  let head := bitsOf 2 pk.1 ++ bitsOf 5 pk.2 ++ (if sample then [mode1] else [])
  head ++ (if mode1 then (List.zipWith (· ++ ·) codes (flagBits f fs)).flatten else codes.flatten)

/-- A sequence coded segment by segment (R265). -/
def codeSeq (sample : Bool) : Nat → Nat → Nat → Nat → Nat → List (BitVec 32) → List Bool
  | 0, _, _, _, _, _ => []
  | fuel + 1, v1, v2, v3, f, ws =>
    match ws with
    | [] => []
    | _ =>
      let seg := ws.take 32
      let vs := (seg.map (laneVal sample)).reverse ++ [v1, v2, v3]
      codeSeg sample v1 v2 v3 f seg ++
        codeSeq sample fuel (vs.getD 0 0) (vs.getD 1 0) (vs.getD 2 0) ((seg.map laneFlag).getLastD f) (ws.drop 32)

/-- The words of sequence q of s in a layout (R269). -/
def seqWords (layout s q : Nat) (ws : List (BitVec 32)) : List (BitVec 32) :=
  let n := ws.length / s
  (List.range n).map fun j => ws.getD (if layout = 1 then q * n + j else j * s + q) 0

def seqSample (layout q : Nat) : Bool := match layout with | 1 => false | 2 => q == 0 | _ => true

/-- Bits packed into bytes from the most significant bit. -/
def packBits : Nat → List Bool → List Byte
  | 0, _ => []
  | fuel + 1, bs =>
    match bs with
    | [] => []
    | _ => BitVec.ofNat 8 ((padBits (bs.take 8)).foldl (fun a b => 2 * a + b2n b) 0) :: packBits fuel (bs.drop 8)
where
  padBits (x : List Bool) : List Bool := x ++ List.replicate (8 - x.length) false

/-- The bitstream of a body (R267): zero bits up to a multiple of 32. -/
def bitstream (layout s : Nat) (ws : List (BitVec 32)) : List Byte :=
  let bs := ((List.range s).map fun q =>
    let x := seqWords layout s q ws
    codeSeq (seqSample layout q) (x.length + 1) 0 0 0 0 x).flatten
  let bs := bs ++ List.replicate ((32 - bs.length % 32) % 32) false
  packBits bs.length bs

def wordsBytes (ws : List (BitVec 32)) : List Byte := (ws.map fun w => le 4 w.toNat).flatten

/-- The raw marker (R268). -/
def rawMarker (rawLen : Nat) : List Byte := le 2 0xC0C0 ++ le 1 1 ++ le 1 0 ++ le 4 rawLen

/-- The stored body of a coded block, and whether it is stored raw (R268, R270). -/
def codeBody (layout s : Nat) (ws : List (BitVec 32)) : List Byte × Bool :=
  let raw := wordsBytes ws
  let coded := le 2 0xC0C1 ++ le 1 1 ++ le 1 layout ++ le 4 raw.length ++ le 2 s ++ le 2 32 ++ le 4 (crc32 raw).toNat ++ bitstream layout s ws
  if coded.length ≤ raw.length then (coded, false) else (rawMarker raw.length ++ raw, true)

end Sys2Proof.Machine
end

