-- ==== Sys2Proof/Machine/Crypto.lean ====
section
/-! DEFINITION. SHA-256, HMAC-SHA-256 truncated to 16 bytes (R201, R223, R321, R443) and the check of an ECDSA P-256
signature (R454, R456, R458). The algorithms are those of FIPS 180-4, FIPS 198-1 and FIPS 186-4, which the spec names. -/
namespace Sys2Proof.Machine

def m32 : Nat := 4294967296

def rotr (n x : Nat) : Nat := (x / 2 ^ n + x * 2 ^ (32 - n)) % m32

/-- The round constants of SHA-256. -/
def shaK : List Nat :=
  [0x428a2f98, 0x71374491, 0xb5c0fbcf, 0xe9b5dba5, 0x3956c25b, 0x59f111f1, 0x923f82a4, 0xab1c5ed5,
   0xd807aa98, 0x12835b01, 0x243185be, 0x550c7dc3, 0x72be5d74, 0x80deb1fe, 0x9bdc06a7, 0xc19bf174] ++
  [0xe49b69c1, 0xefbe4786, 0x0fc19dc6, 0x240ca1cc, 0x2de92c6f, 0x4a7484aa, 0x5cb0a9dc, 0x76f988da,
   0x983e5152, 0xa831c66d, 0xb00327c8, 0xbf597fc7, 0xc6e00bf3, 0xd5a79147, 0x06ca6351, 0x14292967] ++
  [0x27b70a85, 0x2e1b2138, 0x4d2c6dfc, 0x53380d13, 0x650a7354, 0x766a0abb, 0x81c2c92e, 0x92722c85,
   0xa2bfe8a1, 0xa81a664b, 0xc24b8b70, 0xc76c51a3, 0xd192e819, 0xd6990624, 0xf40e3585, 0x106aa070] ++
  [0x19a4c116, 0x1e376c08, 0x2748774c, 0x34b0bcb5, 0x391c0cb3, 0x4ed8aa4a, 0x5b9cca4f, 0x682e6ff3,
   0x748f82ee, 0x78a5636f, 0x84c87814, 0x8cc70208, 0x90befffa, 0xa4506ceb, 0xbef9a3f7, 0xc67178f2]

def shaH0 : List Nat :=
  [0x6a09e667, 0xbb67ae85, 0x3c6ef372, 0xa54ff53a, 0x510e527f, 0x9b05688c, 0x1f83d9ab, 0x5be0cd19]

/-- The message schedule, newest word first; `n` further words are formed. -/
def shaSched : Nat → List Nat → List Nat
  | 0, w => w
  | n + 1, w =>
    let a := w.getD 14 0
    let b := w.getD 1 0
    let s0 := ((rotr 7 a).xor (rotr 18 a)).xor (a / 8)
    let s1 := ((rotr 17 b).xor (rotr 19 b)).xor (b / 1024)
    shaSched n ((s1 + w.getD 6 0 + s0 + w.getD 15 0) % m32 :: w)

structure ShaSt where
  a : Nat
  b : Nat
  c : Nat
  d : Nat
  e : Nat
  f : Nat
  g : Nat
  h : Nat

def shaRound (s : ShaSt) (kw : Nat × Nat) : ShaSt :=
  let s1 := ((rotr 6 s.e).xor (rotr 11 s.e)).xor (rotr 25 s.e)
  let ch := (s.e.land s.f).xor ((m32 - 1 - s.e).land s.g)
  let t1 := s.h + s1 + ch + kw.1 + kw.2
  let s0 := ((rotr 2 s.a).xor (rotr 13 s.a)).xor (rotr 22 s.a)
  let mj := ((s.a.land s.b).xor (s.a.land s.c)).xor (s.b.land s.c)
  { a := (t1 + s0 + mj) % m32, b := s.a, c := s.b, d := s.c, e := (s.d + t1) % m32, f := s.e, g := s.f, h := s.g }

def shaBlock (h : List Nat) (blk : List Byte) : List Nat :=
  let w := (List.range 16).map fun i => beNat ((blk.drop (4 * i)).take 4)
  let sch := (shaSched 48 w.reverse).reverse
  let g := fun i => h.getD i 0
  let s := (shaK.zip sch).foldl shaRound
    { a := g 0, b := g 1, c := g 2, d := g 3, e := g 4, f := g 5, g := g 6, h := g 7 }
  [g 0 + s.a, g 1 + s.b, g 2 + s.c, g 3 + s.d, g 4 + s.e, g 5 + s.f, g 6 + s.g, g 7 + s.h].map (· % m32)

def shaBlocks : Nat → List Byte → List Nat → List Nat
  | 0, _, h => h
  | n + 1, bs, h => shaBlocks n (bs.drop 64) (shaBlock h (bs.take 64))

/-- SHA-256, 32 bytes. -/
def sha256 (bs : List Byte) : List Byte :=
  let n := bs.length
  let padded := bs ++ [0x80] ++ zeros ((119 - n % 64) % 64) ++ be 8 (8 * n)
  (shaBlocks (padded.length / 64) padded shaH0).flatMap (be 4)

/-- HMAC-SHA-256 under a key of at most 64 bytes, its first 16 bytes: the `TAG` of every authenticated message. -/
def hmacTag (key msg : List Byte) : List Byte :=
  let k := padTo 64 key
  (sha256 (k.map (· ^^^ 0x5c) ++ sha256 (k.map (· ^^^ 0x36) ++ msg))).take 16

/-! ### ECDSA P-256 -/

def p256p : Nat := 0xffffffff00000001000000000000000000000000ffffffffffffffffffffffff
def p256n : Nat := 0xffffffff00000000ffffffffffffffffbce6faada7179e84f3b9cac2fc632551
def p256b : Nat := 0x5ac635d8aa3a93e7b3ebbd55769886bc651d06b0cc53b0f63bce3c3e27d2604b
def p256gx : Nat := 0x6b17d1f2e12c4247f8bce6e563a440f277037d812deb33a0f4a13945d898c296
def p256gy : Nat := 0x4fe342e2fe1a7f9b8ee7eb4a7c0f9e162bce33576b315ececbb6406837bf51f5

/-- x^e mod m, over `n` bits of e from the top. -/
def powModGo : Nat → Nat → Nat → Nat → Nat → Nat
  | 0, _, _, _, acc => acc
  | n + 1, x, e, m, acc =>
    let sq := acc * acc % m
    powModGo n x e m (if e / 2 ^ n % 2 = 1 then sq * x % m else sq)

def invMod (x m : Nat) : Nat := powModGo 256 (x % m) (m - 2) m 1

/-- A point of the curve; none is the point at infinity. -/
abbrev EcPt := Option (Nat × Nat)

def ecAdd (a b : EcPt) : EcPt :=
  match a, b with
  | none, q => q
  | p, none => p
  | some (x1, y1), some (x2, y2) =>
    if x1 = x2 ∧ (y1 + y2) % p256p = 0 then none
    else
      let l := if x1 = x2 then (3 * x1 * x1 + (p256p - 3)) * invMod (2 * y1) p256p % p256p
               else (y2 + (p256p - y1)) * invMod (x2 + (p256p - x1)) p256p % p256p
      let x3 := (l * l + 2 * p256p - x1 - x2) % p256p
      some (x3, (l * (x1 + (p256p - x3)) + (p256p - y1)) % p256p)

def ecMulGo : Nat → Nat → EcPt → EcPt → EcPt
  | 0, _, _, acc => acc
  | n + 1, k, q, acc =>
    let d := ecAdd acc acc
    ecMulGo n k q (if k / 2 ^ n % 2 = 1 then ecAdd d q else d)

def ecMul (k : Nat) (q : EcPt) : EcPt := ecMulGo 256 k q none

/-- The signature `sig` (r then s, big-endian) over `msg` verifies under the public key `pub` (x then y). -/
def ecdsaOk (pub sig msg : List Byte) : Bool :=
  let x := beNat (pub.take 32)
  let y := beNat ((pub.drop 32).take 32)
  let r := beNat (sig.take 32)
  let s := beNat ((sig.drop 32).take 32)
  let z := beNat (sha256 msg)
  let onCurve := decide (x < p256p) && decide (y < p256p) && (y * y % p256p == (x * x * x + (p256p - 3) * x + p256b) % p256p)
  onCurve && decide (0 < r) && decide (r < p256n) && decide (0 < s) && decide (s < p256n) &&
  (let w := invMod s p256n
   match ecAdd (ecMul (z * w % p256n) (some (p256gx, p256gy))) (ecMul (r * w % p256n) (some (x, y))) with
   | none => false
   | some (px, _) => px % p256n == r)

end Sys2Proof.Machine
end

