-- ==== Sys2Proof/Machine/Chandler.lean ====
section
/-! DEFINITION. Chandler (R113 to R160): tile-link words, rounds of FIR stages over every slot, cross-fades, and the
filter commands. -/
namespace Sys2Proof.Machine

/-! ### Which functions carry a slot (R19, R408) -/

/-- The lanes to which the slot sequencer's table gives a slot's work (R137). -/
def lanesOf (s : State) (n : Nat) : List Nat := (tget s.chd.lanes n []).map (·.1)

/-- The functions that carry a precision, spare or wideband slot's words, its Chandler lanes with them. -/
def slotFns (s : State) (n : Nat) : List Nat :=
  [n, fnBank (bankOf n), 0x270 + bankOf n / 4, fnChandler] ++ (lanesOf s n).map fun l => if s.chd.laneOut = some l then fnLane 48 else fnLane l

/-- Whether a slot's words are cut off by a function that is out. -/
def slotOut (s : State) (n : Nat) : Bool :=
  if isAux n then fnOut s n || fnOut s (fnAuxConv ((n - 544) / 16)) || fnOut s (0x270 + (n - 544) / 16) else (slotFns s n).any (fnOut s)

/-! ### TILE_LINK_WORD (R33, R35, R117) -/

def wordPos (w : BitVec 64) : Nat := bits w.toNat 63 58
def wordSeq (w : BitVec 64) : BitVec 8 := BitVec.ofNat 8 (bits w.toNat 57 50)
def wordVal (w : BitVec 64) : Int := sgn 24 (bits w.toNat 23 0)

/-- The front end of a word's position. -/
def wordFe (b : Nat) (w : BitVec 64) : Nat := if wordPos w = 32 then 512 + b else 32 * b + wordPos w

/-- `SEQ` checked on arrival (R117): a gap is a fault of the tile link. -/
def linkSeq (b : Nat) (w : BitVec 64) (s : State) : State :=
  let fe := wordFe b w
  let gap := match (chanOf s fe).seqIn with | some e => wordSeq w != e | none => false
  let s := s.onChan fe fun c => { c with seqIn := some (wordSeq w + 1) }
  if gap then s.onTile (b / 4) fun t => { t with linkFaults := t.linkFaults + 1 } else s

/-- TILE_LINK_WORD (R117): the word's `SEQ` is checked, and it enters the bank's CIC output buffer, 64 words deep, if the
data plane runs. -/
def execTileLinkWord (bank : Fin 16) (w : BitVec 64) (s : State) : Outc :=
  let b := bank.val
  if !s.pwr.plane || 32 < wordPos w then done s
  else
    let s := linkSeq b w s
    if 64 ≤ (bankSt s b).cicBuf.length then done (bufferFull 10 s)
    else
      let s := s.onBank b fun x => { x with cicBuf := x.cicBuf ++ [w] }
      done (monValue s 0xA (1 + b) ((bankSt s b).cicBuf.length))

/-! ### FIR stages (R142) -/

/-- Σ over the taps; tap 0 meets the newest value. -/
def firSum (coef : Nat → Int) : Nat → List Tap → Int
  | _, [] => 0
  | i, x :: xs => coef i * x.v + firSum coef (i + 1) xs

def wideMax : Int := 134217727

/-- A stage's output: shifted with rounding half up and saturated (R142). -/
def stageOut (coef : Nat → Int) (shift : Nat) (line : List Tap) : Tap :=
  let y := shrRound (firSum coef 0 line) shift
  { v := clampI y (-wideMax) wideMax, sat := line.any (·.sat) || decide (wideMax < y) || decide (y < -wideMax), miss := line.any (·.miss) }

/-- The coefficient of tap i of a stage (R144). -/
def stageCoef (c : Chandler) (bank : Nat) (d : BitVec 64) (i : Nat) : Int :=
  let j := if dSym d then min i (dTaps d - 1 - i) else i
  sgn 24 (coefOf c bank (dOfs d + j)).toNat

/-- One input through the stages: the new delay lines, and the final wide word where every stage has one at `te`. -/
def runStages (c : Chandler) (bank te : Nat) : Nat → List (BitVec 64) → List (List Tap) → Tap → List (List Tap) × Option Tap
  | _, [], _, x => ([], some x)
  | per, d :: ds, ls, x =>
    let line := (x :: ls.headD []).take (dTaps d)
    let p := per * dDecim d
    if p != 0 && te % p = 0 then
      let r := runStages c bank te p ds ls.tail (stageOut (stageCoef c bank d) (dShift d) line)
      (line :: r.1, r.2)
    else (line :: ls.tail, none)

/-- One CIC word through a chain at `te`: the chain, and its output's index and wide word (R141). -/
def runChain (c : Chandler) (te : Nat) (x : Tap) (ch : Chain) : Chain × Option (Nat × Tap) :=
  let r := runStages c ch.bank te 512 (chainOf c ch.bank ch.set ch.rate) ch.stages x
  let h := halfSpan c ch.bank ch.set ch.rate
  let n := te / rateRefs ch.rate
  ({ ch with stages := r.1 },
   match r.2 with
   | some w => if te % rateRefs ch.rate = 0 && h ≤ n && ch.lo ≤ (n - h) * rateRefs ch.rate
       && (match ch.hi with | none => true | some e => decide ((n - h) * rateRefs ch.rate < e)) then some (n - h, w) else none
   | none => none)

/-- Whether a stopped chain still has outputs to complete at `te`. -/
def chainLives (c : Chandler) (te : Nat) (ch : Chain) : Bool :=
  match ch.hi with
  | none => true
  | some e => decide (te < e + halfSpan c ch.bank ch.set ch.rate * rateRefs ch.rate)

/-! ### Cross-fade (R149, R153) -/

/-- w = w_old + (((w_new - w_old) × j) >> k) (R153). -/
def blend (k j : Nat) (o n : Tap) : Tap :=
  { v := o.v + shrFloor ((n.v - o.v) * j) k, sat := o.sat || n.sat, miss := o.miss || n.miss }

/-- The next output of a fade, where it is ready. -/
def fadeNext (f : Fade) : Option (Nat × Tap) :=
  let l := 2 ^ f.k
  let first : Option Nat := match f.nxt with | some n => some n | none => (f.oldQ.head?.map (·.1))
  match first with
  | none => none
  | some n =>
    let o := (f.oldQ.find? fun e => e.1 == n).map (·.2)
    let w := (f.newQ.find? fun e => e.1 == n).map (·.2)
    if n < f.np then o.map fun x => (n, x)
    else if n + 1 < f.np + l then
      match o, w with
      | some x, some y => some (n, blend f.k (n - f.np + 1) x y)
      | _, _ => none
    else w.map fun y => (n, y)

/-- Every output that is ready, in index order; `fuel` bounds their number. -/
def fadeDrain : Nat → Fade → Fade × List (Nat × Tap)
  | 0, f => (f, [])
  | fuel + 1, f =>
    match fadeNext f with
    | none => (f, [])
    | some (n, x) =>
      let f := { f with nxt := some (n + 1), oldQ := f.oldQ.filter (fun e => n < e.1), newQ := f.newQ.filter (fun e => n < e.1),
                        past := f.past || decide (f.np + 2 ^ f.k ≤ n + 2) }
      let r := fadeDrain fuel f
      (r.1, (n, x) :: r.2)

/-! ### The output word (R143, R181) -/

/-- The raw word of a finished output with its flags (R143). -/
def outWord (w : Tap) (fl : Nat) : SampleWord :=
  let fl := if w.sat then fl.lor fOvr else fl
  if fl.land fBad != 0 then badKeep fl else satWord (fdiv (w.v + 4) 8) fl

/-- The flags of an output of a front end with instant `t` (R50, R97, R101, R104). -/
def outFlags (s : State) (fe hr t : Nat) : Nat :=
  (winFlags (chanOf s fe).wins hr t).lor (if holdAt s.tb.holdLog t then fHold else 0)

/-- The half-span that bears on a slot's commit deadlines, in samples: of its chain, and the larger one while another
comes in (R152). -/
def slotHalf (s : State) (n : Nat) : Nat :=
  if isWb n then 16 else if isAux n then 0
  else
    let c := chanOf s n
    let own := halfSpan s.chd s.chd.active c.set c.rate
    let old := (c.chains.filter fun x => x.hi.isNone).foldl (fun a x => max a (halfSpan s.chd x.bank x.set x.rate)) 0
    max (max own old) (match c.fade with | some f => max f.half (halfSpan s.chd f.inc.bank f.inc.set f.inc.rate) | none => 0)

/-- Finished outputs put before the linearisation unit; `half` gives the half-span of each in samples: of the set that made
it, at its rate (R97, R122). -/
def emitOut (fe rate te : Nat) (half : Nat → Nat) (outs : List (Nat × Tap)) (s : State) : State :=
  let r := rateRefs rate
  forAll outs s fun s o =>
    if o.2.miss then s
    else s.onChd fun c =>
      { c with linQ := c.linQ ++ [{ fe, rate, n := o.1, raw := outWord o.2 (outFlags s fe (half o.1 * r) (o.1 * r)), endT := te }] }

/-- The half-span of a chain's outputs. -/
def Chain.half (c : Chandler) (ch : Chain) : Nat := halfSpan c ch.bank ch.set ch.rate

/-- The half-span of output n of a fade: that of the chain that delivers it; a blended output depends on both chains, and
takes the larger (DEDUCED, log 135). -/
def Fade.halfAt (c : Chandler) (f : Fade) (n : Nat) : Nat :=
  if n < f.np then f.half else if n + 1 < f.np + 2 ^ f.k then max f.half (f.inc.half c) else f.inc.half c

/-! ### CHANDLER_ROUND (R136 to R143) -/

/-- Whether a word's round has run: its `SEQ` lies behind the one that the next round takes. -/
def wordLate (next : Option (BitVec 8)) (w : BitVec 64) : Bool :=
  match next with | some e => decide (128 ≤ (wordSeq w - e).toNat) | none => false

/-- Whether a word is that of the next round: the count of its `SEQ` says so (R34, R117). The first word after the tile link
starts is. -/
def wordNow (next : Option (BitVec 8)) (w : BitVec 64) : Bool :=
  match next with | some e => wordSeq w == e | none => true

/-- The word of a front end for the next round, if it has come. A word that a gap has left behind waits for its own round. -/
def takeWord (s : State) (b fe : Nat) : Option (BitVec 64) :=
  (bankSt s b).cicBuf.find? fun w => wordFe b w == fe && wordNow (chanOf s fe).seqNext w

/-- A front end's word taken from its bank's buffer; words whose round has run leave it with it. A round that is started
before a word has come takes it as missing (DESIGN CHOICE, log 133: R136 starts no round then). -/
def takeFrom (b fe : Nat) (s : State) : State :=
  let w := takeWord s b fe
  let next := (chanOf s fe).seqNext
  if (bankSt s b).cicBuf.all (fun x => wordFe b x != fe) && next.isNone then s
  else
    let left (ws : List (BitVec 64)) : List (BitVec 64) :=
      (match w with | some w => ws.erase w | none => ws).filter fun x => wordFe b x != fe || !wordLate next x
    let s := s.onBank b fun x => { x with cicBuf := left x.cicBuf }
    match w with
    | some w => s.onChan fe fun c => { c with seqNext := some (wordSeq w + 1), linkBits := BitVec.ofNat 6 (bits w.toNat 45 40) }
    | none => s.onChan fe fun c => { c with seqNext := next.map (· + 1) }

/-- What a round gives a chain (R117): a word that is missing leaves a missing value. -/
def inputTap (w : Option (BitVec 64)) (out : Bool) : Tap :=
  match w with
  | none => { miss := true }
  | some w => { v := wordVal w, miss := out }

/-- The chains of a slot after a round, and their outputs. -/
def emitChains (fe te : Nat) (rs : List (Chain × Option (Nat × Tap))) (s : State) : State :=
  forAll rs s fun s r => match r.2 with | some o => emitOut fe r.1.rate te (fun _ => r.1.half s.chd) [o] s | none => s

/-- One precision or spare slot in a round. -/
def roundSlot (te fe : Nat) (s : State) : State :=
  let b := bankOf fe
  let c := chanOf s fe
  let live := c.chains.filter (chainLives s.chd te)
  let w := takeWord s b fe
  let s := takeFrom b fe s
  if live.isEmpty && c.fade.isNone then s
  else
    let x := inputTap w (slotOut s fe)
    let rs := live.map (runChain s.chd te x)
    match c.fade with
    | none => emitChains fe te rs (s.onChan fe fun c => { c with chains := rs.map (·.1) })
    | some f =>
      if f.past then emitChains fe te rs (s.onChan fe fun c => { c with chains := rs.map (·.1) })
      else
        let i := runChain s.chd te x f.inc
        let main := rs.filter fun r => r.1.hi.isNone
        let old := rs.filter fun r => r.1.hi.isSome
        let f := { f with inc := i.1,
                          oldQ := (main.filterMap (·.2)).foldl (fun q o => tset q o.1 o.2) f.oldQ,
                          newQ := match i.2 with | some o => tset f.newQ o.1 o.2 | none => f.newQ }
        let d := fadeDrain 1100 f
        -- once the blend is over the incoming chain alone runs on
        let chains := if d.1.past then old.map (·.1) ++ [{ d.1.inc with lo := match d.1.nxt with | some n => n * rateRefs c.rate | none => d.1.inc.lo }]
          else rs.map (·.1)
        let s := s.onChan fe fun c => { c with chains := chains, fade := some d.1 }
        emitOut fe c.rate te (f.halfAt s.chd) d.2 (emitChains fe te old s)

/-- The coefficients of the half-band's 63 taps: 32 side taps, and the centre tap of exactly ½ (R140). -/
def halfCoef (i : Nat) : Int :=
  if i = 31 then ((2 ^ (Config.halfBandShift % 48) / 2 : Nat) : Int)
  else if i % 2 = 0 then sgn 24 (Config.halfBandTap (min (i / 2) (31 - i / 2))).toNat else 0

/-- A SAR word enters its channel's buffer of 16; one that finds it full is discarded (R35). -/
def sarPush (ch : Nat) (s : State) (x : Nat × Int) : State :=
  if 16 ≤ (bankSt s ch).sarBuf.length then bufferFull 10 s else s.onBank ch fun b => { b with sarBuf := b.sarBuf ++ [x] }

/-- One hold of a wideband channel in a round: its SAR word, or a missing value where none has come, into the half-band,
which has an output at every second hold (R120, R140). The hold's period ends at `te` (R141). -/
def roundHold (fe te : Nat) (x : Option Int) (s : State) : State :=
  let c := chanOf s fe
  let t : Tap := match x with | some v => { v := v * 512, miss := slotOut s fe } | none => { miss := true }
  let line := (t :: (match c.chains.head? with | some ch => ch.stages.headD [] | none => [])).take 63
  let lives (ch : Chain) : Bool := match ch.hi with | none => true | some e => decide (te < e + 16 * 128)
  let s := s.onChan fe fun c => { c with chains := (c.chains.filter lives).map fun ch => { ch with stages := [line] } }
  let n := te / 128 - 16
  let inRange (ch : Chain) : Bool := decide (ch.lo ≤ n * 128) && (match ch.hi with | none => true | some e => decide (n * 128 < e))
  if te % 128 = 0 && 16 ≤ te / 128 && c.chains.any inRange then
    emitOut fe 15 te (fun _ => 16) [(n, stageOut halfCoef (Config.halfBandShift % 48) line)] s
  else s

/-- One wideband channel in a round: the SAR words that have come enter its buffer, and those of the round's eight holds
are taken. -/
def roundWide (te ch : Nat) (ws : List (Nat × Int)) (s : State) : State :=
  let fe := 528 + ch
  let s := forAll ws s (sarPush ch)
  if (bankSt s ch).sarBuf.isEmpty && (chanOf s fe).chains.isEmpty then s
  else
    let s := monValue s 0xA (17 + ch) (bankSt s ch).sarBuf.length
    let buf := (bankSt s ch).sarBuf
    let s := s.onBank ch fun b => { b with sarBuf := b.sarBuf.filter fun x => decide (te ≤ x.1 * 64) }
    if (chanOf s fe).chains.isEmpty then s
    else forN 8 s fun s j =>
      let k := te / 64 - 8 + j
      roundHold fe ((k + 1) * 64) ((buf.find? fun x => x.1 == k).map (·.2)) s

/-- CHANDLER_ROUND (R136, R138): slots 0 to 527 in ascending order, then the wideband slots. -/
def execChandlerRound (sar : List (Nat × List (Nat × Int))) (s : State) : Outc :=
  if !s.pwr.plane then done s
  else
    let r := s.chd.round + 1
    let te := r * 512
    let s := (s.onChd fun c => { c with round := r }).at_ te
    let s := forN 528 s fun s fe => roundSlot te fe s
    let s := forN 16 s fun s ch => roundWide te ch (tget sar ch []) s
    done (monValue s 0x2 0 ((s.now - te : Nat)))

/-! ### FILT_SET_DEFINE, FILT_COEF_WRITE, FILT_COEF_READ (R144 to R146, R154) -/

/-- A swap has been accepted and is not complete, or is deferred (R154). `stagedSwap` says whether one is staged. -/
def swapPending (stagedSwap : Bool) (s : State) : Bool := stagedSwap || s.chd.swap.isSome || s.chd.late.isSome || s.chd.deferred.isSome

/-- The descriptors of one part of FILT_SET_DEFINE. -/
def partDescs (p : List Byte) : List (BitVec 64) := (List.range (rd p 6 1)).map fun i => BitVec.ofNat 64 (rd p (8 + 8 * i) 8)

/-- Whether descriptor i of a host's set has its fields in range (R144, R145). -/
def descOk (i : Nat) (d : BitVec 64) : Bool := fieldsOk 8192 16384 (i == 0) d

def chkSetPart (k : Nat) (p : List Byte) : Ans :=
  let rate := rd p 5 1
  let all := partDescs p
  let ds := upToLast all
  let total := chainDecim ds
  firstOf ([(decide (rd p 4 1 < 4) || decide (7 < rd p 4 1), badPart k 4), (decide (11 < rate), badPart k 5),
    (decide (rd p 6 1 = 0) || decide (6 < rd p 6 1), badPart k 6),
    (decide (p.length ≠ 8 + 8 * rd p 6 1), .refuse .badArgument (65536 * k + 4)),
    (!(all.any dLast), badPart k 6)] ++
    (List.range all.length).map (fun i => (!descOk i (all.getD i 0), badPart k (8 + 8 * i))) ++
    [(decide (total ≠ rateDecim rate), badPart k 8),
     (decide (dSpan (ds.headD 0) * rateRefs rate < 2400 + chainSpanRefs 512 ds), badPart k 8),
     (decide (7500000 * total < chainCost total 1 ds), badPart k 8)]) (.reply 0 [])

def chkFiltSetDefine (stagedSwap : Bool) (s : State) (_r : Req) : Ans :=
  firstOf [(swapPending stagedSwap s, .refuse .busy 0)] (.stage .ok 0)

/-- The descriptors that a request sends are written; an entry that it does not send keeps its value. -/
def appFiltSetDefine (r : Req) (s : State) : State :=
  forAll r.parts s fun s p =>
    let ds := partDescs p
    let e0 := (1 - s.chd.active) * 576 + rd p 4 1 * 72 + rd p 5 1 * 6
    s.onChd fun c => { c with descs := (List.range ds.length).foldl (fun t i => tset t (e0 + i) (ds.getD i 0)) c.descs }

def chkFiltCoefWrite (stagedSwap : Bool) (s : State) (r : Req) : Ans :=
  let p := r.p
  firstOf [(decide (rd p 0 2 < 8192) || decide (16383 < rd p 0 2), badAt 0), (decide (rd p 2 1 = 0) || decide (64 < rd p 2 1), badAt 2),
    (decide (p.length ≠ 4 + 3 * rd p 2 1), .refuse .badArgument 4), (decide (16384 < rd p 0 2 + rd p 2 1), badAt 0),
    (swapPending stagedSwap s, .refuse .busy 0)] (.stage .ok 0)

def appFiltCoefWrite (r : Req) (s : State) : State :=
  let a := (1 - s.chd.active) * 16384 + rd r.p 0 2
  s.onChd fun c => { c with words := (List.range (rd r.p 2 1)).foldl (fun t i => tset t (a + i) (BitVec.ofNat 24 (rd r.p (4 + 3 * i) 3))) c.words }

def chkFiltCoefRead (s : State) (r : Req) : Ans :=
  let p := r.p
  let bank := if rd p 0 1 = 0 then s.chd.active else 1 - s.chd.active
  let words := rd p 1 1 == 0
  let n := rd p 4 1
  firstOf [(decide (1 < rd p 0 1), badAt 0), (decide (1 < rd p 1 1), badAt 1),
    (decide (n = 0) || decide ((if words then 64 else 28) < n), badAt 4),
    (decide ((if words then 16384 else 576) < rd p 2 2 + n), badAt 2)]
    (.reply 0 ((List.range n).map fun i =>
      if words then le 3 (coefOf s.chd bank (rd p 2 2 + i)).toNat else le 8 (descOf s.chd bank (rd p 2 2 + i)).toNat).flatten)

/-! ### FILT_SELECT (R119, R146, R154 to R157, R184, R213) -/

/-- The front ends that a select of a slot changes: the slot, and a spare beside it (R119, R158). -/
def selectFes (s : State) (slot : Nat) : List Nat :=
  slot :: (if isPrec slot && spareAt s (slot / 32) == some (slot % 32) then [512 + slot / 32] else [])

/-- Whether a select applied now would be sound: the spare at `PARKED`, the set defined in the active bank, and no rate
change of a slot that an enabled stream carries or an armed group uses. -/
def selectCheck (uses : State → Nat → Bool) (slot rate set : Nat) (s : State) : Ans :=
  firstOf [(isSpare slot && decide ((chanOf s slot).route ≠ .parked), .refuse .functionState (fnCode (fnState s slot))),
    (!chainDefined s.chd s.chd.active set rate, badAt 3),
    ((selectFes s slot).any (fun n => decide (rate ≠ (chanOf s n).rate) && (streamCarries s n || uses s n)), .refuse .functionState (fnCode (fnState s slot)))]
    (.stage .ok 0)

/-- Whether a set change runs on a slot: one that has started, not one that is staged (R156). -/
def fadeRuns (s : State) (n : Nat) : Bool := s.chd.swap.isNone && (chanOf s n).fade.any fun f => decide (f.since ≤ s.tb.tick)

def chkFiltSelect (uses : State → Nat → Bool) (stagedSwap : Bool) (s : State) (r : Req) : Ans :=
  let p := r.p
  let slot := rd p 0 2
  firstOf [(decide (527 < slot), badAt 0), (decide (11 < rd p 2 1), badAt 2), (decide (7 < rd p 3 1), badAt 3),
    (decide (10 < rd p 4 1), badAt 4),
    ((selectCheck uses slot (rd p 2 1) (rd p 3 1) s).refused, selectCheck uses slot (rd p 2 1) (rd p 3 1) s),
    (s.chd.held.any (fun h => h.slot == slot && decide (h.since ≤ s.tb.tick)), .refuse .busy 0),
    (fadeRuns s slot, .refuse .busy 0)]
    (if swapPending stagedSwap s then .act .deferred 0 else .stage .ok 0)

/-- A select that waits for the swaps before it (R154). -/
def holdSelect (slot rate set k tick : Nat) (o : Owed) (s : State) : State :=
  s.onChd fun c => { c with held := c.held ++ [{ slot, rate, set, k, tick, owed := o, since := s.tb.tick }] }

/-- A set or rate change of one front end at the present boundary (R155, R157). -/
def selectFe (fe rate set k : Nat) (s : State) : State :=
  let t := applyT s
  let c := chanOf s fe
  if rate != c.rate then
    s.onChan fe fun c =>
      let c := { c with rate := rate, set := set }
      if c.live then let c := startChain s t c; { c with wins := winAdd c.wins fSettle .start t 0 } else c
  else if set != c.set then
    s.onChan fe fun c =>
      let c := { c with set := set }
      if c.live then
        let old := (c.chains.filter fun x => x.hi.isNone).foldl (fun a x => max a (halfSpan s.chd x.bank x.set x.rate)) 0
        let f : Fade := { k, np := n0 s.tb.tick (rateRefs rate) + halfSpan s.chd s.chd.active set rate,
                          inc := { bank := s.chd.active, set := set, rate := rate, lo := t }, half := old, since := s.tb.tick }
        { c with fade := some f }
      else c
  else s

/-- The effect of a select. -/
def selectSlot (slot rate set k : Nat) (s : State) : State := forAll (selectFes s slot) s fun s n => selectFe n rate set k s

/-- Whether a select waits at the present boundary: a swap runs, waits or is deferred (R154), or a set change of its own
slot runs (log 40). -/
def selectWaits (s : State) (slot : Nat) : Bool := s.chd.swap.isSome || s.chd.late.isSome || s.chd.deferred.isSome || fadeRuns s slot

/-- A select comes to its tick: it applies, or waits behind a swap that runs or is deferred (R154). -/
def appFiltSelect (o : Owed) (r : Req) (s : State) : State :=
  let p := r.p
  if selectWaits s (rd p 0 2) then holdSelect (rd p 0 2) (rd p 2 1) (rd p 3 1) (rd p 4 1) r.tick o s
  else selectSlot (rd p 0 2) (rd p 2 1) (rd p 3 1) (rd p 4 1) s

/-- A held select applies at the present boundary, and completes (R154); one that has become unsound changes nothing. -/
def applyHeld (uses : State → Nat → Bool) (h : HeldSel) (s : State) : State :=
  if !chainDefined s.chd s.chd.active h.set h.rate then complete h.owed .mismatch 0 s.tb.tick s
  else if (selectCheck uses h.slot h.rate h.set s).refused then complete h.owed .functionState (fnCode (fnState s h.slot)) s.tb.tick s
  else complete h.owed .ok 0 s.tb.tick (selectSlot h.slot h.rate h.set h.k s)

/-- The held selects that may apply at the present boundary (R154). -/
def runHeld (uses : State → Nat → Bool) (s : State) : State :=
  forAll s.chd.held (s.onChd fun c => { c with held := [] }) fun s h =>
    if s.tb.tick < h.tick || selectWaits s h.slot then s.onChd fun c => { c with held := c.held ++ [h] } else applyHeld uses h s

/-! ### FILT_SWAP (R147 to R154, R156) -/

/-- The precision and spare slots whose chain runs: enabled ones, and the spares that run for a position (R149, R158). -/
def swapSlots (s : State) : List Nat := (List.range 528).filter fun n => (chanOf s n).live

/-- Whether every slot in use has its set defined in a bank (R148). -/
def allDefined (s : State) (bank : Nat) : Bool :=
  (List.range 528).all fun n => !(chanOf s n).running || chainDefined s.chd bank (chanOf s n).set (chanOf s n).rate

/-- Whether a set change runs (R156). -/
def setChangeRuns (s : State) : Bool := (swapSlots s).any (fadeRuns s)

/-- Set changes whose last blended output is committed are complete at a tick boundary (R150, R155). -/
def endFades (s : State) : State :=
  if s.chd.swap.isSome then s
  else
    let over_ := (s.fe.chan.filter fun e => match e.2.fade with | some f => f.done | none => false).map (·.1)
    forAll over_ s fun s n => s.onChan n fun c => { c with fade := none }

/-- Whether a swap runs, or is accepted and waits for its tick or for a set change. -/
def swapBefore (stagedSwap : Bool) (s : State) : Bool := stagedSwap || s.chd.swap.isSome || s.chd.late.isSome

def chkFiltSwap (stagedSwap : Bool) (s : State) (r : Req) : Ans :=
  let before := swapBefore stagedSwap s
  firstOf [(decide (10 < rd r.p 0 1), badAt 0), (s.chd.deferred.any (fun d => decide (d.since ≤ s.tb.tick)), .refuse .busy 0),
    (!before && !allDefined s (1 - s.chd.active), .refuse .mismatch 0)]
    (if before || setChangeRuns s then .act .deferred 0 else .stage .accepted 0)

/-- A swap starts at the present boundary (R149): every running slot is primed. One whose sets are no longer defined in the
shadow bank changes nothing and completes with `MISMATCH` (R148; log 110). -/
def startSwap (k : Nat) (o : Owed) (s : State) : State :=
  let inc := 1 - s.chd.active
  let t := applyT s
  if !allDefined s inc then complete o .mismatch 0 s.tb.tick s
  else
    let s := forAll (swapSlots s) s fun s n => s.onChan n fun c =>
      let f : Fade := { k, np := n0 s.tb.tick (rateRefs c.rate) + halfSpan s.chd inc c.set c.rate,
                        inc := { bank := inc, set := c.set, rate := c.rate, lo := t }, half := halfSpan s.chd s.chd.active c.set c.rate,
                        since := s.tb.tick }
      { c with fade := some f }
    s.onChd fun c => { c with swap := some { k, tick := s.tb.tick, owed := o, since := s.tb.tick } }

/-- A swap comes to its tick: it starts, or waits for a set change that runs. -/
def appFiltSwap (o : Owed) (r : Req) (s : State) : State :=
  if setChangeRuns s || s.chd.swap.isSome then s.onChd fun c => { c with late := some { k := rd r.p 0 1, tick := r.tick, owed := o, since := s.tb.tick } }
  else startSwap (rd r.p 0 1) o s

/-- Whether an accepted FILT_SWAP has not come to its tick. -/
def swapAhead (s : State) : Bool := s.mbx.staged.any fun g => g.opcode == 0x0410

/-- The waiting swaps, once no swap and no set change runs: first the one whose tick had come, then the deferred one when
its tick has come and no accepted one is before it (R154, R156). -/
def runDeferred (s : State) : State :=
  if s.chd.swap.isSome || setChangeRuns s then s
  else
    match s.chd.late with
    | some d => startSwap d.k d.owed (s.onChd fun c => { c with late := none })
    | none =>
      match s.chd.deferred with
      | some d => if d.tick ≤ s.tb.tick && !swapAhead s then startSwap d.k d.owed (s.onChd fun c => { c with deferred := none }) else s
      | none => s

/-- A slot's fade is over once its output n_p + L - 1 is committed. -/
def fadeDone (s : State) (n : Nat) : Bool := match (chanOf s n).fade with | some f => f.done | none => true

/-- FILT_SWAP_COMPLETE (R150): at a tick boundary, once every slot's blend is committed, the former shadow bank becomes
active. -/
def swapComplete (uses : State → Nat → Bool) (s : State) : State :=
  match s.chd.swap with
  | none => s
  | some w =>
    if s.now == s.tb.tick * tickRefs && (swapSlots s).all (fadeDone s) then
      let s := forAll (swapSlots s) s fun s n => s.onChan n fun c => { c with fade := none }
      let s := s.onChd fun c => { c with active := 1 - c.active, swap := none }
      runHeld uses (runDeferred (complete w.owed .ok 0 s.tb.tick s))
    else s

/-! ### The slot sequencer's table (R137) -/

/-- A lane's capacity: 92 % of 500 MAC per round, in thousandths of a MAC. -/
def laneCap : Nat := 460000

/-- The work of a chain, in thousandths of a MAC per round. -/
def chainWork (c : Chandler) (ch : Chain) : Nat :=
  let ds := chainOf c ch.bank ch.set ch.rate
  cdiv (chainCost (chainDecim ds) 1 ds) (400 * max 1 (chainDecim ds))

/-- The work of a slot: its open chains, and the chain that comes in; 32 taps at each of four outputs for a wideband one. -/
def slotWork (s : State) (n : Nat) : Nat :=
  let c := chanOf s n
  if !c.live then 0
  else if isWb n then 128000
  else ((c.chains.filter (·.hi.isNone)).foldl (fun a ch => a + chainWork s.chd ch) 0)
    + (match c.fade with | some f => if f.past then 0 else chainWork s.chd f.inc | none => 0)

def allWork (s : State) : List (Nat × Nat) := ((List.range 544).map fun n => (n, slotWork s n)).filter (0 < ·.2)

/-- The load of a lane in a table. -/
def laneLoad (t : List (Nat × List (Nat × Nat))) (l : Nat) : Nat :=
  t.foldl (fun a e => e.2.foldl (fun a p => if p.1 = l then a + p.2 else a) a) 0

/-- Whether a table assigns exactly the work, to lanes 0 to 47, and none beyond its capacity. -/
def tableOk (ws : List (Nat × Nat)) (t : List (Nat × List (Nat × Nat))) : Bool :=
  t.map (fun e => (e.1, e.2.foldl (fun a p => a + p.2) 0)) == ws && t.all (fun e => e.2.all fun p => decide (p.1 < 48))
  && (List.range 48).all fun l => decide (laneLoad t l ≤ laneCap)

/-- A table that fills lane after lane; the position is in thousandths of a MAC from the start of lane 0. -/
def fillLanes : Nat → List (Nat × Nat) → List (Nat × List (Nat × Nat))
  | _, [] => []
  | a, w :: ws =>
    let first := min w.2 (laneCap - a % laneCap)
    (w.1, (a / laneCap, first) :: (if first < w.2 then [(a / laneCap + 1, w.2 - first)] else [])) :: fillLanes (a + w.2) ws

/-- The table that the active Lamplighter computes for the work at hand: any that keeps the bounds of R137 (a free value; the
one that fills lane after lane where the constant keeps them not, log 136). -/
def laneTable (ctr : Nat) (ws : List (Nat × Nat)) : List (Nat × List (Nat × Nat)) :=
  let t := Config.laneTable ctr ws
  if tableOk ws t then t else fillLanes 0 ws

/-- The table recomputed by the active Lamplighter where a configuration change has changed the work. -/
def relane (s : State) : State :=
  let ws := allWork s
  if !s.pwr.fwUp || s.pwr.llTakeover || ws = s.chd.work then s
  else { s.onChd (fun c => { c with work := ws, lanes := laneTable s.freeCtr ws }) with freeCtr := s.freeCtr + 1 }

end Sys2Proof.Machine
end

