-- ==== Sys2Proof/Machine/Memory.lean ====
section
/-! DEFINITION. Record memory's regions, allocations and history (R243 to R247), with MEM_PLAN and HIST_DEFINE. -/
namespace Sys2Proof.Machine

/-! ### Regions and allocations (R243 to R245) -/

/-- Base and size of a planned region in KiB: 0 `REDUCTION`, 1 `HISTORY`, 2 `RETENTION`, 3 `RECORDS`, 4 `COOPER`. -/
def regionBase (plan : List Nat) (i : Nat) : Nat := 128 + (plan.take i).foldl (· + ·) 0
def regionSize (plan : List Nat) (i : Nat) : Nat := plan.getD i 0

/-- The allocations of a region, as (base, size) in KiB. -/
def allocs (s : State) (i : Nat) : List (Nat × Nat) :=
  match i with
  | 0 => ((s.str.red.map (·.extent)).filter fun e => e.2 != 0).eraseDups
  | 1 => s.rm.hist.map fun h => (h.base / 1024, h.size / 1024)
  | 2 => (s.str.s.filter fun e => e.2.retained).map fun e => (e.2.base / 1024, e.2.size / 1024)
  | 3 => (s.trg.grp.filter fun e => e.2.size != 0).map fun e => (e.2.base / 1024, e.2.size / 1024)
  | 4 => s.cop.map fun j => (j.base / 1024, cdiv j.size 1024)
  | _ => []

/-- A size rounded up to 64 KiB. -/
def round64 (k : Nat) : Nat := cdiv k 64 * 64

/-- Insertion of an allocation by its base. -/
def insAlloc (a : Nat × Nat) : List (Nat × Nat) → List (Nat × Nat)
  | [] => [a]
  | b :: t => if a.1 ≤ b.1 then a :: b :: t else b :: insAlloc a t

/-- The free extents between `lo` and `hi`, in order, for allocations in order. -/
def gaps (lo hi : Nat) : List (Nat × Nat) → List (Nat × Nat)
  | [] => if lo < hi then [(lo, hi - lo)] else []
  | a :: t => (if lo < a.1 then [(lo, a.1 - lo)] else []) ++ gaps (max lo (a.1 + a.2)) hi t

/-- First fit of `k` KiB in a region, given the allocations there: the base, or the largest free extent (R245). -/
def fitIn (plan : List Nat) (i k : Nat) (al : List (Nat × Nat)) : Except Nat Nat :=
  let lo := regionBase plan i
  let sorted := al.foldl (fun l a => insAlloc a l) []
  let gs := gaps lo (lo + regionSize plan i) sorted
  match gs.find? fun g => decide (round64 k ≤ g.2) with
  | some g => .ok g.1
  | none => .error (gs.foldl (fun m g => max m g.2) 0)

def fit (s : State) (i k : Nat) : Except Nat Nat := fitIn s.rm.plan i k (allocs s i)

/-! ### MEM_PLAN (R243, R244) -/

def planOf (p : List Byte) : List Nat := (List.range 5).map fun i => rd p (4 * i) 4

/-- Whether a plan is sound: multiples of 64 KiB, at most 65 408 KiB together. -/
def planOk (pl : List Nat) : Bool := pl.all (fun k => k % 64 == 0) && decide (pl.foldl (· + ·) 0 ≤ 65408)

def chkMemPlan (s : State) (r : Req) : Ans :=
  let pl := planOf r.p
  firstOf (((List.range 5).map fun i => (decide (pl.getD i 0 % 64 ≠ 0), badAt (4 * i))) ++
    [(decide (65408 < pl.foldl (· + ·) 0), badAt 16)] ++
    (List.range 5).map fun i => (decide (allocs s i ≠ []) && (decide (regionBase pl i ≠ regionBase s.rm.plan i)
      || decide (regionSize pl i ≠ regionSize s.rm.plan i)), .refuse .functionState 0)) (.stage .ok 0)

def appMemPlan (r : Req) (s : State) : State := s.onRm fun m => { m with plan := planOf r.p }

/-! ### History (R246, R247) -/

/-- The latency bound L of a slot (R160). -/
def latency (s : State) (n : Nat) : Nat := slotHalf s n * rateRefs (if isWb n then 15 else (chanOf s n).rate) + 6144

def histOf (s : State) (slot kind : Nat) : Option HistEntry := s.rm.hist.find? fun h => h.slot == slot && h.kind == kind

/-- The depth D of a slot's history in refs (R247); 0 without an entry. -/
def histDepth (s : State) (slot kind refs : Nat) : Nat :=
  match histOf s slot kind with
  | some h => h.depth * refs - latency s slot - 4096
  | none => 0

/-- Whether an armed group's record takes a slot's history of a kind. -/
def armedHist (s : State) (slot kind : Nat) : Bool :=
  s.trg.grp.any fun e => e.2.armed && e.2.cfg.slots.any fun r => r.slot == slot && r.dkind == kind

def chkHistDefine (s : State) (r : Req) : Ans :=
  let p := r.p
  let slot := rd p 0 2
  let kind := rd p 2 1
  let n := rd p 4 4
  let fresh := (histOf s slot kind).isNone
  firstOf [(decide (607 < slot), badAt 0), (decide (1 < kind) || (kind == 1 && decide (527 < slot)), badAt 2),
    (n != 0 && (decide (n < 256) || decide (16777216 < n) || n % 256 != 0), badAt 4),
    (armedHist s slot kind, .refuse .functionState 0),
    (n != 0 && fresh && decide (1024 ≤ s.rm.hist.length), .refuse .noSpace 0)]
    (if n = 0 then .stage .ok 0
     else match fit s 1 (cdiv (4 * n) 1024) with
       | .ok _ => .stage .ok 0
       | .error k => .refuse .noSpace k)

/-- The effect of HIST_DEFINE: the new ring is placed beside the old one, which is then freed (R246). -/
def appHistDefine (r : Req) (s : State) : State :=
  let slot := rd r.p 0 2
  let kind := rd r.p 2 1
  let n := rd r.p 4 4
  let keep := s.rm.hist.filter fun h => !(h.slot == slot && h.kind == kind)
  if n = 0 then s.onRm fun m => { m with hist := keep }
  else match fit s 1 (cdiv (4 * n) 1024) with
    | .ok b => s.onRm fun m => { m with hist := keep ++ [{ slot, kind, depth := n, base := b * 1024, size := round64 (cdiv (4 * n) 1024) * 1024 }] }
    | .error _ => s

/-- A committed sample kept in a slot's rings: index n lies at n mod N. With `fresh` it is the first at a new rate, and the ring
begins anew with it. -/
def histCommit (slot n : Nat) (fresh : Bool) (raw eng : SampleWord) (s : State) : State :=
  forAll (s.rm.hist.filter fun h => h.slot == slot) s fun s h =>
    let w := if h.kind = 1 then eng else raw
    let s := rmWrite s (h.base + 4 * (n % h.depth)) (le 4 w.toNat)
    s.onRm fun m => { m with hist := m.hist.map fun x => if x.slot == h.slot && x.kind == h.kind then { x with ring := ((n, w) :: (if fresh then [] else x.ring)).take x.depth } else x }

/-- The kept sample of an index; a poisoned word reads as 0x8000_0001 (R257). -/
def histWord (s : State) (h : HistEntry) (n : Nat) : Option SampleWord :=
  (h.ring.find? fun e => e.1 == n).map fun e =>
    if s.rm.poison.has ((h.base + 4 * (n % h.depth)) / 8 * 8) then badWord else e.2

end Sys2Proof.Machine
end

