-- ==== Sys2Proof/Machine/Streams.lean ====
section
/-! DEFINITION. Streams (R182 to R189, R198 to R204, R497): which outputs a stream delivers, its blocks and their
credits, the ledger bookings of its words, the blocks' headers and datagrams, acknowledgements, and the stream
commands. -/
namespace Sys2Proof.Machine

/-! ### A stream's shape (R182, R191) -/

/-- Words per channel of one output as they are stored. -/
def wpo (kind : Nat) : Nat :=
  match kind with | 2 => 3 | 4 => 1088 | 5 => 64 | 6 => 2 | _ => 1

def intervalKind (kind : Nat) : Bool := kind == 4 || kind == 5

def StreamDef.chans (c : StreamDef) : Nat := c.slots.length
def StreamDef.compressed (c : StreamDef) : Bool := bit c.opts 0
def StreamDef.payload (c : StreamDef) : Nat := if bit c.opts 1 then 8192 else 1408
def StreamDef.recordsOnly (c : StreamDef) : Bool := bit c.opts 2

/-- Refs between the outputs of a grid kind. -/
def outRefs (c : StreamDef) : Nat := rateRefs (if 1 ≤ c.kind ∧ c.kind ≤ 3 then c.target else c.rate)

/-- B = f / f_t (R191). -/
def ratio (c : StreamDef) : Nat := rateRefs c.target / rateRefs c.rate

/-- Where the body starts in a block's space: room for the raw marker in a compressed stream (R497). -/
def bodyOfs (c : StreamDef) : Nat := if c.compressed then 72 else 64

/-- Bytes of an uncompressed body of `n` outputs. -/
def bodyBytes (c : StreamDef) (n : Nat) : Nat := if c.kind = 6 then 8 * n else 4 * n * c.chans * wpo c.kind

/-- Credits of a block's assembly space (R183). -/
def blockCredits (c : StreamDef) (n : Nat) : Nat := cdiv (bodyOfs c + bodyBytes c n) 1024

/-- Outputs of the largest block: a stamped block holds at most one conversion per 200 refs of a tick and tile. -/
def maxOutputs (c : StreamDef) : Nat :=
  if c.kind = 6 then 5243 * ((c.slots.map fun n => (n - 544) / 16).eraseDups.length)
  else if intervalKind c.kind then 1 else c.block

/-! ### Which outputs a stream delivers (R185, R186, R195, R496) -/

/-- The first output at or after `m` that lies in no gap. -/
def skipGaps : List (Nat × Nat) → Nat → Nat
  | [], m => m
  | g :: t, m => skipGaps t (if g.1 ≤ m ∧ m < g.2 then g.2 else m)

/-- The first tick at or after `m` at which an interval kind may emit. -/
def nextTickOut (st : Stream) (m : Nat) : Nat :=
  let up := cdiv m st.cfg.block * st.cfg.block
  st.cutTicks.foldl (fun a c => if m ≤ c then min a c else a) up

def nextOutGo : Nat → Stream → Nat → Nat
  | 0, _, m => m
  | n + 1, st, m =>
    let m := skipGaps st.gaps m
    if intervalKind st.cfg.kind then
      let x := nextTickOut st m
      if skipGaps st.gaps x = x then x else nextOutGo n st x
    else m

/-- The first output at or after `m` that the stream delivers; outputs of kinds 4 and 5 are numbered by their tick. -/
def nextOut (st : Stream) (m : Nat) : Nat := nextOutGo (st.gaps.length + 2) st m

/-- Whether the stream delivers output `m`. -/
def expected (st : Stream) (m : Nat) : Bool :=
  nextOut st m == m && (match st.stopAt with | some e => decide (m < e) | none => true)

/-- The first output of an enable, or the first not delivered after a disable, at tick `n`. -/
def outAt (c : StreamDef) (n : Nat) : Nat := if intervalKind c.kind then n + 1 else n0 n (outRefs c)

/-- The last input of output `m` (R191). -/
def lastInput (c : StreamDef) (m : Nat) : Nat :=
  match c.kind with
  | 0 => m
  | 1 => m * ratio c
  | 2 => m * ratio c + ratio c - 1
  | 3 => m * ratio c + ratio c - 1
  | _ => n0 m (rateRefs c.rate) - 1

/-- Whether a definition uses the record of an instance at one input rate. The identity of an instance (R190) has no
input rate: `sameInst`; its records at several rates share its cells, and at most one of them runs (R184, R185). -/
def usesInst (c : StreamDef) (r : RedInst) : Bool :=
  c.kind == r.kind && c.skind == r.skind && c.rate == r.rate && c.slots.contains r.slot && c.target == r.target
    && (!intervalKind c.kind || (c.block == r.period && c.pars == r.pars))

/-- The first input of the interval that ends, or is cut, at tick `m`. -/
def firstInput (c : StreamDef) (m : Nat) : Nat := n0 ((m - 1) / c.block * c.block) (rateRefs c.rate)

/-- The instant that labels output `m` (R191). -/
def outT (c : StreamDef) (m : Nat) : Nat := if intervalKind c.kind then firstInput c m * rateRefs c.rate else m * outRefs c

/-- What a records-only stream adds to its deadlines: the group's pre-trigger window and 2 ms (R188). -/
def roExtra (s : State) (c : StreamDef) : Nat := if c.recordsOnly then (grpOf s c.roGroup).cfg.tPre + 409600 else 0

/-- The commit deadline of output `m` of a slot (R17, R160, R188). -/
def deadline (s : State) (c : StreamDef) (m slot : Nat) : Nat :=
  lastInput c m * rateRefs c.rate + latency s slot + roExtra s c

/-- The channel number of a slot in a set. -/
def chanIdx (c : StreamDef) (slot : Nat) : Option Nat := c.slots.findIdx? (· == slot)

/-! ### Counters (R16, R19) -/

def Stream.book (st : Stream) (f : Counters → Counters) : Stream := { st with cnt := f st.cnt }

def Stream.bump (st : Stream) (cause n : Nat) : Stream :=
  { st with cause := tset st.cause cause (tget st.cause cause 0 + BitVec.ofNat 32 n) }

/-- D and F bookings with their causes: 0 `HOST_RESET`, 1 `HOST_DISABLE`, 2 `STREAM_RELEASE`, 3 `OUTSIDE_RECORD`,
4 `RETENTION`; 5 `UNCORRECTABLE`, 6 `POWER`, 7 `LATE`. -/
def Stream.bookD (st : Stream) (cause n : Nat) : Stream := (st.book fun k => { k with d := k.d + BitVec.ofNat 64 n }).bump cause n
def Stream.bookF (st : Stream) (cause n : Nat) : Stream := (st.book fun k => { k with f := k.f + BitVec.ofNat 64 n }).bump cause n

/-- `n` words whose commit deadline passes (R17). -/
def Stream.bookP (st : Stream) (n : Nat) : Stream := st.book fun k => { k with p := k.p + BitVec.ofNat 64 n }

/-! ### Credits and addresses (R22, R497) -/

/-- Byte `o` of a block's space, in record memory. -/
def credAddr (st : Stream) (creds : List Nat) (o : Nat) : Nat := st.base + creds.getD (o / 1024) 0 * 1024 + o % 1024

/-- Bytes stored into a block's space, in pieces that end at each credit. -/
def blockStoreGo : Nat → Stream → List Nat → Nat → List Byte → State → State
  | 0, _, _, _, _, s => s
  | fuel + 1, st, creds, o, bs, s =>
    match bs with
    | [] => s
    | _ =>
      let n := 1024 - o % 1024
      blockStoreGo fuel st creds (o + n) (bs.drop n) (rmWrite s (credAddr st creds o) (bs.take n))

def blockStore (st : Stream) (creds : List Nat) (o : Nat) (bs : List Byte) (s : State) : State :=
  blockStoreGo (bs.length + 1) st creds o bs s

/-- The credits in use. -/
def usedCreds (st : Stream) : List Nat := ((st.asm ++ st.blocks).map (·.creds)).flatten

/-- `n` free credits, the lowest numbers first. -/
def freeCreds (st : Stream) (n : Nat) : List Nat :=
  let used := usedCreds st
  ((List.range st.pool.cap).filter fun k => !used.contains k).take n

def Stream.takeC (st : Stream) (n : Nat) : Stream := { st with pool := { st.pool with free := st.pool.free - n, held := st.pool.held + n } }
def Stream.giveC (st : Stream) (n : Nat) : Stream := { st with pool := { st.pool with free := st.pool.free + n, held := st.pool.held - n } }

/-! ### Datagrams (R200, R204) -/

/-- The address to which a role's stream datagrams go (R442); none where none is known, or it is not on-link (R432). -/
def roleAddr (s : State) (r : Nat) : Option (BitVec 128) :=
  let c := collOf s r
  (if c.cfg.addr != 0 then some c.cfg.addr else if c.lastSrc != 0 then some c.lastSrc else none).filter (onLink s)

/-- The roles that a stream is sent to. -/
def destRoles (c : StreamDef) : List Nat := [0, 1].filter (bit c.dest)

/-- The hub's own number as headers carry it: station × 2 + hub index. -/
def hubNo (s : State) : Nat := s.pwr.hub.toNat

def avgHeader (s : State) (type stream dflags seq ofs len : Nat) : List Byte :=
  le 1 type ++ le 1 4 ++ le 1 stream ++ le 1 dflags ++ le 4 seq ++ le 4 ofs ++ le 2 len ++ le 2 (hubNo s)

/-- The DATA datagrams of a block's bytes, in offset order. -/
def dataDgrams : Nat → State → Nat → Nat → Bool → Nat → Nat → List Byte → List (List Byte)
  | 0, _, _, _, _, _, _, _ => []
  | fuel + 1, s, i, seq, re, pay, o, bs =>
    let chunk := bs.take pay
    let rest := bs.drop pay
    let last := rest.isEmpty
    (avgHeader s 1 i (b2n re + 2 * b2n last) seq o chunk.length ++ chunk) ::
      (if last then [] else dataDgrams fuel s i seq re pay (o + pay) rest)

/-- A block sent to a role, or sent again. -/
def sendBlock (i r : Nat) (re : Bool) (b : Block) (s : State) : State :=
  let st := strOf s i
  match roleAddr s r with
  | none => s
  | some a => forAll (dataDgrams (b.bytes.length + 1) s i b.seq.toNat re st.cfg.payload 0 b.bytes) s fun s d => s.send (dataMsg s a st.cfg.port d)

/-- A GONE datagram to each destination that had not acknowledged a block (R204). -/
def sendGone (i : Nat) (b : Block) (s : State) : State :=
  let st := strOf s i
  forAll (destRoles st.cfg) s fun s r =>
    if (tget b.dst r {}).acked then s
    else match roleAddr s r with
      | none => s
      | some a => s.send (.udp a st.cfg.port 4
          (avgHeader s 3 i 0 b.seq.toNat b.seq.toNat 16 ++ le 8 b.fidx ++ le 8 b.body.length))

/-! ### Blocks leaving the retention (R19, R20, R186, R202) -/

/-- A word of a freed block booked: released, or dropped or lost with a cause. Words before their deadline are noted
for it. -/
def freeWord (gone : Option (Nat × Bool)) (c : StreamDef) (b : Block) (st : Stream) (j : Nat) (w : Word32) : Stream :=
  let per := c.chans * wpo c.kind
  let m := b.first + j / per
  let ch := j % per / wpo c.kind
  match w.st, gone with
  | .inM, none => st.book fun k => { k with m := k.m - 1, a := k.a + 1 }
  | .inM, some (cz, true) => (st.book fun k => { k with m := k.m - 1 }).bookF cz 1
  | .inM, some (cz, false) => (st.book fun k => { k with m := k.m - 1 }).bookD cz 1
  | .early, none => { st with earlyGone := (m, ch, none, false) :: st.earlyGone }
  | .early, some (cz, f) => { st with earlyGone := (m, ch, some cz, f) :: st.earlyGone }
  | .absent, some (cz, f) => { st with earlyGone := (m, ch, some cz, f) :: st.earlyGone }
  | .dueF cz, _ => { st with earlyGone := (m, ch, some cz, true) :: st.earlyGone }
  | .dueD cz, _ => { st with earlyGone := (m, ch, some cz, false) :: st.earlyGone }
  | _, _ => st

/-- The words of a block, in order, given to a function with their numbers. -/
def foldWords (f : Stream → Nat → Word32 → Stream) (b : Block) (st : Stream) : Stream :=
  (b.body.foldl (fun (a : Stream × Nat) w => (f a.1 a.2 w, a.2 + 1)) (st, 0)).1

/-- A stamped entry of a freed block, by the same rule: entries are named by their stamp and channel. -/
def freeEntry (gone : Option (Nat × Bool)) (c : StreamDef) (b : Block) (st : Stream) (j : Nat) (w : Word32) : Stream :=
  let x := b.stamps.getD j (0, 0)
  freeWord gone { c with slots := [0], kind := 0 } { b with first := x.1, count := 1 } st 0 w

/-- Whole microseconds of a length of time in refs. -/
def refUs (t : Nat) : Nat := t * 5 / 1024

/-- A block freed: its words booked, its credits returned. `gone` is the cause and whether it is F. A monitor may watch the time
from its close (R417), in whole microseconds (log 156). -/
def dropBlock (i : Nat) (gone : Option (Nat × Bool)) (b : Block) (s : State) : State :=
  let s := s.onStr i fun st =>
    let st := { st with blocks := st.blocks.filter (· != b), asm := st.asm.filter (· != b) }
    let st := foldWords ((if st.cfg.kind = 6 then freeEntry else freeWord) gone st.cfg b) b st
    st.giveC b.creds.length
  if b.closed then monValue s 0x8 i (refUs (s.now - b.closeAt) : Nat) else s

/-- The retention of a disabled stream released once its last block is freed (R186). -/
def autoRelease (i : Nat) (s : State) : State :=
  let st := strOf s i
  if st.retained && !st.enabled && st.asm.isEmpty && st.blocks.isEmpty && st.held.isEmpty
      && (match st.stopAt with | some e => decide (e ≤ nextOut st st.nextM) || st.cfg.kind == 6 | none => false) then
    s.onStr i fun st => { st with retained := false }
  else s

/-- The oldest closed block overwritten under `RETENTION` (R19, R204); `keep` is one that may not be. -/
def overwriteOldest (i : Nat) (keep : Option (BitVec 32)) (s : State) : Option State :=
  match (strOf s i).blocks.find? fun b => some b.seq != keep with
  | none => none
  | some b => some (dropBlock i (some (4, false)) b (sendGone i b s))

/-- Closed blocks overwritten until the free count covers `n` (R497). -/
def makeRoom : Nat → Nat → Option (BitVec 32) → Nat → State → State
  | 0, _, _, _, s => s
  | fuel + 1, i, keep, n, s =>
    if n ≤ (strOf s i).pool.free then s
    else match overwriteOldest i keep s with
      | some s => makeRoom fuel i keep n s
      | none => s

/-! ### Headers and stored bytes (R198, R199, R377) -/

/-- Payload bytes 4 to 47 of part 0 with the defaults filled in (R376, R377). -/
def defFixed (i : Nat) (c : StreamDef) : List Byte :=
  le 1 i ++ le 1 c.kind ++ le 1 c.rate ++ le 1 c.skind ++ le 2 c.chans ++ le 1 c.dest ++ le 1 c.opts ++ le 1 c.roGroup ++ le 1 c.target
    ++ le 2 c.port ++ le 4 c.block ++ le 4 c.retain ++ le 2 c.rto ++ zeros 2 ++ (c.pars.map (leI 4)).flatten ++ zeros 4

def defCrc (i : Nat) (c : StreamDef) : BitVec 32 := crc32 (defFixed i c ++ (c.slots.map (le 2)).flatten)

/-- Whether a word of a block carries `HOLD`: for a rainflow emission, in its status word. -/
def bodyHold (c : StreamDef) (b : Block) : Bool :=
  match c.kind with
  | 4 => (List.range c.chans).any fun k => wHas ((b.body.getD (k * 1088 + 1024) {}).w) fHold
  | 5 => false
  | _ => b.body.any fun w => wHas w.w fHold

def blockHeader (s : State) (i : Nat) (b : Block) (raw : Bool) (len : Nat) : List Byte :=
  let c := (strOf s i).cfg
  let fl := 128 * b2n b.snap.brk + 64 * b2n (c.skind == 1) + 32 * b2n b.partial_ + 16 * b2n b.restart + 4 * b2n (c.compressed && raw)
    + 2 * b2n c.compressed + b2n (bodyHold c b)
  le 1 4 ++ le 1 i ++ le 1 (if 1 ≤ c.kind ∧ c.kind ≤ 3 then c.target else c.rate) ++ le 1 c.kind ++ le 4 b.seq.toNat ++ le 8 b.fidx
    ++ le 6 (secOf b.firstT) ++ le 2 c.chans ++ le 4 (nsOf b.firstT) ++ le 2 fl ++ le 2 (hubNo s) ++ le 4 len ++ le 4 (defCrc i c).toNat
    ++ le 4 b.snap.tick ++ le 8 b.snap.p ++ le 4 b.snap.d ++ le 4 b.snap.f ++ zeros 4

/-- Word 1 of a stamped entry (R197). -/
def stampWord (b : Block) (x : Nat × Nat) : BitVec 32 := BitVec.ofNat 32 ((x.2 - 544) * 2 ^ 26 + (x.1 - b.firstT) % 2 ^ 20)

/-- The words of a body as they are stored. -/
def bodyWords (c : StreamDef) (b : Block) : List (BitVec 32) :=
  if c.kind = 6 then (List.zipWith (fun w x => [w.w, stampWord b x]) b.body b.stamps).flatten else b.body.map (·.w)

/-- A closed block stored uncompressed or raw in its assembly space; spare credits return (R199, R271, R273). -/
def storeRaw (i : Nat) (b : Block) (s : State) : State :=
  let st := strOf s i
  let c := st.cfg
  let raw := wordsBytes (bodyWords c b)
  let len := raw.length + (if c.compressed then 8 else 0)
  let head := blockHeader s i b true len ++ (if c.compressed then rawMarker raw.length else [])
  let n := cdiv (64 + len) 1024
  let nb := { b with coded := true, bytes := head ++ raw, creds := b.creds.take n }
  let s := blockStore st b.creds 0 head s
  s.onStr i fun st => { st.giveC (b.creds.length - n) with blocks := st.blocks.map fun x => if x == b then nb else x }

/-- Whether Cooper codes nothing (R273). -/
def cooperOut (s : State) : Bool := fnIdle s fnCooper || decide (fnState s fnCooper = .renewing)

/-! ### Opening, filling and closing blocks (R185, R186, R188, R497) -/

def wordSet (w : Word32) : Bool := w.st != .absent

/-- The number of an output's first word of a channel in a body. -/
def wordIdx (c : StreamDef) (b : Block) (m ch : Nat) : Nat := ((m - b.first) * c.chans + ch) * wpo c.kind

def Block.covers (b : Block) (m : Nat) : Bool := decide (b.first ≤ m) && decide (m < b.first + b.count)

/-- The end of the block that covers output `m` of a grid kind: the next multiple of B_blk, or where the run ends. -/
def blockEnd (st : Stream) (m : Nat) : Nat :=
  if intervalKind st.cfg.kind then m + 1
  else
    let e := (m / st.cfg.block + 1) * st.cfg.block
    let e := st.gaps.foldl (fun a g => if m < g.1 then min a g.1 else a) e
    match st.stopAt with | some x => if m < x then min e x else e | none => e

/-- The first input of an emission at tick `m` (R198): of its interval, or of its earliest instance's start within it. -/
def emissionFirst (s : State) (c : StreamDef) (m : Nat) : Nat :=
  let starts := (s.str.red.filter (usesInst c)).filterMap fun r =>
    (r.runs.find? fun x => decide (x.1 < m) && (match x.2 with | some e => decide (m ≤ e) | none => true)).map (·.1)
  max (firstInput c m) (n0 (starts.foldl min (starts.headD 0)) (rateRefs c.rate))

/-- The body of a block that opens: a word whose deadline has passed already was booked F there (R17). -/
def freshBody (st : Stream) (m cnt : Nat) : List Word32 :=
  let per := st.cfg.chans * wpo st.cfg.kind
  (List.range (cnt * per)).map fun j =>
    if m + j / per < st.due.getD (j % per / wpo st.cfg.kind) 0 then { w := badWord, st := .inF } else {}

/-- A block opened at output `m`, with all its credits (R497). A records-only block grows as outputs are kept. Where
blocks in assembly alone hold the pool, no block opens yet, and a word that is missing at its deadline is `LATE` (R17;
log 129). -/
def openBlock (i m : Nat) (s : State) : State :=
  let st := strOf s i
  let c := st.cfg
  let e := blockEnd st m
  let n := blockCredits c (e - m)
  let s := makeRoom (st.blocks.length + 1) i none n s
  if (strOf s i).pool.free < n then s
  else
    s.onStr i fun st =>
      let cnt := if c.recordsOnly then 1 else e - m
      let started := st.partOuts.find? fun x => x.1 == m
      let fi := if intervalKind c.kind then (match started with | some x => x.2 | none => emissionFirst s c m) else m
      let short := if intervalKind c.kind then m % c.block != 0 || started.isSome else cnt != c.block
      let b : Block := { seq := 0, first := m, count := cnt, fidx := fi,
                         firstT := if intervalKind c.kind then fi * rateRefs c.rate else outT c m, body := freshBody st m cnt,
                         partial_ := short, fixed := !c.recordsOnly, creds := freeCreds st n }
      { st.takeC n with asm := st.asm ++ [b], nextM := nextOut st (m + cnt) }

/-- Blocks opened up to the one that covers output `m`. -/
def openTo : Nat → Nat → Nat → State → State
  | 0, _, _, s => s
  | fuel + 1, i, m, s =>
    let x := nextOut (strOf s i) (strOf s i).nextM
    if x ≤ m && expected (strOf s i) x then openTo fuel i m (openBlock i x s) else s

/-- The ledger snapshot of the last completed check (R26). -/
def snapOf (s : State) (i : Nat) : BlockSnap :=
  let x := tget s.str.snap i {}
  { tick := s.str.checkTick, p := x.cnt.p.toNat, d := x.cnt.d.toNat, f := x.cnt.f.toNat, brk := x.brk }

/-- A block closed: it takes its sequence number and snapshot; Cooper is to code it where compression is on. -/
def closeBlock (i : Nat) (b : Block) (s : State) : State :=
  let st := strOf s i
  let nb := { b with seq := st.nextSeq, restart := st.restarted, closed := true, snap := snapOf s i, closeAt := s.now,
                     fidx := if st.cfg.kind = 6 then st.entries else b.fidx }
  let s := s.onStr i fun st =>
    { st with asm := st.asm.filter (· != b), blocks := st.blocks ++ [nb], nextSeq := st.nextSeq + 1, restarted := false, closedAny := true,
              entries := if st.cfg.kind = 6 then st.entries + nb.body.length else st.entries }
  if st.cfg.compressed && !cooperOut s then s else storeRaw i nb s

/-- Complete blocks closed in order, and the next block opened (R185). -/
def closeReady : Nat → Nat → State → State
  | 0, _, s => s
  | fuel + 1, i, s =>
    let st := strOf s i
    match st.asm with
    | b :: _ =>
      if b.fixed && b.body.all wordSet then
        let s := closeBlock i b s
        let st := strOf s i
        let x := nextOut st st.nextM
        closeReady fuel i (if st.asm.isEmpty && !st.cfg.recordsOnly && expected st x then openBlock i x s else s)
      else s
    | [] => s

def closeAll (i : Nat) (s : State) : State := closeReady ((strOf s i).asm.length + 2) i s

/-- `n` words from place `o` changed. -/
def onWords (body : List Word32) (o n : Nat) (f : Nat → Word32 → Word32) : List Word32 :=
  body.take o ++ (List.zipWith f (List.range n) ((body.drop o).take n)) ++ body.drop (o + n)

/-- Whether a write of the bytes [lo, hi) leaves the memory word of address `a` poisoned (R256). -/
def staysPoisoned (s : State) (a lo hi : Nat) : Bool :=
  let w := a / 8 * 8
  s.rm.poison.has w && !(decide (lo ≤ w) && decide (w + 8 ≤ hi))

/-- A word that reaches its place; one that shares a poisoned memory word is lost with it (R256, R257). -/
def Word32.arrive (x : BitVec 32) (poisoned : Bool) (w : Word32) : Word32 :=
  if w.st != .absent then w else if poisoned then { w := badWord, st := .dueF 5 } else { w := x, st := .early }

/-- An output's words of a channel that arrive in the block that covers it, and are written to its space. -/
def setOutput (i m ch : Nat) (ws : List (BitVec 32)) (s : State) : State :=
  let st := strOf s i
  match st.asm.find? fun b => b.covers m with
  | none => s
  | some b =>
    let o := wordIdx st.cfg b m ch
    let a (j : Nat) : Nat := credAddr st b.creds (bodyOfs st.cfg + 4 * (o + j))
    let lost (j : Nat) : Bool := staysPoisoned s (a j) (a 0) (a 0 + 4 * wpo st.cfg.kind)
    let nb := { b with body := onWords b.body o (wpo st.cfg.kind) fun j w => w.arrive (ws.getD j badWord) (lost j) }
    let s := s.onStr i fun st => { st with asm := st.asm.map fun x => if x == b then nb else x }
    blockStore st b.creds (bodyOfs st.cfg + 4 * o) (wordsBytes (((nb.body.drop o).take (wpo st.cfg.kind)).map (·.w))) s

/-- Words that reach the commit stage for output `m` of channel `ch` (R17, R18). -/
def deliver (i m ch : Nat) (ws : List (BitVec 32)) (s : State) : State :=
  let st := strOf s i
  if !expected st m then s
  else if m < st.due.getD ch 0 || deadline s st.cfg m (st.cfg.slots.getD ch 0) < s.now then
    s.onStr i fun st => { st with lateCnt := st.lateCnt + BitVec.ofNat 32 ws.length }
  else if !st.retained then s
  else if st.cfg.recordsOnly then s.onStr i fun st => { st with held := st.held ++ [(m, ch, ws)] }
  else
    let s := openTo (m + 1 - st.nextM + 1) i m s
    let s := setOutput i m ch ws s
    closeAll i s

/-! ### Stamped entries (R197) -/

/-- The place of an entry among others: stamp order, ties in slot order. -/
def entryPos (x : Nat × Nat) (xs : List (Nat × Nat)) : Nat :=
  (xs.filter fun y => decide (y.1 < x.1) || (y.1 == x.1 && decide (y.2 < x.2))).length

/-- The block in assembly of a tick, opened where there is none, with the credits of the longest block (R497); blocks
stay in tick order. -/
def openEntryBlock (i tick : Nat) (s : State) : State :=
  let st := strOf s i
  if st.asm.any fun b => b.first == tick then s
  else
    let n := blockCredits st.cfg (maxOutputs st.cfg)
    let s := makeRoom (st.blocks.length + 1) i none n s
    if (strOf s i).pool.free < n then s
    else
      s.onStr i fun st =>
        let b : Block := { seq := 0, first := tick, count := 0, fidx := 0, firstT := tick * tickRefs, fixed := false, creds := freeCreds st n }
        { st.takeC n with asm := st.asm.filter (fun x => x.first < tick) ++ [b] ++ st.asm.filter (fun x => tick < x.first) }

/-- An entry put into the block of its tick. -/
def putEntry (i : Nat) (x : Nat × Nat) (w : Word32) (s : State) : State :=
  let tick := x.1 / tickRefs
  let s := openEntryBlock i tick s
  let st := strOf s i
  match st.asm.find? fun b => b.first == tick with
  | none => s
  | some b =>
    let k := entryPos x b.stamps
    let nb := { b with body := b.body.take k ++ [w] ++ b.body.drop k, stamps := b.stamps.take k ++ [x] ++ b.stamps.drop k, count := b.count + 1 }
    let s := s.onStr i fun st => { st with asm := st.asm.map fun y => if y == b then nb else y }
    blockStore st nb.creds (bodyOfs st.cfg + 8 * k) (wordsBytes ((bodyWords st.cfg nb).drop (2 * k))) s

/-- Whether an instant lies in a record window of the stream's group (R188, R218). -/
def inRecWindow (s : State) (g t : Nat) : Bool := (grpOf s g).recWins.any fun w => decide (w.1 ≤ t * fuPerRef) && decide (t * fuPerRef < w.2)

/-- An entry that is not in M at its deadline: P rises, and it is booked at once, F with cause `LATE`, or D
`OUTSIDE_RECORD` where a records-only stream keeps no word there. It keeps its place in a block that is still in
assembly (R17, R18, R20). -/
def missEntry (i slot stamp : Nat) (s : State) : State :=
  let st := strOf s i
  let out := st.cfg.recordsOnly && !inRecWindow s st.cfg.roGroup stamp
  let s := s.onStr i fun st => if out then (st.bookP 1).bookD 3 1 else (st.bookP 1).bookF 7 1
  if out || !st.retained || decide (stamp / tickRefs < st.nextM) then s
  else putEntry i (stamp, slot) { w := badWord, st := .inF } s

/-- The deadline of an entry. -/
def entryDeadline (s : State) (c : StreamDef) (stamp : Nat) : Nat := stamp + 6144 + roExtra s c

/-- Whether the stream takes entries with a stamp: enabled at its tick. -/
def entryWanted (st : Stream) (stamp : Nat) : Bool :=
  let tick := stamp / tickRefs
  skipGaps st.gaps tick == tick && (match st.stopAt with | some e => decide (tick < e) | none => true)

/-- An auxiliary sample given to a stamped stream. One that comes after its deadline is discarded and counted (R18); one
whose retention has been released is booked D at its deadline (R19). -/
def deliverEntry (i slot stamp : Nat) (w : SampleWord) (s : State) : State :=
  let st := strOf s i
  if !entryWanted st stamp then s
  else if entryDeadline s st.cfg stamp < s.now || decide (stamp / tickRefs < st.nextM) then
    missEntry i slot stamp (s.onStr i fun st => { st with lateCnt := st.lateCnt + 1 })
  else if !st.retained then s.onStr i fun st => { st with earlyGone := (stamp, 0, some 2, false) :: st.earlyGone }
  else if st.cfg.recordsOnly then
    s.onStr i fun st => { st with held := st.held ++ [(stamp, slot, [w])] }
  else
    let s := putEntry i (stamp, slot) { w, st := .early } s
    -- no credits could be had for its block (R497): it is missing at its deadline
    if (strOf s i).asm.any fun b => b.stamps.contains (stamp, slot) then s
    else s.onStr i fun st => { st with earlyGone := (stamp, 0, some 7, true) :: st.earlyGone }

/-- An entry that its function lost to a reset or a disable keeps its place, and is booked with `cause` at its deadline
(R19, R189); with no cause it is missing there, and booked `LATE` (R17). -/
def loseEntry (i slot stamp : Nat) (cause : Option Nat) (s : State) : State :=
  let st := strOf s i
  if !entryWanted st stamp then s
  else if !st.retained || st.cfg.recordsOnly || decide (stamp / tickRefs < st.nextM) then
    s.onStr i fun st => { st with earlyGone := (stamp, 0, some (cause.getD 7), cause.isNone) :: st.earlyGone }
  else
    putEntry i (stamp, slot) { w := badWord, st := match cause with | some c => .dueD c | none => .dueF 7 } s

/-- The blocks of ticks that are over closed at the boundary of `tick`, one tick after their own has ended. -/
def closeEntries (i tick : Nat) (s : State) : State :=
  let st := strOf s i
  if st.cfg.kind != 6 || !st.defd then s
  else
    let s := s.onStr i fun st => { st with nextM := max st.nextM (tick - 1) }
    autoRelease i (forAll (st.asm.filter fun b => b.first + 2 ≤ tick) s fun s b =>
      if b.body.isEmpty then dropBlock i none b s else closeBlock i b s)

/-! ### COOPER_INLINE_DONE (R271 to R273, R497) -/

/-- The layout and number of sequences of a stream's body (R269). -/
def bodyLayout (c : StreamDef) : Nat × Nat :=
  match c.kind with
  | 4 => (1, c.chans) | 5 => (1, c.chans) | 6 => (2, 2) | _ => (0, c.chans * wpo c.kind)

/-- The body of the oldest closed block coded into new credits; raw where they cannot be had. -/
def codeBlock (i : Nat) (b : Block) (s : State) : State :=
  let st := strOf s i
  let c := st.cfg
  let lay := bodyLayout c
  let cb := codeBody lay.1 lay.2 (bodyWords c b)
  if cb.2 then storeRaw i b s
  else
    let n := cdiv (64 + cb.1.length) 1024
    let s := makeRoom (st.blocks.length + 1) i (some b.seq) n s
    if (strOf s i).pool.free < n then storeRaw i b s
    else
      let st := strOf s i
      let creds := freeCreds st n
      let bytes := blockHeader s i b false cb.1.length ++ cb.1
      let nb := { b with coded := true, bytes, creds }
      let s := blockStore st creds 0 bytes s
      s.onStr i fun st => { (st.takeC n).giveC b.creds.length with blocks := st.blocks.map fun x => if x == b then nb else x }

/-- Closed blocks whose coding is cut short are stored raw (R273). -/
def cutCoding (s : State) : State :=
  forN 64 s fun s i => forAll ((strOf s i).blocks.filter fun b => !b.coded) s fun s b => storeRaw i b s

def execCooperInlineDone (stream : Fin 64) (s : State) : Outc :=
  match (strOf s stream.val).blocks.find? fun b => !b.coded with
  | none => done s
  | some b => done (if cooperOut s then storeRaw stream.val b s else codeBlock stream.val b s)

/-! ### BLOCK_SEND, RETRANSMISSION_TIMEOUT (R200, R203) -/

/-- A block's knowledge of a role changed. -/
def onDest (i : Nat) (seq : BitVec 32) (r : Nat) (f : DestSt → DestSt) (s : State) : State :=
  s.onStr i fun st => { st with blocks := st.blocks.map fun b => if b.seq == seq then { b with dst := tset b.dst r (f (tget b.dst r {})) } else b }

/-- BLOCK_SEND (R200, R271): the oldest stored block that a destination has not been sent. -/
def execBlockSend (stream : Fin 64) (t : Nat) (s : State) : Outc :=
  let s := s.at_ t
  let i := stream.val
  let st := strOf s i
  let unsent (b : Block) : List Nat := (destRoles st.cfg).filter fun r => (tget b.dst r {}).sent.isNone && !(tget b.dst r {}).acked
  match st.blocks.find? fun b => b.coded && !(unsent b).isEmpty with
  | none => done s
  | some b => done (forAll (unsent b) s fun s r => onDest i b.seq r (fun d => { d with sent := some s.now }) (sendBlock i r false b s))

/-- RETRANSMISSION_TIMEOUT (R203): the timeout has passed since the block was last sent to the destination. -/
def execRetransmissionTimeout (stream : Fin 64) (seq : Nat) (role : Fin 2) (t : Nat) (s : State) : Outc :=
  let s := s.at_ t
  let i := stream.val
  let st := strOf s i
  match st.blocks.find? fun b => b.coded && b.seq == BitVec.ofNat 32 seq with
  | none => done s
  | some b =>
    match (tget b.dst role.val {}).sent with
    | some x =>
      if (tget b.dst role.val {}).acked || !bit st.cfg.dest role.val || t < x + st.cfg.rto * 204800 then done s
      else done (onDest i b.seq role.val (fun d => { d with sent := some s.now }) (sendBlock i role.val true b s))
    | none => done s

/-! ### STREAM_ACK_RECEIVED (R201 to R203) -/

/-- A key of the boot block; zeros where there is none. -/
def keyOf (s : State) (k : Nat) : List Byte := match s.pwr.boot with | some b => b.keys.getD k (zeros 32) | none => zeros 32

def discardAt (p : Nat) (s : State) : State := s.onNet p fun n => { n with discard := n.discard + 1 }

/-- A datagram discarded for its tag counts in both (R413, R444). -/
def authFailAt (p : Nat) (s : State) : State := s.onNet p fun n => { n with discard := n.discard + 1, authFail := n.authFail + 1 }

/-- Whether an ACK is authentic, from a destination, and in the acknowledgeable range (R201). -/
def ackOk (s : State) (d : Dgram) : Bool :=
  let b := d.body
  let i := rd b 2 1
  let r := rd b 3 1
  let st := strOf s i
  let oldest := match st.blocks with | x :: _ => x.seq | [] => st.nextSeq
  let base := BitVec.ofNat 32 (rd b 4 4)
  let c := (collOf s r).cfg
  b.length == 40 && rd b 0 1 == 2 && rd b 1 1 == 4 && decide (i < 64) && decide (r < 2) && rd b 12 2 == 24 && rd b 14 2 == hubNo s
    && hmacTag (keyOf s c.keyId) (b.take 24) == b.drop 24 && (c.addr == 0 || d.src == c.addr)
    && bit st.cfg.dest r && st.closedAny && decide ((base - oldest).toNat ≤ (st.nextSeq - oldest).toNat)

/-- Blocks that every destination has acknowledged are freed (R202). -/
def freeAcked (i : Nat) (s : State) : State :=
  let st := strOf s i
  autoRelease i (forAll (st.blocks.filter fun b => (destRoles st.cfg).all fun r => (tget b.dst r {}).acked) s fun s b => dropBlock i none b s)

/-- The effect of a sound ACK. -/
def ackApply (d : Dgram) (s : State) : State :=
  let b := d.body
  let i := rd b 2 1
  let r := rd b 3 1
  let st := strOf s i
  let base := BitVec.ofNat 32 (rd b 4 4)
  let mask := rd b 16 8
  let oldest := match st.blocks with | x :: _ => x.seq | [] => st.nextSeq
  let named (q : BitVec 32) : Bool := let k := (q - base - 1).toNat; decide (k < 64) && bit mask k
  -- a closed block later than `q` that the mask names, resident or freed before
  let laterNamed (q : BitVec 32) : Bool := (List.range 64).any fun k =>
    let y := base + 1 + BitVec.ofNat 32 k
    bit mask k && decide ((y - oldest).toNat < (st.nextSeq - oldest).toNat) && decide ((q - oldest).toNat < (y - oldest).toNat)
  let got (q : BitVec 32) : Bool := decide ((q - oldest).toNat < (base - oldest).toNat) || named q
  let s := s.onColl r fun c => { c with lastSrc := d.src, lastPrt := d.srcPort }
  let s := s.onStr i fun st => { st with blocks := st.blocks.map fun x => if got x.seq then { x with dst := tset x.dst r { tget x.dst r {} with acked := true } } else x }
  -- a block before one that the mask marks complete is sent again, at most once per timeout
  let lacks := st.blocks.filter fun x => !got x.seq && !(tget x.dst r {}).acked && x.coded && (tget x.dst r {}).sent.isSome && laterNamed x.seq
  let s := forAll lacks s fun s x =>
    let due := match (tget x.dst r {}).fast with | some f => decide (f + st.cfg.rto * 204800 ≤ s.now) | none => true
    if due then onDest i x.seq r (fun d => { d with sent := some s.now, fast := some s.now }) (sendBlock i r true x s) else s
  freeAcked i s

/-- An ACK handled: checked, then applied, or counted as discarded. -/
def ackHandle (d : Dgram) (s : State) : State :=
  if ackOk s d then ackApply d s
  else if hmacTag (keyOf s (collOf s (rd d.body 3 1)).cfg.keyId) (d.body.take 24) == d.body.drop 24 then discardAt d.port.val s
  else authFailAt d.port.val s

/-- STREAM_ACK_RECEIVED (R201, R202): kept while a Lamplighter takeover runs, up to 1 024. -/
def execStreamAckReceived (d : Dgram) (s : State) : Outc :=
  if s.pwr.llTakeover then
    if s.str.keptAcks.length < 1024 then done { s with str := { s.str with keptAcks := s.str.keptAcks ++ [d] } } else done (discardAt d.port.val s)
  else done (ackHandle d s)

/-- The kept acknowledgements handled in arrival order when a takeover ends (R202). -/
def ackKept (s : State) : State :=
  forAll s.str.keptAcks { s with str := { s.str with keptAcks := [] } } fun s d => ackHandle d s

end Sys2Proof.Machine
end

