-- ==== Sys2Proof/Machine/Reduce.lean ====
section
/-! DEFINITION. Reductions (R190 to R196, R496), the commit deadline of a stream's words (R17, R19, R20, R188, R189),
and the stream commands (R182 to R187, R376, R377). -/
namespace Sys2Proof.Machine

/-! ### Reduction instances (R190, R496) -/

def redAt (s : State) (j : Nat) : Option RedInst := s.str.red[j]?

def State.onRed (s : State) (j : Nat) (f : RedInst → RedInst) : State :=
  { s with str := { s.str with red := s.str.red.modify j f } }

/-- The defined streams that use an instance. -/
def instStreams (s : State) (r : RedInst) : List Nat := (s.str.s.filter fun e => e.2.defd && usesInst e.2.cfg r).map (·.1)

/-- One output's words given to a stream. -/
def redGive (i m slot : Nat) (ws : List (BitVec 32)) (s : State) : State :=
  match chanIdx (strOf s i).cfg slot with
  | some ch => deliver i m ch ws s
  | none => s

/-! ### Kinds 1 to 3 (R192, R193) -/

/-- The words of an output from the inputs that came. -/
def gridWords (kind b : Nat) (acc : List (Nat × SampleWord)) : List (BitVec 32) :=
  let ws := acc.map (·.2)
  let fl := ws.foldl (fun a w => a.lor (wFlags w)) (if ws.length < b then fBad else 0)
  let vs := ws.map wVal
  match kind with
  | 1 => [ws.headD badWord]
  | 2 =>
    if fl.land fBad != 0 then [badKeep fl, badKeep fl, badKeep fl]
    else [mkWord (vs.foldl min (vs.headD 0)) fl, mkWord (vs.foldl max (vs.headD 0)) fl, mkWord (meanRound (vs.foldl (· + ·) 0) b) fl]
  | _ =>
    if fl.land fBad != 0 then [badKeep fl]
    else [mkWord (rootNearest (vs.foldl (fun a v => a + (v * v).toNat) 0) b) fl]

/-- Outputs from `x` below `m` that a stream still awaits, given as `BAD`. -/
def giveMissing : Nat → Nat → Nat → Nat → Nat → Nat → State → State
  | 0, _, _, _, _, _, s => s
  | fuel + 1, i, slot, x, m, k, s =>
    let x := nextOut (strOf s i) x
    if x < m && expected (strOf s i) x then
      giveMissing fuel i slot (x + 1) m k (redGive i x slot (List.replicate k badWord) s)
    else s

/-- The instance finishes every output below `m`: the one it gathers, and those none of whose inputs came. -/
def gridTo (j m : Nat) (s : State) : State :=
  match redAt s j with
  | none => s
  | some r =>
    if m ≤ r.accM then s
    else
      let b := rateRefs r.target / rateRefs r.rate
      let is := instStreams s r
      let s := if r.acc.isEmpty then s else forAll is s fun s i => redGive i r.accM r.slot (gridWords r.kind b r.acc) s
      let x := if r.acc.isEmpty then r.accM else r.accM + 1
      let s := forAll is s fun s i =>
        let d := match chanIdx (strOf s i).cfg r.slot with | some ch => (strOf s i).due.getD ch 0 | none => m
        giveMissing (m - max x d) i r.slot (max x d) m (wpo r.kind) s
      s.onRed j fun r => { r with accM := m, acc := [] }

/-- An input of a kind 1 to 3 instance. -/
def gridInput (j k : Nat) (w : SampleWord) (s : State) : State :=
  match redAt s j with
  | none => s
  | some r =>
    let b := rateRefs r.target / rateRefs r.rate
    let m := k / b
    if m < r.accM then s
    else
      let s := gridTo j m s
      let s := if r.kind != 1 || k % b == 0 then s.onRed j fun r => { r with acc := (k, w) :: r.acc } else s
      if k % b + 1 = b || r.kind == 1 then gridTo j (m + 1) s else s

/-! ### Kinds 4 and 5 (R194 to R196) -/

def redClear (r : RedInst) : RedInst :=
  { r with cells := [], stack := [], dir := 0, ext := 0, ref := 0, seen := false, skipped := 0, sat := false, resOvf := false, flagOr := 0, poison := [] }

def par (r : RedInst) (k : Nat) : Int := r.pars.getD k 0

/-- `count(p, q, h)`. -/
def redCount (r : RedInst) (p q : Int) (h : Nat) : RedInst :=
  let i := min 31 (fdiv (p - q).natAbs (par r 0)).toNat
  let jj := (clampI (fdiv (p + q - 2 * par r 1) (2 * par r 2)) 0 31).toNat
  let k := 32 * i + jj
  let v := tget r.cells k 0 + h
  { r with cells := tset r.cells k (min v 0xFFFFFFFF), sat := r.sat || decide (0xFFFFFFFF < v) }

/-- The four-point rule on a stack given newest first. -/
def fourPoint : Nat → RedInst → List Int → RedInst × List Int
  | 0, r, st => (r, st)
  | fuel + 1, r, st =>
    match st with
    | d :: c :: b :: a :: rest =>
      if (c - b).natAbs ≤ (b - a).natAbs ∧ (c - b).natAbs ≤ (d - c).natAbs then fourPoint fuel (redCount r b c 2) (d :: a :: rest) else (r, st)
    | _ => (r, st)

/-- `push(p)`; the stack is kept oldest first. -/
def redPush (r : RedInst) (p : Int) : RedInst :=
  let x := fourPoint 64 r (p :: r.stack.reverse)
  let st := x.2.reverse
  if 63 < st.length then { redCount x.1 (st.getD 0 0) (st.getD 1 0) 1 with stack := st.drop 1, resOvf := true } else { x.1 with stack := st }

/-- One sample counted by a rainflow instance (R194). -/
def rainflow (r : RedInst) (w : SampleWord) : RedInst :=
  if wBad w then { r with skipped := r.skipped + 1 }
  else
    let v := wVal w
    let g := par r 3
    let r := { r with flagOr := r.flagOr.lor (wFlags w) }
    if !r.seen then redPush { r with seen := true, ref := v, dir := 0 } v
    else if r.dir = 0 then
      if r.ref + g ≤ v then { r with dir := 1, ext := v } else if v ≤ r.ref - g then { r with dir := -1, ext := v } else r
    else if r.dir = 1 then
      if r.ext < v then { r with ext := v } else if v ≤ r.ext - g then { redPush r r.ext with dir := -1, ext := v } else r
    else if v < r.ext then { r with ext := v }
    else if r.ext + g ≤ v then { redPush r r.ext with dir := 1, ext := v }
    else r

/-- One sample counted by a histogram instance (R196). -/
def histogram (r : RedInst) (w : SampleWord) : RedInst :=
  if wBad w then r
  else
    let k := (clampI (fdiv (wVal w - par r 0) (par r 1)) 0 63).toNat
    { r with cells := tset r.cells k (min (tget r.cells k 0 + 1) 0xFFFFFFFF) }

def redInput (r : RedInst) (w : SampleWord) : RedInst := if r.kind = 4 then rainflow r w else histogram r w

/-- The words of an emission (R195, R196, R257). -/
def redWords (r : RedInst) : List (BitVec 32) :=
  let cell (k : Nat) : BitVec 32 := if r.poison.contains k then 0xFFFFFFFF else BitVec.ofNat 32 (tget r.cells k 0)
  if r.kind = 4 then
    (List.range 1024).map cell ++
    [BitVec.ofNat 32 (r.stack.length * 2 ^ 26 + b2n r.resOvf * 2 ^ 25 + b2n r.sat * 2 ^ 24 + min r.skipped 65535 * 256
      + (r.flagOr % 256).lor (b2n !r.poison.isEmpty))] ++
    (List.range 63).map fun k => match r.stack[k]? with | some p => mkWord p 0 | none => badWord
  else (List.range 64).map cell

/-- Cells that changed, written to the instance's space in `REDUCTION`. -/
def redMirror (old new : RedInst) (s : State) : State :=
  forAll (new.cells.filter fun e => tget old.cells e.1 0 != e.2) s fun s e => rmWrite s (new.base + 4 * e.1) (le 4 e.2)

def redSize (kind : Nat) : Nat := if kind = 4 then 4096 else if kind = 5 then 256 else 0

/-- An instance's cells set to zero, in memory too. -/
def redWipe (j : Nat) (s : State) : State :=
  match redAt s j with
  | none => s
  | some r => rmWrite (s.onRed j fun r => { r with cells := [], poison := [] }) r.base (zeros (redSize r.kind))

/-- The emission at tick `m` given to a stream; `part` marks it `PARTIAL`. -/
def redEmit (r : RedInst) (i m : Nat) (part : Bool) (s : State) : State :=
  let st := strOf s i
  if !expected st m then s
  else
    -- a records-only stream opens the block of a kept emission later
    let s := if part && !(st.partOuts.any fun x => x.1 == m) then
        s.onStr i fun st => { st with partOuts := st.partOuts.filter (fun x => st.nextM ≤ x.1) ++ [(m, emissionFirst s st.cfg m)] }
      else s
    let s := if st.cfg.recordsOnly then s else openTo (m + 2 - st.nextM) i m s
    let s := if part then s.onStr i fun st => { st with asm := st.asm.map fun b => if b.covers m then { b with partial_ := true } else b } else s
    redGive i m r.slot (redWords r) s

/-- The instance goes through its inputs as far as the next interval boundary allows. -/
def redDrain : Nat → Nat → State → State
  | 0, _, s => s
  | fuel + 1, j, s =>
    match redAt s j with
    | none => s
    | some r =>
      let rr := rateRefs r.rate
      match r.runs with
      | [] => s.onRed j fun r => { r with wait := [] }
      | (_, stop) :: rest =>
        let nb := (r.intv + 1) * r.period
        match r.cuts.find? fun c => n0 c.1 rr ≤ r.nextIn with
        | some c =>
          let s := redEmit r c.2 c.1 true s
          redDrain fuel j (s.onRed j fun r => { r with cuts := r.cuts.filter (· != c) })
        | none =>
          if (match stop with | some n => decide (n0 n rr ≤ r.nextIn ∧ n < nb) | none => false) then
            let s := redWipe j (s.onRed j fun r =>
              let r := redClear { r with runs := rest }
              match rest with | (a, _) :: _ => { r with nextIn := n0 a rr, intv := a / r.period } | [] => r)
            redDrain fuel j s
          else if n0 nb rr ≤ r.nextIn then s
          else match r.wait with
            | [] => s
            | (k, w) :: t =>
              if k < r.nextIn then redDrain fuel j (s.onRed j fun r => { r with wait := t })
              else if r.nextIn < k then
                -- inputs that never came count as `BAD` inputs, up to the next event
                let lim := (r.cuts.map fun c => n0 c.1 rr).foldl min (match stop with | some n => min (n0 n rr) (n0 nb rr) | none => n0 nb rr)
                let x := min k lim
                redDrain fuel j (s.onRed j fun r => { r with nextIn := x, skipped := r.skipped + (x - r.nextIn) })
              else
                let r' := redInput { r with wait := t, nextIn := k + 1 } w
                redDrain fuel j (redMirror r r' (s.onRed j fun _ => r'))

def redFuel (s : State) (j : Nat) : Nat :=
  match redAt s j with | some r => 4 * (r.wait.length + r.cuts.length + r.runs.length) + 8 | none => 0

def redRun (j : Nat) (s : State) : State := redDrain (redFuel s j) j s

/-- Inputs below `x` that have not come counted as `BAD`. -/
def redSkip (j x : Nat) (s : State) : State :=
  redRun j (s.onRed j fun r => if r.nextIn < x then { r with nextIn := x, skipped := r.skipped + (x - r.nextIn) } else r)

/-- The emission of an interval boundary (R195): the words to every enabled stream, and the cells set to zero. -/
def redBoundary (j : Nat) (s : State) : State :=
  match redAt s j with
  | none => s
  | some r =>
    match r.runs with
    | [] => s
    | (a, _) :: _ =>
      let nb := (r.intv + 1) * r.period
      let s := forAll (instStreams s r) s fun s i => redEmit r i nb (decide (r.intv * r.period < a)) s
      let s := redWipe j s
      redRun j (s.onRed j fun r => { r with intv := r.intv + 1, skipped := 0, sat := false, resOvf := false, flagOr := 0 })

/-- An input of a kind 4 or 5 instance. -/
def intervalInput (j k : Nat) (w : SampleWord) (s : State) : State :=
  redRun j (s.onRed j fun r => { r with wait := r.wait ++ [(k, w)] })

/-- REDUCTION_INTERVAL_END (R195, R196): the boundary has passed, and its interval's inputs have come or their deadline
has passed. -/
def execReductionIntervalEnd (inst : Nat) (s : State) : Outc :=
  match redAt s inst with
  | none => done s
  | some r =>
    let rr := rateRefs r.rate
    let nb := (r.intv + 1) * r.period
    let last := n0 nb rr
    let allDue := decide ((last - 1) * rr + latency s r.slot ≤ s.now)
    let inRun := match r.runs with | (_, some n) :: _ => decide (nb ≤ n) | (_, none) :: _ => true | [] => false
    if !intervalKind r.kind || !inRun || s.tb.tick < nb || fnOut s fnRed || !(decide (last ≤ r.nextIn) || allDue) then done s
    else done (redBoundary inst (redSkip inst last s))

/-- The instance brought past the emission at tick `m`, whatever inputs came. -/
def redFlush : Nat → Nat → Nat → State → State
  | 0, _, _, s => s
  | fuel + 1, j, m, s =>
    match redAt s j with
    | none => s
    | some r =>
      let nb := (r.intv + 1) * r.period
      if r.runs.isEmpty then s
      else if nb ≤ m then redFlush fuel j m (redBoundary j (redSkip j (n0 nb (rateRefs r.rate)) s))
      else if r.cuts.any (fun c => c.1 ≤ m) then redSkip j (n0 m (rateRefs r.rate)) s
      else s

/-- A committed sample given to the reductions of its slot, and to the raw streams that carry it. -/
def streamSample (slot rate k : Nat) (raw eng : SampleWord) (noEng : Bool) (s : State) : State :=
  let s := forAll (s.str.s.filter fun e => e.2.defd && e.2.cfg.kind == 0 && e.2.cfg.rate == rate && e.2.cfg.slots.contains slot) s fun s e =>
    match chanIdx e.2.cfg slot with
    | some ch => if e.2.cfg.skind = 1 && noEng then s else deliver e.1 k ch [if e.2.cfg.skind = 1 then eng else raw] s
    | none => s
  if fnOut s fnRed then s
  else
    (List.range s.str.red.length).foldl (fun s j =>
      match redAt s j with
      | some r =>
        if r.slot = slot && r.rate = rate then
          let w := if r.skind = 1 then eng else raw
          if intervalKind r.kind then intervalInput j k w s else gridInput j k w s
        else s
      | none => s) s

/-! ### COMMIT_DEADLINE (R17 to R20, R188, R189) -/

/-- Whether a loss interval of a function takes a word with its deadline and instant (R19). -/
def lossOf (s : State) (id dl inst : Nat) : Option Nat :=
  ((fnOf s id).loss.find? fun l => decide (l.2.1 ≤ dl) && (match l.2.2 with | none => true | some e => decide (inst ≤ e))).map (·.1)

/-- The functions that carry a stream's words of a slot; kinds 1 to 5 come from the reduction unit whatever its inputs. -/
def carriers (s : State) (c : StreamDef) (slot m : Nat) : List Nat :=
  if 1 ≤ c.kind ∧ c.kind ≤ 5 then [fnRed]
  else if isAux slot then [slot, fnAuxConv ((slot - 544) / 16), 0x270 + (slot - 544) / 16]
  else
    let fe := if isPrec slot && spareDelivers s (slot / 32) (slot % 32) m then 512 + slot / 32 else slot
    slotFns s fe ++ (if c.skind = 1 then [fnLin] else [])

/-- The cause by which an absent word is booked D at its deadline; none where it is `LATE`. Where several carriers, or
several intervals of one, take the word, the first carrier that has one gives the cause, by its first interval (DESIGN
CHOICE, log 130: R19 names no order). -/
def hostCause (s : State) (c : StreamDef) (slot m dl : Nat) : Option Nat :=
  let inst := lastInput c m * rateRefs c.rate
  let hr := slotHalf s slot * rateRefs c.rate
  ((carriers s c slot m).filterMap fun id => lossOf s id dl (inst - hr)).head?

/-- One word booked at its deadline; `host` is the cause by which an absent word is D. A word that is resident before
its deadline is booked M, also where its function is held or disabled at the deadline: R17 books what is in M, and R19 the
words that the function still held (DESIGN CHOICE, log 131). -/
def bookWord (host : Option Nat) (a : Stream × List Word32) (w : Word32) : Stream × List Word32 :=
  let st := a.1.bookP 1
  match w.st with
  | .early => (st.book fun k => { k with m := k.m + 1 }, a.2 ++ [{ w with st := .inM }])
  | .absent =>
    match host with
    | some cz => (st.bookD cz 1, a.2 ++ [{ w := badWord, st := .inD }])
    | none => (st.bookF 7 1, a.2 ++ [{ w := badWord, st := .inF }])
  | .dueF cz => (st.bookF cz 1, a.2 ++ [{ w with st := .inF }])
  | .dueD cz => (st.bookD cz 1, a.2 ++ [{ w with st := .inD }])
  | _ => (st, a.2 ++ [w])

/-- Words whose block was freed before their deadline. -/
def bookGone (st : Stream) (x : Nat × Nat × Option Nat × Bool) : Stream :=
  let st := st.bookP 1
  match x.2.2.1 with
  | none => st.book fun k => { k with a := k.a + 1 }
  | some cz => if x.2.2.2 then st.bookF cz 1 else st.bookD cz 1

/-- Output `m` of channel `ch` booked in the block that covers it. -/
def bookOutput (i m ch dl : Nat) (s : State) : State :=
  let st := strOf s i
  let c := st.cfg
  match (st.blocks ++ st.asm).find? fun b => b.covers m with
  | some b =>
    let o := wordIdx c b m ch
    let n := wpo c.kind
    let ws := (b.body.drop o).take n
    let host := hostCause s c (c.slots.getD ch 0) m dl
    let s := s.onStr i fun st =>
      let r := ws.foldl (bookWord host) (st, [])
      let f (x : Block) : Block := if x == b then { x with body := x.body.take o ++ r.2 ++ x.body.drop (o + n) } else x
      { r.1 with blocks := r.1.blocks.map f, asm := r.1.asm.map f }
    let s := if ws.any (fun w => w.st == .absent) then blockStore st b.creds (bodyOfs c + 4 * o) (wordsBytes (List.replicate n badWord)) s else s
    closeAll i s
  | none =>
    let gone := st.earlyGone.filter fun x => x.1 == m && x.2.1 == ch
    s.onStr i fun st =>
      if gone.isEmpty then
        let st := st.bookP (wpo c.kind)
        -- the retention of a disabled stream was released before these words were due
        if st.retained then st.bookF 7 (wpo c.kind) else st.bookD 2 (wpo c.kind)
      else gone.foldl bookGone { st with earlyGone := st.earlyGone.filter fun x => !(x.1 == m && x.2.1 == ch) }

/-- The last block of a records-only stream ends. -/
def endRun (i : Nat) (s : State) : State := closeAll i (s.onStr i fun st => { st with asm := st.asm.map fun b => { b with fixed := true } })

/-- Whether output `m` of a records-only stream is kept, decided at the first deadline of it: its block opens or grows,
or the run before it ends. -/
def decideKept (i m : Nat) (s : State) : State :=
  let st := strOf s i
  let c := st.cfg
  if m < st.nextM then s
  else
    let s := if st.retained && inRecWindow s c.roGroup (outT c m) then
        match st.asm.getLast? with
        | some b =>
          if !b.fixed && b.first + b.count == m && !intervalKind c.kind && m % c.block != 0 then
            let nb := { b with count := b.count + 1, partial_ := b.count + 1 != c.block, body := b.body ++ List.replicate (c.chans * wpo c.kind) {} }
            s.onStr i fun st => { st with asm := st.asm.map fun x => if x == b then nb else x }
          else openBlock i m (endRun i s)
        | none => openBlock i m s
      else endRun i s
    let s := s.onStr i fun st => { st with nextM := m + 1 }
    let st := strOf s i
    let last := intervalKind c.kind || (m + 1) % c.block == 0 || !expected st (nextOut st (m + 1))
    if last then s.onStr i fun st => { st with asm := st.asm.map fun b => { b with fixed := true } } else s

/-- One word's output at its deadline (R17, R188). -/
def dueOutput (i m ch dl : Nat) (s : State) : State :=
  let st := strOf s i
  let c := st.cfg
  let slot := c.slots.getD ch 0
  -- the reduction's inputs have all come, or count as `BAD`
  let s := if 1 ≤ c.kind ∧ c.kind ≤ 5 ∧ !fnOut s fnRed then
      (List.range s.str.red.length).foldl (fun s j =>
        match redAt s j with
        | some r => if r.slot = slot && usesInst c r then (if intervalKind c.kind then redFlush (m / c.block + 2 - r.intv) j m s else gridTo j (m + 1) s) else s
        | none => s) s
    else s
  let s := if c.recordsOnly then
      let s := decideKept i m s
      let mine := (strOf s i).held.find? fun h => h.1 == m && h.2.1 == ch
      let s := s.onStr i fun st => { st with held := st.held.filter fun h => !(h.1 == m && h.2.1 == ch) }
      let kept := (((strOf s i).blocks ++ (strOf s i).asm).any fun b => b.covers m) || (st.retained && inRecWindow s c.roGroup (outT c m))
      if kept then
        let s := match mine with
          | some h => setOutput i m ch h.2.2 s
          | none => s
        bookOutput i m ch dl s
      else s.onStr i fun st => (st.bookP (wpo c.kind)).bookD (if st.retained then 3 else 2) (wpo c.kind)
    else bookOutput i m ch dl (if st.retained then openTo (m + 2 - (strOf s i).nextM) i m s else s)
  s.onStr i fun st => { st with due := st.due.set ch (nextOut st (m + 1)) }

/-- The next deadline of a grid or interval stream, with the channels that are due. -/
def nextDeadline (s : State) (i : Nat) : Option (Nat × List Nat) :=
  let st := strOf s i
  let ds := ((List.range st.cfg.chans).filter fun ch => expected st (st.due.getD ch 0)).map fun ch =>
    (deadline s st.cfg (st.due.getD ch 0) (st.cfg.slots.getD ch 0), ch)
  match ds with
  | [] => none
  | d :: _ =>
    let m := ds.foldl (fun a x => min a x.1) d.1
    some (m, (ds.filter fun x => x.1 == m).map (·.2))

/-- The entries of a stamped stream that are not booked: stamps of resident ones, and of those that wait for their
record window. -/
def entryStamps (st : Stream) : List Nat :=
  ((st.blocks ++ st.asm).map fun b => ((List.zipWith (fun w x => (w.st, x.1)) b.body b.stamps).filter fun e => match e.1 with
    | .early | .dueF _ | .dueD _ => true | _ => false).map (·.2)).flatten ++ (st.held.map (·.1)) ++ st.earlyGone.map (·.1)

/-- The entries with a stamp booked. -/
def dueEntries (i stamp : Nat) (s : State) : State :=
  let s := s.onStr i fun st =>
    let go (st : Stream) (b : Block) : Stream × Block :=
      let r := (List.zip b.body b.stamps).foldl (fun (a : Stream × List Word32) e =>
        if e.2.1 == stamp && (match e.1.st with | .early | .dueF _ | .dueD _ => true | _ => false) then bookWord none a e.1 else (a.1, a.2 ++ [e.1])) (st, [])
      (r.1, { b with body := r.2 })
    let walk (st : Stream) (bs : List Block) : Stream × List Block := bs.foldl (fun a b => let x := go a.1 b; (x.1, a.2 ++ [x.2])) (st, [])
    let x := walk st st.blocks
    let y := walk x.1 st.asm
    { y.1 with blocks := x.2, asm := y.2 }
  let s := s.onStr i fun st =>
    let gone := st.earlyGone.filter fun x => x.1 == stamp
    gone.foldl bookGone { st with earlyGone := st.earlyGone.filter fun x => x.1 != stamp }
  let mine := (strOf s i).held.filter fun h => h.1 == stamp
  forAll mine s fun s h =>
    let s := s.onStr i fun st => { st with held := st.held.filter (· != h) }
    let st := strOf s i
    if inRecWindow s st.cfg.roGroup stamp then
      let s := putEntry i (stamp, h.2.1) { w := h.2.2.headD badWord, st := .inM } s
      let here := (strOf s i).asm.any fun b => b.stamps.contains (stamp, h.2.1)
      s.onStr i fun st => if here then (st.bookP 1).book fun k => { k with m := k.m + 1 } else (st.bookP 1).bookF 7 1
    else s.onStr i fun st => (st.bookP 1).bookD 3 1

/-- COMMIT_DEADLINE (R17): the stream's next words pass their deadline. -/
def execCommitDeadline (stream : Fin 64) (s : State) : Outc :=
  let i := stream.val
  let st := strOf s i
  -- a stream enabled before the data plane starts takes effect when it starts (R460)
  if st.enabled && !s.pwr.plane then done s
  else if st.cfg.kind = 6 then
    match entryStamps st with
    | [] => done s
    | x :: xs =>
      let t := xs.foldl min x
      done (autoRelease i (dueEntries i t (s.at_ (entryDeadline s st.cfg t))))
  else
    match nextDeadline s i with
    | none => done s
    | some d => done (autoRelease i (forAll d.2 (s.at_ d.1) fun s ch => dueOutput i ((strOf s i).due.getD ch 0) ch d.1 s))

/-! ### STREAM_DEFINE (R182, R183, R190, R376, R496) -/

/-- Whether slots below 96 lie in part 0, the rest 118 to a part: the part and offset of slot entry `k`, for the parts
as they came. -/
def slotPlace : Nat → List (List Byte) → Nat → Nat × Nat
  | _, [], _ => (0, 48)
  | n, p :: ps, k =>
    let ofs := if n = 0 then 48 else 4
    let cnt := (p.length - ofs) / 2
    if k < cnt then (n, ofs + 2 * k) else slotPlace (n + 1) ps (k - cnt)

/-- The slot list of the parts. -/
def partSlots (ps : List (List Byte)) : List Nat :=
  ((List.range ps.length).map fun n =>
    let p := ps.getD n []
    let ofs := if n = 0 then 48 else 4
    (List.range ((p.length - ofs) / 2)).map fun k => rd p (ofs + 2 * k) 2).flatten

def streamDefOf (ps : List (List Byte)) : StreamDef :=
  let p := ps.headD []
  { kind := rd p 5 1, rate := rd p 6 1, skind := rd p 7 1, slots := partSlots ps, dest := rd p 10 1, opts := rd p 11 1, roGroup := rd p 12 1,
    target := rd p 13 1, port := if rd p 14 2 = 0 then 47616 + rd p 4 1 else rd p 14 2, block := rd p 16 4, retain := rd p 20 4,
    rto := if rd p 24 2 = 0 then 20 else rd p 24 2, pars := (List.range 4).map fun k => rdS p (28 + 4 * k) 4 }

/-- The length of a part: part 0 carries up to 96 slots from offset 48, a later part up to 118 from offset 4. -/
def chkStreamPart (k : Nat) (p : List Byte) : Ans :=
  let ofs := if k = 0 then 48 else 4
  let most := if k = 0 then 96 else 118
  firstOf [(decide (p.length < ofs) || (p.length - ofs) % 2 != 0 || decide (most < (p.length - ofs) / 2), .refuse .badArgument (65536 * k + 4))] (.reply 0 [])

def in24 (v : Int) : Bool := decide (-8388608 ≤ v) && decide (v ≤ 8388607)

/-- The ranges of P1 to P4 (R194, R196). -/
def parOk (kind k : Nat) (v : Int) : Bool :=
  match kind, k with
  | 4, 0 => decide (1 ≤ v) && decide (v ≤ 524288)
  | 4, 1 => in24 v
  | 4, 2 => decide (1 ≤ v) && decide (v ≤ 524288)
  | 4, 3 => decide (0 ≤ v) && decide (v ≤ 1048576)
  | 5, 0 => in24 v
  | 5, 1 => decide (1 ≤ v) && decide (v ≤ 262144)
  | _, _ => v == 0

/-- The class of a slot: 0 precision and spare, 1 wideband, 2 auxiliary. -/
def slotClass (n : Nat) : Nat := if n < 528 then 0 else if n < 544 then 1 else 2

/-- The rate at which a slot runs; none for an auxiliary slot. -/
def slotRate (s : State) (n : Nat) : Option Nat := if isWb n then some 15 else if isAux n then none else some (chanOf s n).rate

/-- Whether a slot entry is sound for a definition (R182, R183). -/
def slotEntryOk (s : State) (c : StreamDef) (k : Nat) : Bool :=
  let n := c.slots.getD k 0
  decide (n ≤ 607) && !((c.slots.take k).contains n) && slotClass n == slotClass (c.slots.headD 0) &&
  (if c.kind = 6 then true else if isAux n then auxOnGrid s n c.rate else slotRate s n == some c.rate)

/-- The instances that a definition needs. -/
def instsOf (c : StreamDef) : List RedInst :=
  if 1 ≤ c.kind ∧ c.kind ≤ 5 then
    c.slots.map fun n => { slot := n, skind := c.skind, kind := c.kind, rate := c.rate, target := c.target,
                           period := if intervalKind c.kind then c.block else 0, pars := if intervalKind c.kind then c.pars else [0, 0, 0, 0] }
  else []

/-- One instance (R190): slot, sample kind, reduction kind and parameters. -/
def sameInst (a b : RedInst) : Bool :=
  a.slot == b.slot && a.skind == b.skind && a.kind == b.kind && a.target == b.target && a.period == b.period && a.pars == b.pars

/-- The different instances of a slot among records. -/
def distinctOn (rs : List RedInst) (slot : Nat) : List RedInst :=
  rs.foldl (fun a r => if r.slot != slot || a.any (sameInst r) then a else a ++ [r]) []

/-- The instances that the other defined streams keep. -/
def keptInsts (s : State) (i : Nat) : List RedInst :=
  s.str.red.filter fun r => (instStreams s r).any (· != i)

/-- The instances that a definition makes anew, and the KiB that their cells or bins take together: a definition's new
cells are one allocation (DEDUCED, log 21). -/
def newInsts (s : State) (c : StreamDef) : List RedInst := (instsOf c).filter fun r => !(s.str.red.any fun x => sameInst x r)

def newInstKiB (s : State) (c : StreamDef) : Nat := cdiv ((newInsts s c).length * redSize c.kind) 1024

def chkStreamDefine (s : State) (r : Req) : Ans :=
  let p := r.p
  let i := rd p 4 1
  let c := streamDefOf r.parts
  let cls := slotClass (c.slots.headD 0)
  let st := strOf s i
  let grid := decide (c.kind ≤ 3)
  let others := keptInsts s i
  firstOf ([(decide (63 < i), badAt 4), (decide (6 < c.kind) || (cls != 0 && c.kind != 0 && c.kind != 6) || (c.kind == 6 && cls != 2), badAt 5),
    ((if c.kind = 6 then c.rate != 0xFF else !(decide (c.rate < 12) || c.rate == 15)), badAt 6),
    (decide (1 < c.skind) || (c.skind == 1 && cls != 0), badAt 7),
    (decide (rd p 8 2 = 0) || decide (608 < rd p 8 2) || rd p 8 2 != c.chans, badAt 8),
    (decide (c.dest = 0) || decide (3 < c.dest), badAt 10), (decide (7 < c.opts), badAt 11), (decide (7 < c.roGroup), badAt 12),
    ((if 1 ≤ c.kind ∧ c.kind ≤ 3 then decide (11 < c.target) || rateRefs c.target % rateRefs c.rate != 0 || decide (ratio c < 2) else c.target != 0), badAt 13),
    ((if grid then decide (c.block = 0) || decide (65536 < c.block) || decide (4194304 < bodyBytes c c.block)
      else if c.kind = 6 then c.block != 0 else decide (c.block = 0) || decide (16777216 < c.block)), badAt 16),
    (decide (c.retain < 64) || decide (65536 < c.retain) || decide (c.retain < 2 * cdiv (64 + bodyBytes c (maxOutputs c) + 8 * b2n c.compressed) 1024), badAt 20),
    (decide (c.rto < 2) || decide (1000 < c.rto), badAt 24)] ++
    ((List.range 4).map fun k => (!parOk c.kind k (c.pars.getD k 0), badAt (28 + 4 * k))) ++
    ((List.range c.chans).map fun k => (!slotEntryOk s c k, let w := slotPlace 0 r.parts k; badPart w.1 w.2)) ++
    [(st.enabled || st.retained, .refuse .functionState 0),
     ((instsOf c).any (fun x => !(others.any (sameInst x)) && decide (4 ≤ (distinctOn others x.slot).length)), .refuse .noSpace 0)] ++
    [(match fit s 2 c.retain with | .ok _ => false | .error _ => true, .refuse .noSpace (match fit s 2 c.retain with | .ok _ => 0 | .error k => k))] ++
    [(decide (newInstKiB s c ≠ 0) && (match fit s 0 (newInstKiB s c) with | .ok _ => false | .error _ => true),
      .refuse .noSpace (match fit s 0 (newInstKiB s c) with | .ok _ => 0 | .error k => k))]) (.stage .ok 0)

/-- The retention allocated: base, size and an empty pool. -/
def allocRetention (i : Nat) (s : State) : State :=
  match fit s 2 (strOf s i).cfg.retain with
  | .error _ => s
  | .ok b => s.onStr i fun st => { st with retained := true, base := b * 1024, size := round64 st.cfg.retain * 1024,
                                           pool := { st.pool with cap := st.cfg.retain, free := st.cfg.retain, held := 0 } }

/-- A record at another input rate of an instance that has its cells already. -/
def otherRates (s : State) (c : StreamDef) : List RedInst :=
  ((instsOf c).filter fun r => !(s.str.red.any fun x => sameInst x r && x.rate == r.rate)).filterMap fun r =>
    (s.str.red.find? fun x => sameInst x r).map fun x => { r with base := x.base, extent := x.extent }

/-- New instances made and placed one after the other in one allocation; those that no stream uses are freed (R496). -/
def remakeInsts (i : Nat) (c : StreamDef) (s : State) : State :=
  let new := newInsts s c
  let kib := newInstKiB s c
  let ext : Nat × Nat := if kib = 0 then (0, 0) else match fit s 0 kib with | .ok b => (b, round64 kib) | .error _ => (0, 0)
  let placed := (List.range new.length).filterMap fun k => (new[k]?).map fun r => { r with extent := ext, base := ext.1 * 1024 + k * redSize c.kind }
  let stays (r : RedInst) : Bool := (instStreams s r).any (fun j => j != i) || (instsOf c).any fun x => sameInst r x && r.rate == x.rate
  { s with str := { s.str with red := s.str.red.filter stays ++ otherRates s c ++ placed } }

def appStreamDefine (r : Req) (s : State) : State :=
  let i := rd r.p 4 1
  let c := streamDefOf r.parts
  let s := remakeInsts i c s
  let s := s.onStr i fun st => { defd := true, cfg := c, brk := st.brk, pool := { st.pool with reclaimed := 0 }, due := List.replicate c.chans 0 }
  allocRetention i s

/-! ### STREAM_ENABLE, STREAM_DISABLE, STREAM_RELEASE, STREAM_DESCRIBE (R185, R186, R274, R377) -/

/-- The words of a stream in a number of refs (R274): a stamped stream counts its largest number of entries. -/
def wordRate (c : StreamDef) : Nat × Nat :=
  match c.kind with
  | 6 => (2 * ((c.slots.map fun n => (n - 544) / 16).eraseDups.length), 200)
  | k => (c.chans * wpo k, if intervalKind k then c.block * tickRefs else outRefs c)

/-- The exact sum of word rates, words in a number of refs. -/
def rateSum (rs : List (Nat × Nat)) : Nat × Nat := rs.foldl (fun a r => (a.1 * r.2 + r.1 * a.2, a.2 * r.2)) (0, 1)

/-- Whether the enabled compressed streams with one more stay within 200 M words/s (R274). -/
def rateFits (s : State) (c : StreamDef) : Bool :=
  let t := rateSum (((s.str.s.filter fun e => e.2.enabled && e.2.cfg.compressed).map fun e => wordRate e.2.cfg) ++ [wordRate c])
  decide (t.1 * refsPerSec ≤ 200000000 * t.2)

def chkStream (p : List Byte) (s : State) (rest : List (Bool × Ans)) (a : Ans) : Ans :=
  firstOf ([(decide (63 < rd p 0 1), badAt 0), (!(strOf s (rd p 0 1)).defd, .refuse .functionState notDefined)] ++ rest) a

/-- Whether a slot of an enable is disabled, or runs at another rate, or has left the grid (R185). -/
def slotUnfit (s : State) (c : StreamDef) (n : Nat) : Bool :=
  c.kind != 6 && (if isAux n then !auxOnGrid s n c.rate else !(chanOf s n).enabled || slotRate s n != some c.rate)

def chkStreamEnable (s : State) (r : Req) : Ans :=
  let i := rd r.p 0 1
  let st := strOf s i
  chkStream r.p s [(st.enabled, .refuse .functionState 0),
    (st.cfg.slots.any (slotUnfit s st.cfg), .refuse .functionState (match st.cfg.slots.find? (slotUnfit s st.cfg) with | some n => fnCode (fnState s n) | none => 0)),
    (!st.retained && (match fit s 2 st.cfg.retain with | .ok _ => false | .error _ => true),
      .refuse .noSpace (match fit s 2 st.cfg.retain with | .ok _ => 0 | .error k => k)),
    (st.cfg.compressed && !rateFits s st.cfg, .refuse .noSpace 0)] (.stage .ok 0)

/-- An interval instance starts at tick `n` unless it runs (R496). -/
def startInst (n : Nat) (r : RedInst) : RedInst :=
  match r.runs.getLast? with
  | none => { redClear r with runs := [(n, none)], nextIn := n0 n (rateRefs r.rate), intv := n / r.period, wait := [], cuts := [] }
  | some (_, some _) => { r with runs := r.runs ++ [(n, none)] }
  | some (_, none) => r

/-- The instances that a stream uses. -/
def instIdx (s : State) (c : StreamDef) : List Nat :=
  (List.range s.str.red.length).filter fun j => match redAt s j with | some r => usesInst c r && intervalKind r.kind | none => false

def appStreamEnable (r : Req) (s : State) : State :=
  let i := rd r.p 0 1
  let s := if (strOf s i).retained then s else allocRetention i s
  let n := s.tb.tick
  let s := s.onStr i fun st =>
    let start := if st.cfg.kind = 6 then n else outAt st.cfg n
    let st := { st with enabled := true, gaps := st.gaps ++ [(st.stopAt.getD start, start)], stopAt := none }
    { st with due := st.due.map (nextOut st), nextM := nextOut st st.nextM }
  let c := (strOf s i).cfg
  let s := forAll (instIdx s c) s fun s j =>
    match redAt s j with
    | some x => let s := if x.runs.isEmpty then redWipe j s else s
                s.onRed j (startInst n)
    | none => s
  if c.kind = 6 || c.recordsOnly || !(strOf s i).asm.isEmpty then s else openBlock i (nextOut (strOf s i) (strOf s i).nextM) s

def chkStreamDisable (s : State) (r : Req) : Ans :=
  chkStream r.p s [(!(strOf s (rd r.p 0 1)).enabled, .refuse .functionState 0)] (.stage .ok 0)

/-- A block in assembly that reaches past the end of a disable is cut short, or given back (R186). -/
def cutBlock (i e : Nat) (b : Block) (s : State) : State :=
  let st := strOf s i
  if intervalKind st.cfg.kind || st.cfg.kind == 6 then
    if st.cfg.kind != 6 && e ≤ b.first then dropBlock i none b s else s
  else if e ≤ b.first then dropBlock i none b s
  else if e < b.first + b.count then
    s.onStr i fun st => { st with asm := st.asm.map fun x => if x == b then
      { x with count := e - x.first, partial_ := true, body := x.body.take ((e - x.first) * st.cfg.chans * wpo st.cfg.kind) } else x }
  else s

def appStreamDisable (r : Req) (s : State) : State :=
  let i := rd r.p 0 1
  let n := s.tb.tick
  let c := (strOf s i).cfg
  let e := if c.kind = 6 then n else outAt c n
  let cut := intervalKind c.kind && n % c.block != 0
  let s := s.onStr i fun st => { st with enabled := false, stopAt := some e, cutTicks := if cut then st.cutTicks ++ [n] else st.cutTicks,
                                         due := if cut then st.due.map (min n) else st.due }
  -- an interval stream's block in assembly is for the emission of the next boundary, or of the cut
  let s := if intervalKind c.kind then
      forAll (strOf s i).asm s fun s b =>
        if n < b.first then (dropBlock i none b s).onStr i fun st => { st with nextM := n } else s
    else forAll (strOf s i).asm s fun s b => cutBlock i e b s
  let s := if cut && !c.recordsOnly && !((strOf s i).asm.any fun b => b.first == n) then openBlock i n (s.onStr i fun st => { st with nextM := n }) else s
  let s := forAll (instIdx s c) s fun s j =>
    match redAt s j with
    | some x =>
      let s := if cut then s.onRed j fun x => { x with cuts := x.cuts ++ [(n, i)] } else s
      if (instStreams s x).any fun k => (strOf s k).enabled then s
      else redRun j (s.onRed j fun x => { x with runs := match x.runs.getLast? with | some (a, none) => x.runs.dropLast ++ [(a, some n)] | _ => x.runs })
    | none => s
  let s := if c.recordsOnly && e ≤ nextOut (strOf s i) (strOf s i).nextM then endRun i s else s
  autoRelease i (closeAll i s)

def chkStreamRelease (s : State) (r : Req) : Ans :=
  chkStream r.p s [((strOf s (rd r.p 0 1)).enabled, .refuse .functionState 0)]
    (if (strOf s (rd r.p 0 1)).retained then .stage .ok 0 else .reply 0 [])

/-- The retention released: every word still in M is booked D, and words still to come are D at their deadline. -/
def appStreamRelease (r : Req) (s : State) : State :=
  let i := rd r.p 0 1
  if !(strOf s i).retained then s
  else
    let s := forAll ((strOf s i).blocks ++ (strOf s i).asm) s fun s b => dropBlock i (some (2, false)) b s
    s.onStr i fun st => { st with retained := false }

/-- The slots of a part as STREAM_DESCRIBE returns them: 96 in part 0, 118 in each later one. -/
def describeSlots (c : StreamDef) (k : Nat) : List Nat := if k = 0 then c.slots.take 96 else (c.slots.drop (96 + 118 * (k - 1))).take 118

def chkStreamDescribe (s : State) (r : Req) : Ans :=
  let i := rd r.p 0 1
  let k := rd r.p 1 1
  let c := (strOf s i).cfg
  let parts := 1 + cdiv (c.chans - 96) 118
  chkStream r.p s [(decide (parts ≤ k), badAt 1)]
    (.reply (defCrc i c).toNat (le 2 k ++ le 1 (b2n (k + 1 == parts)) ++ [0] ++ (if k = 0 then defFixed i c else [])
      ++ ((describeSlots c k).map (le 2)).flatten))

end Sys2Proof.Machine
end

