-- ==== Sys2Proof/Machine/Triggers.lean ====
section
/-! DEFINITION. Trigger sequencers, groups and fires (R205 to R228), with their commands and messages. -/
namespace Sys2Proof.Machine

/-! ### Conditions (R206, R207) -/

def cKind (c : BitVec 128) : Nat := bits c.toNat 127 124
def cSrc (c : BitVec 128) : Nat := bits c.toNat 123 114
def cEng (c : BitVec 128) : Bool := bit c.toNat 113
def cEdge (c : BitVec 128) : Nat := bits c.toNat 112 111
def cTarget (c : BitVec 128) : Nat := bits c.toNat 107 104
def cFire (c : BitVec 128) : Bool := bit c.toNat 103
def cInc (c : BitVec 128) : Bool := bit c.toNat 102
def cClr (c : BitVec 128) : Bool := bit c.toNat 101
def cRst (c : BitVec 128) : Bool := bit c.toNat 100
def cCidx (c : BitVec 128) : Nat := bits c.toNat 99 99
def cTidx (c : BitVec 128) : Nat := bits c.toNat 98 98
def cValue (c : BitVec 128) : Nat := bits c.toNat 95 64
def cThrA (c : BitVec 128) : Int := sgn 24 (bits c.toNat 63 40)
def cThrB (c : BitVec 128) : Int := sgn 24 (bits c.toNat 39 16)
def cMask (c : BitVec 128) : Nat := bits c.toNat 15 8

/-- Whether a condition reads a sample (kinds 2 to 8). -/
def sampleCond (c : BitVec 128) : Bool := decide (2 ≤ cKind c) && decide (cKind c ≤ 8)

/-- Whether every field of a condition is in range and its reserved bits are zero. -/
def condOk (c : BitVec 128) : Bool :=
  decide (cKind c ≤ 12) && bits c.toNat 110 108 == 0 && bits c.toNat 97 96 == 0 && bits c.toNat 7 0 == 0 &&
  (if sampleCond c then decide (cSrc c ≤ 607) && !(cEng c && decide (527 < cSrc c))
   else if cKind c = 9 ∨ cKind c = 10 then decide (cSrc c ≤ 15) && cEdge c != 3
   else if cKind c = 11 ∨ cKind c = 12 then decide (cSrc c ≤ 1) else true)

/-- The conditions of a sequencer's table, and the slots that its sample conditions name. -/
def condsOf (s : State) (i : Nat) : List (BitVec 128) := (seqrOf s i).table.map (·.2)

def condSlotsOf (s : State) (i : Nat) : List Nat := ((condsOf s i).filter sampleCond).map cSrc

/-- Whether an armed group uses a slot (R213). -/
def usesSlot (s : State) (n : Nat) : Bool := armedUses condSlotsOf s n

/-! ### Samples as an evaluation or a record reads them -/

/-- The grid rate at which an auxiliary slot is delivered. -/
def auxRate (s : State) (n : Nat) : Option Nat := (List.range 12).find? (auxOnGrid s n)

/-- The rate code of a slot as records and conditions see it. -/
def recRate (s : State) (n : Nat) : Option Nat := if isAux n then auxRate s n else slotRate s n

/-- Whether what is kept of a slot's samples is of its present rate. -/
def keptNow (s : State) (n : Nat) : Bool := recRate s n == some (chanOf s n).atRate

/-- The index after the newest committed sample of a slot at its present rate. -/
def nextAt (s : State) (n : Nat) : Nat := if keptNow s n then (chanOf s n).next else 0

/-- The newest committed samples of a slot at its present rate. -/
def recentAt (s : State) (n : Nat) : List (Nat × SampleWord × SampleWord) := if keptNow s n then (chanOf s n).recent else []

/-- The committed word of a slot at an index, from its newest samples. -/
def sampleAt (s : State) (n k : Nat) (eng : Bool) : Option SampleWord :=
  ((recentAt s n).find? fun e => e.1 == k).map fun e => if eng then e.2.2 else e.2.1

/-- Whether a slot's sample of an index is committed, or can come no more. -/
def sampleDue (s : State) (n k refs : Nat) : Bool :=
  (sampleAt s n k false).isSome || decide (k < nextAt s n) || decide (k * refs + latency s n < s.now)

/-! ### One evaluation (R207 to R210, R216, R217, R232) -/

/-- The earliest stamp of an input with a matching edge in (lo, hi], in 2^-16 ns. -/
def stampIn (s : State) (inp edge lo hi : Nat) : Option Nat :=
  (s.trg.stamps.filter fun x => x.1 == inp && decide (lo < x.2.1) && decide (x.2.1 ≤ hi)
    && (edge == 0 || (edge == 1) == bit x.2.2.toNat 7)).foldl (fun a x => match a with | some y => some (min y x.2.1) | none => some x.2.1) none

/-- Whether a condition holds at index n of a group (R207, R209), and the stamp that it was true by. -/
def condTrue (s : State) (q : Sequencer) (ign refs n : Nat) (c : BitVec 128) : Bool × Option Nat :=
  let w := (sampleAt s (cSrc c) n (cEng c)).getD badWord
  let w' := (sampleAt s (cSrc c) (n - 1) (cEng c)).getD badWord
  let ok (x : SampleWord) : Bool := (wFlags x).land (ign.lor fBad) == 0
  let v := wVal w
  let v' := wVal w'
  match cKind c with
  | 1 => (true, none)
  | 2 => (ok w && decide (cThrA c < v), none)
  | 3 => (ok w && decide (v < cThrA c), none)
  | 4 => (ok w && (decide (cThrA c < v) || decide (v < cThrB c)), none)
  | 5 => (ok w && decide (cThrB c ≤ v) && decide (v ≤ cThrA c), none)
  | 6 => (ok w && ok w' && decide (cThrA c ≤ v - v'), none)
  | 7 => (ok w && ok w' && decide (cThrA c ≤ v' - v), none)
  | 8 => ((wFlags w).land (cMask c) != 0, none)
  | 9 => let x := stampIn s (16 + cSrc c) (cEdge c) ((n - 1) * refs * fuPerRef) (n * refs * fuPerRef); (x.isSome, x)
  | 10 => let x := stampIn s (cSrc c) (cEdge c) ((n - 1) * refs * fuPerRef) (n * refs * fuPerRef); (x.isSome, x)
  | 11 => (decide (cValue c ≤ n * refs - tget q.tmr (cSrc c) 0), none)
  | 12 => (decide (cValue c ≤ (tget q.cnt (cSrc c) 0).toNat), none)
  | _ => (false, none)

/-- A transition's actions in the order CLR, INC, RST (R210). -/
def takeCond (c : BitVec 128) (t : Nat) (q : Sequencer) : Sequencer :=
  let q := { q with state := cTarget c }
  let q := if cClr c then { q with cnt := tset q.cnt (cCidx c) 0 } else q
  let q := if cInc c then { q with cnt := tset q.cnt (cCidx c) (BitVec.ofNat 32 (min ((tget q.cnt (cCidx c) 0).toNat + 1) 0xFFFFFFFF)) } else q
  if cRst c then { q with tmr := tset q.tmr (cTidx c) t } else q

/-- The conditions A and B of a sequencer's present state. -/
def condA (q : Sequencer) : BitVec 128 := tget q.table (2 * q.state) 0
def condB (q : Sequencer) : BitVec 128 := tget q.table (2 * q.state + 1) 0

/-- The members of a group that evaluate. -/
def members (s : State) (c : GroupDef) : List Nat := (List.range 8).filter fun i => bit c.seqMask i && !fnOut s (fnSeqr i)

/-- One member at index n: its new state, its bits of the cause mask, and its fire's trigger point. -/
def memberEval (s : State) (c : GroupDef) (n i : Nat) : Sequencer × Nat × Option Nat :=
  let q := seqrOf s i
  let refs := rateRefs c.rate
  let a := condTrue s q c.ignore.toNat refs n (condA q)
  let b := condTrue s q c.ignore.toNat refs n (condB q)
  let bitsN := b2n a.1 * 2 ^ (2 * i) + b2n b.1 * 2 ^ (2 * i + 1)
  let t := n * refs
  let go (k : BitVec 128) (x : Option Nat) : Sequencer × Nat × Option Nat :=
    (takeCond k t q, bitsN + (if cFire k then 2 ^ (24 + i) else 0), if cFire k then some (x.getD (t * fuPerRef)) else none)
  if a.1 then go (condA q) a.2 else if b.1 then go (condB q) b.2 else (q, bitsN, none)

/-! ### Records at acceptance (R218 to R222, R225, R230, R238) -/

/-- A slot's kept words with their indices, newest first: its history, else its newest samples. -/
def heldWords (s : State) (n dkind : Nat) : List (Nat × SampleWord) :=
  match histOf s n dkind with
  | some h => if keptNow s n then h.ring.map fun e => (e.1, (histWord s h e.1).getD badWord) else []
  | none => (recentAt s n).map fun e => (e.1, if dkind = 1 then e.2.2 else e.2.1)

/-- The words that a slot keeps at most: with so many, older ones are gone. -/
def heldMost (s : State) (n dkind : Nat) : Nat := match histOf s n dkind with | some h => h.depth | none => 128

/-- The oldest index that a slot's part of a record can begin at; with nothing held, the first that will be (R222, R247). -/
def oldestHeld (s : State) (n dkind refs : Nat) : Nat :=
  match (heldWords s n dkind).getLast? with
  | some e => e.1
  | none => max (nextAt s n) (match (chanOf s n).chains.getLast? with | some c => cdiv c.lo refs | none => 0)

/-- The first index at or after an instant in 2^-16 ns. -/
def idxFrom (t : Int) (refs : Nat) : Nat := if t ≤ 0 then 0 else cdiv t.toNat (refs * fuPerRef)

/-- The refs per sample of a record slot at its present rate. -/
def partRefs (s : State) (r : RecSlot) : Nat := rateRefs ((recRate s r.slot).getD 0)

/-- The first index of a record slot's window with trigger point `trig` (R218). -/
def partLo (s : State) (c : GroupDef) (trig : Nat) (r : RecSlot) : Nat := idxFrom ((trig : Int) - (c.tPre * fuPerRef : Nat)) (partRefs s r)

/-- One slot's part of a record, with the words that are committed already (R218, R222, R225), and whether it is cut short.
`snap` holds the slot's oldest index and words at the instant at which an earlier fire was handled. -/
def mkPart (s : State) (c : GroupDef) (trig : Nat) (snap : Option (Nat × List (Nat × SampleWord))) (r : RecSlot) : RecPart × Bool :=
  let rate := (recRate s r.slot).getD 0
  let refs := partRefs s r
  let lo := partLo s c trig r
  let mid := idxFrom trig refs
  let hi := idxFrom ((trig + c.tPost * fuPerRef : Nat) : Int) refs
  let old := match snap with | some x => x.1 | none => oldestHeld s r.slot r.dkind refs
  let first := min hi (if old ≤ lo then lo else old)
  let held := heldWords s r.slot r.dkind ++ (match snap with | some x => x.2 | none => [])
  let upto := min hi (nextAt s r.slot)
  let words := (List.range (upto - first)).map fun k => ((held.find? fun e => e.1 == first + k).map (·.2)).getD badWord
  ({ slot := r.slot, dkind := r.dkind, rate, aTh := r.aTh, first, nPre := mid - first, nPost := hi - max first mid, words }, decide (lo < first))

/-- A fire with its trigger point in the past, as it is handled (R215, R225): what the record slots hold of its window then,
and whether the history of one no longer reaches back. -/
def handled (s : State) (c : GroupDef) (f : Fire) : Fire :=
  { f with
    held := c.slots.map fun r => (oldestHeld s r.slot r.dkind (partRefs s r),
      (heldWords s r.slot r.dkind).filter fun e => decide (partLo s c f.trig r ≤ e.1)),
    late := c.slots.any fun r => decide (partLo s c f.trig r < oldestHeld s r.slot r.dkind (partRefs s r))
      && decide (heldMost s r.slot r.dkind ≤ (heldWords s r.slot r.dkind).length) }

def recHead : Nat := 128

/-- Bytes reserved for C slots with so many words (R221). -/
def recReserve (c words : Nat) : Nat := cdiv (128 + 96 * c + 8192 + 4 * words) 64 * 64

/-- First fit of `n` bytes on a 64-byte boundary in a group's area, the `AREA` KiB of its definition. -/
def recFit (g : Group) (n : Nat) : Option Nat :=
  let al := (g.recs.map fun r => (r.ofs, r.reserved)).foldl (fun l a => insAlloc a l) []
  ((gaps g.base (g.base + g.cfg.area * 1024) al).find? fun x => decide (n ≤ x.2)).map (·.1)

/-- A group's definition's CRC (R231, R378). -/
def grpCrc (g : Group) : BitVec 32 := crc32 g.cfg.bytes

/-- The trigger time's fields: seconds, nanoseconds and 2^-16 ns. -/
def trigSec (t : Nat) : Nat := t / fuPerSec
def trigNs (t : Nat) : Nat := t % fuPerSec / 65536
def trigFrac (t : Nat) : Nat := t % 65536

/-- The fires of an evaluation merged into one (R216): t_trig the earliest, the causes united. -/
def mergeFires (fs : List Fire) : Option Fire :=
  match fs with
  | [] => none
  | f :: r => some (r.foldl (fun a b =>
      let net := if a.network then a else b
      { trig := min a.trig b.trig, cause := a.cause ||| b.cause, members := a.members.lor b.members, network := a.network || b.network,
        forced := a.forced || b.forced, origHub := net.origHub, origRec := net.origRec, origCause := net.origCause,
        named := a.named || b.named, send := a.send || b.send, late := a.late || b.late,
        held := if a.trig < b.trig || (a.trig == b.trig && !a.held.isEmpty) then a.held else b.held }) f)

/-- MISSED_FIRE (R220, R491). -/
def missFire (g cause : Nat) (f : Fire) (s : State) : State :=
  let s := s.onGrp g fun x => { x with missed := x.missed + 1, missHold := if cause = 0 then x.missHold + 1 else x.missHold,
                                       missSpc := if cause = 1 then x.missSpc + 1 else x.missSpc }
  postTos (maskQueues (grpOf s g).cfg.queues) 0x30 3 g cause
    (le 6 (trigSec f.trig) ++ le 2 (trigFrac f.trig) ++ le 4 (trigNs f.trig)
      ++ le 1 (b2n (f.members != 0) + 2 * b2n f.network + 4 * b2n f.forced) ++ le 1 f.members ++ le 2 (if f.network then f.origHub.toNat else 0)) s

/-- The payload of a fire, arm or disarm message, with its tag (R223). -/
def trigMessage (s : State) (type : Nat) (c : GroupDef) (rest : List Byte) : List Byte :=
  let b := padTo 48 (le 1 type ++ le 1 4 ++ le 1 c.keyId ++ [0] ++ le 4 c.netGroup.toNat ++ le 2 (hubNo s) ++ zeros 2 ++ rest)
  b ++ hmacTag (keyOf s c.keyId) b

def sendFire (c : GroupDef) (recNo : BitVec 32) (f : Fire) (s : State) : State :=
  sendUdp c.mcAddr c.mcPort 7 (trigMessage s 0x10 c
    (le 4 recNo.toNat ++ le 6 (trigSec f.trig) ++ le 2 (trigFrac f.trig) ++ le 4 (trigNs f.trig) ++ le 4 f.cause.toNat
      ++ le 6 (secOf s.now) ++ zeros 2 ++ le 4 (nsOf s.now))) s

/-- A merged fire accepted as a record, or missed (R219, R221, R238). `owed` are the forces that took part. -/
def handleFire (g : Nat) (f : Fire) (owed : List Owed) (s : State) : State :=
  let x := grpOf s g
  let c := x.cfg
  let tell (d : Nat) (s : State) : State := forAll owed s fun s o => complete o .ok d s.tb.tick s
  match x.lastE with
  | some e => if f.trig < e then tell notDefined (missFire g 0 f s) else go x c tell s
  | none => go x c tell s
where
  go (x : Group) (c : GroupDef) (tell : Nat → State → State) (s : State) : State :=
    let ps := c.slots.zipIdx.map fun e => mkPart s c f.trig f.held[e.2]? e.1
    let short := f.late || ps.any (·.2)
    let late := f.late
    let words := ps.foldl (fun a p => a + p.1.nPre + p.1.nPost) 0
    let n := recReserve c.slots.length words
    match recFit x n with
    | none => tell notDefined (missFire g 1 f s)
    | some o =>
      let fl := 2 * b2n short + 4 * b2n late + 8 * b2n f.network + 16 * b2n f.forced + 32 * b2n (x.missed != 0)
        + 128 * b2n (holdAt s.tb.holdLog (f.trig / fuPerRef))
      let no := x.recNo
      let r : Record := { no, trig := f.trig, fireT := s.now, flags := BitVec.ofNat 16 fl, cause := f.cause,
                          origHub := if f.network then f.origHub else BitVec.ofNat 16 (hubNo s), origRec := if f.network then f.origRec else no,
                          origCause := if f.network then f.origCause else 0, missed := x.missed, armTick := x.armTick, parts := ps.map (·.1),
                          ofs := o, reserved := n, tPre := c.tPre, tPost := c.tPost, netGroup := c.netGroup, defCrc := grpCrc x }
      let s := s.onGrp g fun x => { x with recNo := x.recNo + 1, missed := 0, recs := x.recs ++ [r],
                                           lastE := some (f.trig + (c.tPost + c.tRearm) * fuPerRef),
                                           recWins := (f.trig - c.tPre * fuPerRef, f.trig + c.tPost * fuPerRef) :: x.recWins }
      let s := if bit c.nflags 0 && (f.members != 0 || f.send) then sendFire c no f s else s
      tell no.toNat s

/-! ### Arming and disarming (R214) -/

/-- Whether a group counts as armed for a request: armed, and no disarm stands. -/
def armedNow (g : Group) : Bool := (g.armed && g.stopAt.isNone) || g.rearm.isSome

/-- A group armed at tick n (R214): every member starts anew at the index of R68. -/
def armAt (g n : Nat) (s : State) : State :=
  let c := (grpOf s g).cfg
  let k := n0 n (rateRefs c.rate)
  let s := s.onGrp g fun x => { x with armed := true, armTick := n, next := k, stopAt := none, rearm := none, lastE := none, fires := [] }
  forAll ((List.range 8).filter (bit c.seqMask)) s fun s i =>
    s.onSeqr i fun q => { q with state := 0, cnt := [(0, 0), (1, 0)], tmr := [(0, k * rateRefs c.rate), (1, k * rateRefs c.rate)] }

/-- The group is no longer armed: fires that no evaluation took are discarded, forces complete with `FUNCTION_STATE`. -/
def disarmed (g : Nat) (s : State) : State :=
  let x := grpOf s g
  let nets := (x.fires.filter (·.network)).length
  let s := s.onGrp g fun x => { x with armed := false, stopAt := none, fires := [], disarmed := min 0xFFFF (x.disarmed + nets) }
  let s := forAll (x.fires.filterMap (·.owed)) s fun s o => complete o .functionState 0 s.tb.tick s
  match x.rearm with
  | some n => armAt g n s
  | none => s

/-- A disarm at tick n: the members stop after the last index before n0. -/
def disarmAt (g n : Nat) (s : State) : State :=
  let x := grpOf s g
  if !x.armed then s
  else
    let e := n0 n (rateRefs x.cfg.rate)
    if e ≤ x.next then disarmed g s else s.onGrp g fun x => { x with stopAt := some (match x.stopAt with | some y => min y e | none => e), rearm := none }

/-- The record slots' and members' conditions at arming (R214). -/
def armOk (s : State) (g : Nat) : Bool :=
  let c := (grpOf s g).cfg
  ((List.range 8).all fun i => !bit c.seqMask i || (condSlotsOf s i).all fun n => recRate s n == some c.rate) &&
  c.slots.all fun r => match recRate s r.slot with
    | some rate => decide (c.tPre ≤ histDepth s r.slot r.dkind (rateRefs rate))
    | none => false

def armGroup (g n : Nat) (s : State) : State :=
  let x := grpOf s g
  if armedNow x || !armOk s g then s
  else if x.armed then s.onGrp g fun x => { x with rearm := some n }
  else armAt g n s

/-! ### TRIG_EVALUATION (R208, R216) -/

/-- Whether index n may be evaluated: every sample that it reads is committed, and its instant lies behind, so that every
stamp up to it has been taken (R208). -/
def evalReady (s : State) (c : GroupDef) (n : Nat) : Bool :=
  let refs := rateRefs c.rate
  decide (n * refs < s.now) &&
  (members s c).all fun i =>
    [condA (seqrOf s i), condB (seqrOf s i)].all fun k => !sampleCond k || sampleDue s (cSrc k) n refs

/-- TRIG_EVALUATION (R210, R216): the group's next index, once the samples that it reads are committed. -/
def execTrigEvaluation (group : Fin 8) (t : Nat) (s : State) : Outc :=
  let s := s.at_ t
  let g := group.val
  let x := grpOf s g
  if !x.armed || !evalReady s x.cfg x.next then done s
  else
    let n := x.next
    let rs := (members s x.cfg).map fun i => (i, memberEval s x.cfg n i)
    let s := forAll rs s fun s r => s.onSeqr r.1 fun _ => r.2.1
    let cause := rs.foldl (fun a r => a + r.2.2.1) 0
    let fired := rs.filter fun r => r.2.2.2.isSome
    let own : List Fire := match fired with
      | [] => []
      | _ => [{ trig := (fired.filterMap fun r => r.2.2.2).foldl min ((fired.filterMap fun r => r.2.2.2).headD 0), cause := BitVec.ofNat 32 cause,
                members := fired.foldl (fun a r => a + 2 ^ r.1) 0 }]
    let fs := own ++ x.fires
    let s := s.onGrp g fun x => { x with next := n + 1, fires := [] }
    let s := match mergeFires fs with
      | some f => handleFire g { f with cause := f.cause ||| BitVec.ofNat 32 (if fired.isEmpty then cause else 0) } (x.fires.filterMap (·.owed)) s
      | none => s
    done (match x.stopAt with | some e => if e ≤ n + 1 then disarmed g s else s | none => s)

/-! ### Messages of other hubs (R224, R228) -/

/-- Whether a trigger message is well formed and its tag holds. -/
def trigTagOk (s : State) (type : Nat) (b : List Byte) : Bool :=
  b.length == 64 && rd b 0 1 == type && rd b 1 1 == 4 && decide (rd b 2 1 < 8) && hmacTag (keyOf s (rd b 2 1)) (b.take 48) == b.drop 48

/-- The defined groups of a network group with a flag bit set. -/
def netGroups (s : State) (ng flag : Nat) : List Nat :=
  (List.range 8).filter fun g => (grpOf s g).defd && (grpOf s g).cfg.netGroup.toNat == ng && bit (grpOf s g).cfg.nflags flag

/-- FIRE_MESSAGE_RECEIVED (R224): discarded and counted, or a fire of the matching group. -/
def execFireMessageReceived (d : Dgram) (t : Nat) (s : State) : Outc :=
  let s := s.at_ t
  let b := d.body
  let gs := netGroups s (rd b 4 4) 1
  let hub := BitVec.ofNat 16 (rd b 8 2)
  let no := BitVec.ofNat 32 (rd b 12 4)
  if hmacTag (keyOf s (rd b 2 1)) (b.take 48) != b.drop 48 then done (authFailAt d.port.val s)
  else if !trigTagOk s 0x10 b || gs.isEmpty || hub.toNat == hubNo s || s.trg.handled.contains (hub, no) then done (discardAt d.port.val s)
  else
    let s := { s with trg := { s.trg with handled := (hub, no) :: s.trg.handled } }
    let f : Fire := { trig := fuOf (rd b 16 6) (rd b 24 4) (rd b 22 2), cause := 2 ^ 18, network := true, origHub := hub, origRec := no,
                      origCause := BitVec.ofNat 32 (rd b 28 4) }
    done (forAll gs s fun s g => s.onGrp g fun x =>
      if x.armed then { x with fires := x.fires ++ [handled s x.cfg f] } else { x with disarmed := min 0xFFFF (x.disarmed + 1) })

/-- An arm or disarm named by a message (R228): at its tick, or at the next boundary where that has begun. -/
def armMessage (arm : Bool) (d : Dgram) (s : State) : State :=
  let b := d.body
  let gs := netGroups s (rd b 4 4) 2
  if !s.pwr.fwUp then s
  else if hmacTag (keyOf s (rd b 2 1)) (b.take 48) != b.drop 48 then authFailAt d.port.val s
  else if !trigTagOk s (if arm then 0x11 else 0x12) b || rd b 8 2 == hubNo s then discardAt d.port.val s
  else
    let n := rd b 16 8
    forAll gs s fun s g =>
      if s.tb.tick < n then s.onGrp g fun x => { x with armAt := x.armAt ++ [(n, arm)] }
      else
        let s := s.onGrp g fun x => { x with armAt := x.armAt ++ [(s.tb.tick + 1, arm)], lateArm := true }
        post 0x31 3 g (s.tb.tick + 1) [] s

/-- ARM_MESSAGE_RECEIVED (R228). -/
def execArmMessageReceived (d : Dgram) (s : State) : Outc := done (armMessage true d s)

/-- DISARM_MESSAGE_RECEIVED (R228). -/
def execDisarmMessageReceived (d : Dgram) (s : State) : Outc := done (armMessage false d s)

/-- The arms and disarms that messages named for the present tick. -/
def runArms (s : State) : State :=
  forN 8 s fun s g =>
    let due := (grpOf s g).armAt.filter fun a => a.1 ≤ s.tb.tick
    let s := s.onGrp g fun x => { x with armAt := x.armAt.filter fun a => s.tb.tick < a.1 }
    forAll due s fun s a => if a.2 then armGroup g s.tb.tick s else disarmAt g s.tb.tick s

/-! ### TRIG_SEQ_LOAD (R205, R206, R213, R378) -/

def partConds (p : List Byte) : List (Nat × BitVec 128) :=
  (List.range (2 * rd p 6 1)).map fun k => (2 * rd p 5 1 + k, BitVec.ofNat 128 (rd p (8 + 16 * k) 16))

/-- The checks of one part. -/
def chkSeqPart (k : Nat) (p : List Byte) : Ans :=
  firstOf ([(decide (7 < rd p 4 1), badPart k 4), (decide (15 < rd p 5 1), badPart k 5), (decide (rd p 6 1 = 0) || decide (7 < rd p 6 1), badPart k 6),
    (decide (p.length ≠ 8 + 32 * rd p 6 1), .refuse .badArgument (65536 * k + 4)), (decide (16 < rd p 5 1 + rd p 6 1), badPart k 5)] ++
    (List.range (2 * rd p 6 1)).map fun j => (!condOk (BitVec.ofNat 128 (rd p (8 + 16 * j) 16)), badPart k (8 + 16 * j))) (.reply 0 [])

/-- Whether a sequencer is a member of an armed group, up to a disarm's last evaluation (R213, R214). -/
def memberArmed (s : State) (i : Nat) : Bool := s.trg.grp.any fun e => (e.2.armed || e.2.rearm.isSome) && bit e.2.cfg.seqMask i

def chkTrigSeqLoad (s : State) (r : Req) : Ans :=
  firstOf [(memberArmed s (rd r.p 4 1), .refuse .functionState 0)] (.stage .ok 0)

/-- The shadow table takes its place; a state that no part wrote keeps its conditions (log 24). -/
def appTrigSeqLoad (r : Req) (s : State) : State :=
  s.onSeqr (rd r.p 4 1) fun q => { q with table := ((r.parts.map partConds).flatten).foldl (fun t e => tset t e.1 e.2) q.table }

/-! ### TRIG_GROUP_DEFINE (R211, R212, R378) -/

/-- The slot entries of the parts, with their places. -/
def grpEntries (ps : List (List Byte)) : List (Nat × Nat × List Byte) :=
  ((List.range ps.length).map fun k =>
    let p := ps.getD k []
    let o := if k = 0 then 52 else 4
    (List.range ((p.length - o) / 8)).map fun j => (k, o + 8 * j, (p.drop (o + 8 * j)).take 8)).flatten

def chkGroupPart (k : Nat) (p : List Byte) : Ans :=
  let o := if k = 0 then 52 else 4
  let most := if k = 0 then 23 else 29
  firstOf [(decide (p.length < o) || (p.length - o) % 8 != 0 || decide (most < (p.length - o) / 8), .refuse .badArgument (65536 * k + 4))] (.reply 0 [])

def groupDefOf (ps : List (List Byte)) : GroupDef :=
  let p := ps.headD []
  let es := grpEntries ps
  { rate := rd p 5 1, seqMask := rd p 6 1, ignore := if rd p 7 1 = 0 then 0xA9 else BitVec.ofNat 8 (rd p 7 1), events := rd p 8 2,
    queues := rd p 10 1, nflags := rd p 11 1, slots := es.map fun e => { slot := rd e.2.2 0 2, dkind := rd e.2.2 2 1, aTh := rd e.2.2 4 4 },
    keyId := rd p 13 1, mcPort := rd p 14 2, tPre := rd p 16 4, tPost := rd p 20 4, tRearm := rd p 24 4, area := rd p 28 4,
    netGroup := BitVec.ofNat 32 (rd p 32 4), mcAddr := BitVec.ofNat 128 (beNat ((p.drop 36).take 16)),
    bytes := (p.drop 4).take 48 ++ (es.map fun e => e.2.2).flatten }

/-- Words of the largest record of a definition (R212). -/
def largestWords (s : State) (c : GroupDef) : Nat :=
  c.slots.foldl (fun a r => a + (match recRate s r.slot with | some x => cdiv (c.tPre + c.tPost) (rateRefs x) | none => 0)) 0

/-- First fit for a group's area, its own old area freed (R245). -/
def fitArea (s : State) (g kib : Nat) : Except Nat Nat := fit (s.onGrp g fun x => { x with size := 0 }) 3 kib

def chkTrigGroupDefine (s : State) (r : Req) : Ans :=
  let p := r.p
  let g := rd p 4 1
  let c := groupDefOf r.parts
  let es := grpEntries r.parts
  let other (i : Nat) : Bool := s.trg.grp.any fun e => e.1 != g && e.2.defd && bit e.2.cfg.seqMask i
  firstOf ([(decide (7 < g), badAt 4), (!(decide (c.rate < 12) || c.rate == 15), badAt 5),
    ((List.range 8).any (fun i => bit c.seqMask i && (other i || (condSlotsOf s i).any fun n => recRate s n != some c.rate)), badAt 6),
    (decide (15 < c.queues), badAt 10), (decide (7 < c.nflags), badAt 11),
    (decide (rd p 12 1 = 0) || decide (64 < rd p 12 1) || rd p 12 1 != c.slots.length, badAt 12), (decide (7 < c.keyId), badAt 13),
    (c.slots.any (fun x => match recRate s x.slot with | some q => decide (histDepth s x.slot x.dkind (rateRefs q) < c.tPre) | none => false), badAt 16),
    (decide (c.tPost = 0), badAt 20),
    (c.mcAddr != 0 && !onLink s c.mcAddr, badAt 36),
    (decide (c.area * 1024 < recReserve c.slots.length (largestWords s c)), badAt 28)] ++
    ((es.map fun e =>
      let n := rd e.2.2 0 2
      let d := rd e.2.2 2 1
      [(decide (607 < n) || (isAux n && (auxRate s n).isNone), badPart e.1 e.2.1), (decide (1 < d) || (d == 1 && decide (527 < n)), badPart e.1 (e.2.1 + 2)),
       (rd e.2.2 3 1 != 0, badPart e.1 (e.2.1 + 3)), (decide (8388607 < rd e.2.2 4 4), badPart e.1 (e.2.1 + 4))]).flatten) ++
    [(armedNow (grpOf s g) || (grpOf s g).armed, .refuse .functionState 0),
     (match fitArea s g c.area with | .ok _ => false | .error _ => true, .refuse .noSpace (match fitArea s g c.area with | .ok _ => 0 | .error k => k))]) (.stage .ok 0)

def appTrigGroupDefine (r : Req) (s : State) : State :=
  let g := rd r.p 4 1
  let c := groupDefOf r.parts
  let x := grpOf s g
  match fitArea s g c.area with
  | .error _ => s
  | .ok b => s.onGrp g fun _ => { defd := true, cfg := c, base := b * 1024, size := round64 c.area * 1024, lateArm := false, recWins := x.recWins }

/-! ### TRIG_ARM, TRIG_DISARM, TRIG_FORCE, TRIG_STATUS (R214, R215, R228, R378) -/

def chkGroup (p : List Byte) (s : State) (rest : List (Bool × Ans)) (a : Ans) : Ans :=
  firstOf ([(decide (7 < rd p 0 1), badAt 0), (!(grpOf s (rd p 0 1)).defd, .refuse .functionState notDefined)] ++ rest) a

def chkTrigArm (s : State) (r : Req) : Ans :=
  let g := rd r.p 0 1
  chkGroup r.p s [(decide (1 < rd r.p 1 1), badAt 1), (!armedNow (grpOf s g) && !armOk s g, .refuse .functionState 0)]
    (if armedNow (grpOf s g) then .reply 0 [] else .stage .ok 0)

def appTrigArm (r : Req) (s : State) : State := armGroup (rd r.p 0 1) s.tb.tick s

def chkTrigDisarm (s : State) (r : Req) : Ans :=
  let g := rd r.p 0 1
  chkGroup r.p s [(decide (1 < rd r.p 1 1), badAt 1)] (if armedNow (grpOf s g) then .stage .ok 0 else .reply 0 [])

def appTrigDisarm (r : Req) (s : State) : State :=
  let g := rd r.p 0 1
  if (grpOf s g).rearm.isSome then s.onGrp g fun x => { x with rearm := none } else disarmAt g s.tb.tick s

/-- The ARM or DISARM message of a validated request with its propagate flag set (R228). -/
def propagate (arm : Bool) (r : Req) (s : State) : State :=
  let c := (grpOf s (rd r.p 0 1)).cfg
  if bit (rd r.p 1 1) 0 then
    sendUdp c.mcAddr c.mcPort 7 (trigMessage s (if arm then 0x11 else 0x12) c (zeros 4 ++ le 8 r.tick)) s
  else s

/-- The trigger point of a force (R215). -/
def forceTrig (r : Req) : Nat :=
  if bit (rd r.p 1 1) 0 then fuOf (rd r.p 8 8) (rd r.p 4 4) (rd r.p 2 2) else r.tick * tickRefs * fuPerRef

def chkTrigForce (s : State) (r : Req) : Ans :=
  chkGroup r.p s [(decide (3 < rd r.p 1 1), badAt 1),
    (bit (rd r.p 1 1) 0 && decide (999999999 < rd r.p 4 4), badAt 4),
    (decide (r.tick * tickRefs * fuPerRef < forceTrig r), badAt 8)] (.stage .accepted 0)

/-- The fire of a force. -/
def forceFire (o : Owed) (r : Req) : Fire :=
  { trig := forceTrig r, cause := 2 ^ 19, forced := true, named := bit (rd r.p 1 1) 0, send := bit (rd r.p 1 1) 1, owed := some o }

/-- The forced fire is handled at the apply tick's boundary; the history of a named time is judged there (R215). -/
def appTrigForce (o : Owed) (r : Req) (s : State) : State :=
  let g := rd r.p 0 1
  let f := forceFire o r
  if !(grpOf s g).armed then complete o .functionState 0 s.tb.tick s
  else s.onGrp g fun x => { x with fires := x.fires ++ [if f.named then handled s x.cfg f else f] }

def chkTrigStatus (s : State) (r : Req) : Ans :=
  let g := rd r.p 0 1
  let k := rd r.p 1 1
  let x := grpOf s g
  firstOf [(decide (7 < g), badAt 0), (decide (0 < k) && decide (x.cfg.bytes.length ≤ 240 * (k - 1)), badAt 1)]
    (.reply 0 (if k = 0 then le 1 (b2n x.armed) ++ le 1 (b2n x.lateArm) ++ le 2 x.disarmed ++ ((List.range 8).map fun i => BitVec.ofNat 8 (seqrOf s i).state)
        ++ le 4 x.recNo.toNat ++ le 4 x.missHold.toNat ++ le 4 x.missSpc.toNat ++ le 4 (grpCrc x).toNat
      else (x.cfg.bytes.drop (240 * (k - 1))).take 240))

end Sys2Proof.Machine
end

