-- ==== Sys2Proof/Machine/Records.lean ====
section
/-! DEFINITION. Records (R229 to R241): the words of their windows, their stamps and measurements, their image in record
memory, and their completion, listing and release. -/
namespace Sys2Proof.Machine

/-! ### Post-window words (R234, R247) -/

/-- A word of a part: consecutive from its first index; words that never came are 0x8000_0001. -/
def partPut (rate k : Nat) (w : SampleWord) (p : RecPart) : RecPart :=
  let n := p.first + p.words.length
  if p.rate != rate || k < n || p.first + p.nPre + p.nPost ≤ k then p
  else { p with words := p.words ++ List.replicate (k - n) badWord ++ [w] }

/-- A committed sample copied into the records whose window it lies in. -/
def recCommit (slot rate k : Nat) (raw eng : SampleWord) (s : State) : State :=
  forN 8 s fun s g =>
    if (grpOf s g).recs.any fun r => !r.complete && r.parts.any fun p => p.slot == slot then
      s.onGrp g fun x => { x with recs := x.recs.map fun r => if r.complete then r else
        { r with parts := r.parts.map fun p => if p.slot = slot then partPut rate k (if p.dkind = 1 then eng else raw) p else p } }
    else s

/-! ### Stamps (R235) -/

/-- Insertion of a stamp by its instant. -/
def insStamp (x : Nat × Nat × BitVec 64) : List (Nat × Nat × BitVec 64) → List (Nat × Nat × BitVec 64)
  | [] => [x]
  | y :: t => if x.1 < y.1 then x :: y :: t else y :: insStamp x t

/-- The stamps of a record's window in time order, each with its input: comparators follow the 16 event inputs. -/
def recStamps (s : State) (c : GroupDef) (r : Record) : List (Nat × Nat × BitVec 64) :=
  let lo : Int := (r.trig : Int) - (r.tPre * fuPerRef : Nat)
  let hi := r.trig + r.tPost * fuPerRef
  let mine (i : Nat) : Bool := if i < 16 then bit c.events i else r.parts.any fun p => p.slot == 512 + i
  ((s.trg.stamps.filter fun x => mine x.1 && decide (lo ≤ (x.2.1 : Int)) && decide (x.2.1 < hi)).map fun x => (x.2.1, x.1, x.2.2)).foldr insStamp []

/-! ### Measurements (R236, R237) -/

/-- A fraction of 2^-16 ns: numerator and denominator. -/
abbrev Frac := Int × Nat

/-- A fraction as an integer; how it is rounded is left open (log 26). -/
def roundFrac (up : Bool) (x : Frac) : Int :=
  let q := fdiv x.1 x.2
  if up && x.1 - q * (x.2 : Int) != 0 then q + 1 else q

def fracSub (a b : Frac) : Frac := (a.1 * (b.2 : Int) - b.1 * (a.2 : Int), a.2 * b.2)

/-- The crossing of level `th / m` between (t', x') and (t, x), with x' below it and x at or above it. -/
def crossAt (m : Nat) (th : Int) (t' t : Int) (x' x : Int) : Frac :=
  (t' * ((m : Int) * (x - x')) + (th - (m : Int) * x') * (t - t'), m * (x - x').toNat)

/-- The first crossing of level `th / m` at or after instant `from_`, over (instant, value) in order, from below. -/
def firstCross (m : Nat) (th from_ : Int) : Option (Int × Int) → List (Int × Int) → Option Frac
  | _, [] => none
  | prev, (t, x) :: r =>
    if from_ ≤ t ∧ th ≤ (m : Int) * x then
      match prev with
      | none => some (t, 1)
      | some (t', x') => if (m : Int) * x' < th then some (crossAt m th t' t x' x) else firstCross m th from_ (some (t, x)) r
    else firstCross m th from_ (some (t, x)) r

/-- Upward crossings: the first word with v - b ≥ 0 after one with v - b ≤ -0.1 A. -/
def upCross (a : Int) : Bool → Option (Int × Int) → List (Int × Int) → List Frac
  | _, _, [] => []
  | low, prev, (t, y) :: r =>
    if low && 0 ≤ y then
      (match prev with
       | some (t', y') => [crossAt 1 0 t' t y' y]
       | none => [(t, 1)]) ++ upCross a false (some (t, y)) r
    else upCross a (low || decide (10 * y ≤ -a)) (some (t, y)) r

/-- The words of a part with their instants relative to t_trig in 2^-16 ns. -/
def partWords (trig : Nat) (p : RecPart) : List (Int × SampleWord) :=
  (List.range p.words.length).map fun k =>
    ((((p.first + k) * rateRefs p.rate * fuPerRef : Nat) : Int) - (trig : Int), p.words.getD k badWord)

def noArrival : List Byte := le 8 0x8000000000000000

/-- The arrival at a slot: a comparator stamp with `EDGE` 1, or the first crossing of |v - b| to `A_TH`. -/
def arrivalOf (p : RecPart) (stamps : List (Nat × Nat × BitVec 64)) (trig : Nat) (up : Bool) (xs : List (Int × Int)) : Option Int × Bool :=
  if isWb p.slot then
    ((stamps.find? fun x => x.2.1 == 16 + (p.slot - 528) && bit x.2.2.toNat 7).map fun x => (x.1 : Int) - (trig : Int), true)
  else if p.aTh = 0 then (none, false)
  else ((firstCross 1 p.aTh (-(2 ^ 63)) none xs).map (roundFrac up), false)

/-- A measurement block (R236, R237). `fv` is a free value: how instants are rounded, and what no word determines. -/
def measure (fv : BitVec 64) (trig : Nat) (stamps : List (Nat × Nat × BitVec 64)) (p : RecPart) : List Byte :=
  let all := partWords trig p
  let ws := all.filter fun x => !wBad x.2
  let fl := ws.foldl (fun a x => a.lor (wFlags x.2)) 0
  let vs := ws.map fun x => (x.1, wVal x.2)
  let pre := vs.filter fun x => x.1 < 0
  let post := vs.filter fun x => 0 ≤ x.1
  let b : Int := match pre, post with
    | [], x :: _ => x.2
    | _, _ => meanRound (pre.foldl (fun a x => a + x.2) 0) pre.length
  let ab (v : Int) : Int := ((v - b).natAbs : Int)
  let a := post.foldl (fun m x => max m (ab x.2)) 0
  let mx := vs.foldl (fun m x => max m x.2) (match vs with | x :: _ => x.2 | [] => 0)
  let mn := vs.foldl (fun m x => min m x.2) (match vs with | x :: _ => x.2 | [] => 0)
  let pk := ws.foldl (fun m x => match m with
    | none => some x
    | some y => if (wVal y.2).natAbs < (wVal x.2).natAbs then some x else some y) (none : Option (Int × SampleWord))
  let sq := post.foldl (fun m x => m + ((x.2 - b) * (x.2 - b)).toNat) 0
  let xs := vs.map fun x => (x.1, ab x.2)
  let rise := match firstCross 10 a 0 none xs, firstCross 10 (9 * a) 0 none xs with
    | some t1, some t9 => if a = 0 then none else some (roundFrac (bit fv.toNat 0) (fracSub t9 t1))
    | _, _ => none
  let ups := if a = 0 then [] else upCross a false none (post.map fun x => (x.1, x.2 - b))
  let period := match ups, ups.getLast? with
    | f :: _ :: _, some l => let d := fracSub l f; some (roundFrac (bit fv.toNat 1) (d.1, d.2 * (ups.length - 1)))
    | _, _ => none
  let arr := arrivalOf p stamps trig (bit fv.toNat 2) xs
  let mfl := fl + 256 * b2n (decide (ws.length < all.length)) + 512 * b2n period.isNone + 1024 * b2n arr.1.isNone
    + 2048 * b2n (arr.2 && arr.1.isSome) + 4096 * b2n rise.isNone
  -- what no usable word determines is left open
  (if vs.isEmpty then le 4 fv.toNat else le 4 (mx - mn).toNat) ++
  (match pk with | some x => le 4 x.2.toNat ++ leI 8 x.1 | none => le 4 (fv.toNat / 65536) ++ le 8 (fv.toNat / 256)) ++
  (if post.isEmpty then le 4 (fv.toNat / 4096) else le 4 (rootNearest sq post.length)) ++
  (if vs.isEmpty then le 4 (fv.toNat / 16) else leI 4 b) ++
  leF (F64.ofRat false sq (refsPerSec / rateRefs p.rate)) ++
  leI 8 (rise.getD 0) ++ leI 8 (period.getD 0) ++
  (match arr.1 with | some x => leI 8 x | none => noArrival) ++ le 4 mfl ++ zeros 4

/-! ### The image of a record (R229, R230, R233, R234) -/

def dirEntry (p : RecPart) (ofs : Nat) : List Byte :=
  le 2 p.slot ++ le 1 p.rate ++ le 1 p.dkind ++ le 4 p.nPre ++ le 4 p.nPost ++ le 4 ofs ++ le 8 p.first ++ zeros 8

/-- The parts with the byte offset of their data. -/
def dirGo : Nat → List RecPart → List Byte
  | _, [] => []
  | o, p :: t => dirEntry p o ++ dirGo (o + 4 * (p.nPre + p.nPost)) t

def recHeader (s : State) (g : Nat) (r : Record) : List Byte :=
  let b := padTo 124 (le 1 4 ++ le 1 g ++ le 2 r.flags.toNat ++ le 4 r.no.toNat ++ le 6 (trigSec r.trig) ++ le 2 (trigFrac r.trig) ++ le 4 (trigNs r.trig)
    ++ le 4 r.cause.toNat ++ le 6 (secOf r.fireT) ++ le 2 (hubNo s) ++ le 4 (nsOf r.fireT) ++ le 4 r.origRec.toNat ++ le 2 r.origHub.toNat
    ++ le 2 r.parts.length ++ le 4 r.tPre ++ le 4 r.tPost ++ le 4 r.missed.toNat ++ le 4 r.length ++ le 4 r.defCrc.toNat ++ le 8 r.armTick
    ++ le 4 r.netGroup.toNat ++ le 4 r.origCause.toNat ++ le 2 r.stamps.length)
  b ++ le 4 (crc32 b).toNat

/-- The bytes of a complete record, with its measurement blocks. -/
def recImage (s : State) (g : Nat) (r : Record) (meas : List (List Byte)) : List Byte :=
  let c := r.parts.length
  recHeader s g r ++ dirGo (128 + 96 * c + 8 * r.stamps.length) r.parts ++ meas.flatten ++ (r.stamps.map fun x => le 8 x.toNat).flatten
    ++ (r.parts.map fun p => wordsBytes p.words).flatten

/-! ### RECORD_COMPLETE (R239) -/

/-- The instant at which the last post-window word of every slot is due. -/
def recDue (s : State) (r : Record) : Nat :=
  r.parts.foldl (fun a p =>
    let n := p.first + p.nPre + p.nPost
    max a ((n - 1) * rateRefs p.rate + latency s p.slot)) 0

/-- The record as it stands at completion: words that never came filled in, its stamps taken, its length known. -/
def finishRec (s : State) (c : GroupDef) (r : Record) : Record × List (Nat × Nat × BitVec 64) :=
  let st := recStamps s c r
  let parts := r.parts.map fun p => { p with words := p.words ++ List.replicate (p.nPre + p.nPost - p.words.length) badWord }
  let bad := parts.any fun p => p.words.any wBad
  let words := parts.foldl (fun a p => a + p.words.length) 0
  let kept := st.take 1024
  ({ r with parts, stamps := kept.map (·.2.2), complete := true, length := 128 + 96 * parts.length + 8 * kept.length + 4 * words,
            flags := r.flags ||| BitVec.ofNat 16 (64 * b2n (decide (1024 < st.length)) + 256 * b2n bad) }, st)

/-- Measurement blocks, one free value for each. -/
def measureAll (trig : Nat) (stamps : List (Nat × Nat × BitVec 64)) (ps : List RecPart) (s : State) : List (List Byte) × State :=
  ps.foldl (fun a p => let f := a.2.free; (a.1 ++ [measure f.1 trig stamps p], f.2)) ([], s)

/-- RECORD_COMPLETE (R239): the group's oldest incomplete record, at the first boundary 10 µs after its last deadline. -/
def execRecordComplete (group : Fin 8) (s : State) : Outc :=
  let g := group.val
  let x := grpOf s g
  match x.recs.find? fun r => !r.complete with
  | none => done s
  | some r =>
    if s.tb.tick * tickRefs < recDue s r + 2048 then done s
    else
      let f := finishRec s x.cfg r
      let m := measureAll r.trig f.2 f.1.parts s
      let nr := { f.1 with reserved := cdiv f.1.length 64 * 64 }
      let s := rmWrite m.2 nr.ofs (recImage m.2 g nr m.1)
      let s := s.onGrp g fun x => { x with recs := x.recs.map fun y => if y.no = r.no && !y.complete then nr else y }
      done (postTos (maskQueues x.cfg.queues) 0x10 1 g nr.no.toNat
        (le 2 nr.flags.toNat ++ le 2 (trigFrac nr.trig) ++ le 4 (trigNs nr.trig) ++ le 8 (trigSec nr.trig) ++ le 4 nr.ofs ++ le 4 nr.length) s)

/-! ### REC_LIST, REC_RELEASE (R240, R276, R378) -/

def recOf (s : State) (g : Nat) (no : BitVec 32) : Option Record := (grpOf s g).recs.find? fun r => r.no == no

def chkRecList (s : State) (r : Req) : Ans :=
  let g := rd r.p 0 1
  let from_ := rd r.p 4 4
  let rs := ((grpOf s g).recs.filter fun x => x.complete && decide (from_ ≤ x.no.toNat)).take 19
  firstOf [(decide (7 < g), badAt 0)]
    (.reply 0 (le 1 rs.length ++ zeros 3 ++ (rs.map fun x => le 4 x.no.toNat ++ le 4 x.ofs ++ le 4 x.length).flatten))

/-- Whether a record number lies in the `COUNT` records of a release. -/
def inRelease (p : List Byte) (no : BitVec 32) : Bool := decide ((no - BitVec.ofNat 32 (rd p 4 4)).toNat < rd p 2 2)

def chkRecRelease (s : State) (r : Req) : Ans :=
  let g := rd r.p 0 1
  firstOf [(decide (7 < g), badAt 0), (s.cop.any (fun j => j.group == g && inRelease r.p j.record), .refuse .busy 0)] (.stage .ok 0)

/-- The complete records of a release freed. -/
def appRecRelease (r : Req) (s : State) : State :=
  s.onGrp (rd r.p 0 1) fun x => { x with recs := x.recs.filter fun y => !(y.complete && inRelease r.p y.no) }

end Sys2Proof.Machine
end

