-- ==== Sys2Proof/Machine/Cooper.lean ====
section
/-! DEFINITION. Cooper's jobs (R275 to R280) and the Cooper commands (R381). -/
namespace Sys2Proof.Machine

/-- Bytes of record memory as a requester reads them: a poisoned word reads as 0x8000_0001 in each half (R257). -/
def rmClean (s : State) (a n : Nat) : List Byte :=
  (List.range n).map fun i =>
    if s.rm.poison.has ((a + i) / 8 * 8) then (le 4 badWord.toNat).getD ((a + i) % 4) 0 else memRead 0 s.rm.mem (a + i)

/-- The words that bytes spell. -/
def bytesWords (bs : List Byte) : List (BitVec 32) := (List.range (bs.length / 4)).map fun k => BitVec.ofNat 32 (rd bs (4 * k) 4)

/-- Bytes of a complete record before its words. -/
def recHeadLen (r : Record) : Nat := 128 + 96 * r.parts.length + 8 * r.stamps.length

/-- The words of part k of a record as far as they are committed (R276). -/
def jobWords (s : State) (r : Record) (k : Nat) : List SampleWord :=
  let n (p : RecPart) : Nat := 4 * (p.nPre + p.nPost)
  if r.complete then
    bytesWords (rmClean s (r.ofs + recHeadLen r + ((r.parts.take k).foldl (fun a p => a + n p) 0)) (((r.parts[k]?).map n).getD 0))
  else ((r.parts[k]?).map (·.words)).getD []

def State.onJob (s : State) (f : Job → Job) : State :=
  { s with cop := match s.cop with | [] => [] | j :: t => f j :: t }

/-- A job ends: it leaves the queue, its space is free again, and its notice names its tag (R275). -/
def endJob (j : Job) (st : Status) (s : State) : State :=
  let s := { s with cop := s.cop.erase j }
  let s := complete j.owed st j.tag.toNat s.tb.tick s
  postTos ((maskQueues (j.options / 16)).filter (· != queueOf j.owed.mbx)) 0x20 2 0 j.tag.toNat
    (le 1 j.owed.mbx ++ [0] ++ le 2 j.owed.opcode ++ le 2 j.owed.seq.toNat ++ le 2 (statusCode st) ++ le 8 s.tb.tick) s

/-- Every job fails (R280). -/
def failJobs (st : Status) (s : State) : State := forAll s.cop s fun s j => endJob j st s

/-- A job block (R277): its prefix and its body. -/
def jobBlock (slotIdx bflags : Nat) (body : List Byte) : List Byte :=
  le 4 body.length ++ le 2 slotIdx ++ le 1 bflags ++ [0] ++ body

/-- The first block: the record's header, directory, measurements and stamps, stored raw. -/
def jobFirst (s : State) (r : Record) : List Byte :=
  jobBlock 0xFFFF 0 (rawMarker (recHeadLen r) ++ rmClean s r.ofs (recHeadLen r))

/-- The most bytes that a record's first block can take: its stamps are known once it is complete. -/
def firstMost (r : Record) : Nat := 16 + 128 + 96 * r.parts.length + 8192

/-- One block of n words of the running job's present slot; a block that would pass the output space fails the job. A data block
that comes before the first block leaves room for the longest that it can be (DESIGN CHOICE, log 152). -/
def putJobBlock (j : Job) (r : Record) (p : RecPart) (n : Nat) (flush : Bool) (s : State) : State :=
  let ws := ((jobWords s r j.slotPos).drop j.wordPos).take n
  let last := decide (j.wordPos + n = p.nPre + p.nPost)
  let b := jobBlock j.slotPos (b2n flush + 2 * b2n last) (codeBody 3 1 ws).1
  let room := if j.started || j.room != 0 then j.room else firstMost r
  let place := if j.started || j.room != 0 then j.span else room
  if j.size < 32 + place + b.length then endJob j .noSpace s
  else
    (rmWrite s (j.base + 32 + place) b).onJob fun j =>
      { j with written := j.written + b.length, span := place + b.length, room := room, blocks := j.blocks + 1,
               slotPos := if last then j.slotPos + 1 else j.slotPos, wordPos := if last then 0 else j.wordPos + n }

/-- The running job codes what is committed: the first block once its record is complete, and whole blocks. -/
def cooperGo : Nat → State → State
  | 0, s => s
  | fuel + 1, s =>
    match s.cop with
    | [] => s
    | j :: _ =>
      match recOf s j.group j.record, j.running with
      | some r, true =>
        if r.complete && !j.started then
          let b := jobFirst s r
          if j.size < 32 + max b.length j.span then endJob j .noSpace s
          else cooperGo fuel ((rmWrite s (j.base + 32) (b ++ zeros (j.room - b.length))).onJob fun j =>
            { j with started := true, written := j.written + b.length, span := max b.length j.span, blocks := j.blocks + 1 })
        else
          match r.parts[j.slotPos]? with
          | none => s
          | some p =>
            let n := min j.bwords ((jobWords s r j.slotPos).length - j.wordPos)
            if 0 < n && (n == j.bwords || j.wordPos + n == p.nPre + p.nPost) then cooperGo fuel (putJobBlock j r p n false s)
            else if p.nPre + p.nPost = 0 then cooperGo fuel (s.onJob fun j => { j with slotPos := j.slotPos + 1 })
            else s
      | _, _ => s

/-- Blocks that a job can still need. -/
def cooperFuel (s : State) : Nat :=
  match s.cop with
  | [] => 0
  | j :: _ => match recOf s j.group j.record with
    | none => 0
    | some r => r.parts.foldl (fun a p => a + (p.nPre + p.nPost) / 4096 + 2) 2

def cooperRun (s : State) : State := cooperGo (cooperFuel s) s

/-- The 32 header bytes of an output space read as zero until the job is committed (R278). -/
def clearHeader (base size : Nat) (s : State) : State := if size < 32 then s else rmWrite s base (zeros 32)

/-- COOPER_JOB_START (R276): the next queued job starts once none runs. The 32 header bytes read as zero (R278). -/
def execCooperJobStart (s : State) : Outc :=
  match s.cop with
  | [] => done s
  | j :: _ =>
    if j.running || cooperOut s then done s
    else done (cooperRun ((clearHeader j.base j.size s).onJob fun j => { j with running := true }))

/-- The job header (R277). -/
def jobHeader (s : State) (j : Job) (r : Record) : List Byte :=
  let b := le 2 0xC0C2 ++ le 1 1 ++ le 1 j.group ++ le 2 j.tag.toNat ++ zeros 2 ++ le 4 j.record.toNat ++ le 4 r.length
    ++ le 4 (32 + j.span) ++ le 4 j.blocks ++ le 4 (crc32 (rmClean s r.ofs r.length)).toNat
  b ++ le 4 (crc32 b).toNat

/-- COOPER_JOB_COMPLETE (R278): once every block is written, the job header commits the job. -/
def execCooperJobComplete (s : State) : Outc :=
  let s := cooperRun s
  match s.cop with
  | [] => done s
  | j :: _ =>
    match recOf s j.group j.record with
    | some r =>
      if j.running && j.started && j.slotPos == r.parts.length then done (endJob j .ok (rmWrite s j.base (jobHeader s j r))) else done s
    | none => done s

/-! ### The commands -/

def overlaps (a n b m : Nat) : Bool := decide (a < b + m) && decide (b < a + n)

def chkCooperJob (s : State) (r : Req) : Ans :=
  let p := r.p
  let g := rd p 2 1
  let base := rd p 8 4
  let size := rd p 12 4
  let lo := regionBase s.rm.plan 4 * 1024
  let hi := lo + regionSize s.rm.plan 4 * 1024
  let rec_ := recOf s g (BitVec.ofNat 32 (rd p 4 4))
  firstOf [(decide (7 < g), badAt 2), (rd p 3 1 / 2 % 8 != 0, badAt 3), (rec_.isNone, badAt 4),
    (base % 64 != 0 || decide (base < lo) || decide (hi ≤ base), badAt 8),
    (size % 64 != 0 || decide (hi < base + size), badAt 12),
    (decide (rd p 16 4 < 4096) || decide (65536 < rd p 16 4), badAt 16),
    (fnIdle s fnCooper, .refuse .functionState (fnCode (fnState s fnCooper))),
    (!bit (rd p 3 1) 0 && (rec_.map fun x => !x.complete).getD false, .refuse .functionState 0),
    (decide (16 ≤ (s.cop.filter fun j => !j.running).length) || s.cop.any (fun j => overlaps base size j.base j.size), .refuse .busy 0)]
    (.stage .accepted 0)

def appCooperJob (o : Owed) (r : Req) (s : State) : State :=
  let p := r.p
  let s := clearHeader (rd p 8 4) (rd p 12 4) s
  { s with cop := s.cop ++ [{ tag := BitVec.ofNat 16 (rd p 0 2), group := rd p 2 1, options := rd p 3 1, record := BitVec.ofNat 32 (rd p 4 4),
                              base := rd p 8 4, size := rd p 12 4, bwords := rd p 16 4, owed := o }] }

def jobTag (r : Req) : BitVec 16 := BitVec.ofNat 16 (rd r.p 0 2)

/-- The running `FOLLOW` job that a flush names. -/
def flushJob (s : State) (r : Req) : Option Job :=
  match s.cop with
  | j :: _ => if j.running && j.tag == jobTag r && bit j.options 0 then some j else none
  | [] => none

/-- The effect of COOPER_FLUSH (R279): the present block ends at the slot's last committed word. -/
def actCooperFlush (r : Req) (s : State) : State :=
  let s := cooperRun s
  match flushJob s r with
  | none => s
  | some j =>
    match recOf s j.group j.record with
    | none => s
    | some x =>
      match x.parts[j.slotPos]? with
      | none => s
      | some p =>
        let n := (jobWords s x j.slotPos).length - j.wordPos
        if n = 0 then s else putJobBlock j x p n true s

def chkCooperFlush (s : State) (r : Req) : Ans :=
  match flushJob s r with
  | none => .refuse .functionState (fnCode (fnState s fnCooper))
  | some j => .act .ok (match flushJob (actCooperFlush r s) r with | some k => k.written | none => j.written)

def chkCooperCancel (s : State) (r : Req) : Ans :=
  if s.cop.any fun j => j.tag == jobTag r then .stage .ok 0 else .refuse .functionState (fnCode (fnState s fnCooper))

/-- The effect of COOPER_CANCEL (R280). -/
def appCooperCancel (r : Req) (s : State) : State :=
  match s.cop.find? fun j => j.tag == jobTag r with
  | some j => endJob j .functionState s
  | none => s

def chkCooperStatus (s : State) (_r : Req) : Ans :=
  .reply 0 (le 1 s.cop.length ++ zeros 3 ++ (s.cop.map fun j =>
    le 2 j.tag.toNat ++ le 1 (b2n j.running) ++ le 1 j.group ++ le 4 j.record.toNat ++ le 4 j.written).flatten)

end Sys2Proof.Machine
end

