-- ==== Sys2Proof/Machine/Commit.lean ====
section
/-! DEFINITION. The commit stage (R18, R30, R111, R247, R415): what a committed sample becomes, with the samples of a
spare in place of its channel, the match test and points of a calibration session (R336, R339, R344), and the auxiliary
converters' samples (R128, R132, R133). -/
namespace Sys2Proof.Machine

/-! ### Sources that give no more samples (R170, R176) -/

/-- The front end that gives a slot's samples: the spare where it delivers in its place (R169). -/
def sourceFe (s : State) (d : Nat) : Nat :=
  if isPrec d then (match (bankSt s (d / 32)).deliver with | some (k, _) => if k = d % 32 then 512 + d / 32 else d | none => d) else d

/-- Whether a front end still has samples on their way: in a chain, no later than the latency bound of R160, or before the
linearisation unit or the commit stage. -/
def samplesCome (s : State) (fe : Nat) : Bool :=
  !slotOut s fe && ((chanOf s fe).chains.any (chainLives s.chd (s.now - 6144)) || s.chd.linQ.any (·.fe == fe) || s.chd.comQ.any (·.fe == fe))

/-- A source that is disabled or held in reset, from its last delivered sample on (R170, R176; DEDUCED of value outputs, log
149). -/
def sourceGone (s : State) (d : Nat) : Bool :=
  if isAux d then slotOut s d
  else (!(chanOf s d).enabled || slotOut s (sourceFe s d)) && !samplesCome s (sourceFe s d)

/-! ### Temperature (R169 to R171) -/

/-- The temperature of a use at a received source sample (R169, R170), with the notices of the run that starts or ends. -/
def useTake (w : SampleWord) (t : Nat) (live : Bool) (u : TempUse) : TempUse × List (Nat × Nat) :=
  if wBad w || wHas w fWire then
    if live && u.last.isSome && u.stale.isNone then ({ u with stale := some t, bad := false, lastT := t }, [(0, t)])
    else ({ u with lastT := t }, [])
  else ({ u with last := some (wVal w), stale := none, bad := false, lastT := t }, match u.stale with | some tb => [(2, tb)] | none => [])

/-- A use whose source gives no more samples: unusable from the last one (R170). -/
def useLose (live : Bool) (u : TempUse) : TempUse × List (Nat × Nat) :=
  if live && u.last.isSome && u.stale.isNone then ({ u with stale := some u.lastT, bad := false }, [(0, u.lastT)]) else (u, [])

/-- Whether samples with instants before `t` may still come to the unit: within the latency bound of R160. -/
def sampleBefore (s : State) (n t : Nat) : Bool :=
  (chanOf s n).enabled && decide (s.now ≤ t + slotHalf s n * rateRefs (chanOf s n).rate + 6144)

/-- Every use of source `d` that slot `n` makes, by its descriptor and by earlier ones that a sample on its way may use
(R166); the notices of one run are posted once. -/
def onUses (n d : Nat) (f : Bool → TempUse → TempUse × List (Nat × Nat)) (s : State) : State :=
  let old := (tget s.lin.descOld n []).map fun e =>
    if e.2.1.tsrc = d then let r := f (sampleBefore s n e.1) e.2.2; ((e.1, e.2.1, r.1), r.2) else (e, [])
  let cur := if (linOf s n).tsrc = d then f true (tget s.lin.temp n {}) else (tget s.lin.temp n {}, [])
  let s := { s with lin := { s.lin with descOld := tset s.lin.descOld n (old.map (·.1)), temp := tset s.lin.temp n cur.1 } }
  forAll ((old.map (·.2)).flatten ++ cur.2).eraseDups s fun s e => tempNotice n e.1 e.2 0 s

/-- The slots of which a descriptor, present or earlier, names a source. -/
def tempUsers (s : State) (d : Nat) : List Nat :=
  ((s.lin.desc.filter fun e => e.2.tsrc == d).map (·.1) ++ (s.lin.descOld.filter fun e => e.2.any fun x => x.2.1.tsrc == d).map (·.1)).eraseDups

/-- The unit receives a sample of a source slot, with instant `t` (R169, R170). -/
def tempReceive (d : Nat) (w : SampleWord) (t : Nat) (s : State) : State :=
  if fnOut s fnLin then s else forAll (tempUsers s d) s fun s n => onUses n d (useTake w t) s

/-- The stale runs that sources which give no more samples begin for a slot (R170). -/
def tempCheck (n : Nat) (s : State) : State :=
  let srcs := ((linOf s n).tsrc :: (tget s.lin.descOld n []).map (·.2.1.tsrc)).eraseDups.filter fun d => d != 0xFFFF && sourceGone s d
  forAll srcs s fun s d => onUses n d useLose s

/-- The use that a sample with instant `t` makes, changed. -/
def atUse (f : TempUse → TempUse) (t : Nat) : List (Nat × LinDesc × TempUse) → TempUse → List (Nat × LinDesc × TempUse) × TempUse
  | [], u => ([], f u)
  | (e, d, x) :: r, u => if t < e then let z := atUse f t r x; ((e, d, z.2) :: z.1, u) else ((e, d, x) :: r, f u)

/-- The stale evaluation of a slot's sample counted, and the change to `BAD` reported (R170, R171). -/
def staleBook (n t : Nat) (s : State) : State :=
  let du := descAt s n t
  match du.2.stale with
  | none => s
  | some tb =>
    if du.1.tsrc = 0xFFFF then s
    else
      let s := s.onChan n fun c => { c with staleEvals := c.staleEvals + 1 }
      if tb + du.1.stale < t && !du.2.bad then
        let z := atUse (fun u => { u with bad := true }) t (tget s.lin.descOld n []) (tget s.lin.temp n {})
        tempNotice n 1 tb t { s with lin := { s.lin with descOld := tset s.lin.descOld n z.1, temp := tset s.lin.temp n z.2 } }
      else s

/-- The value outputs and the temperature uses whose sources give no more samples. -/
def sourceSweep (s : State) : State :=
  let s := forAll ((s.lin.desc.filter fun e => e.2.tsrc != 0xFFFF).map (·.1)) s fun s n => tempCheck n s
  forN 32 s fun s o =>
    match (voutOf s o).cfg with
    | some c => if sourceGone s c.slot && !fnOut s (fnVout o) then s.onVout o (voutLose s.now) else s
    | none => s

/-! ### LINEARISE_SAMPLE (R161 to R168) -/

/-- The engineering sample of a precision or spare output, with its corrected signal x. -/
def linearise (fe : Nat) (raw : SampleWord) (t : Nat) (s : State) : CommitItem × State :=
  let fl := wFlags raw
  let c := corrAt s (corrKey fe (gainAt s fe t)) t
  let x := corrected c (wVal raw)
  let item (eng : SampleWord) : CommitItem := { fe, rate := 0, n := 0, raw, eng, x }
  match descSlot s fe t with
  | none => (item (if wBad raw then badKeep fl else engWord (({} : LinDesc).lsb) (poly {} x 0) fl), s)
  | some n =>
    let s := tempCheck n s
    let du := descAt s n t
    let eng := match tauOf du.1 du.2 t with
      | none => badKeep fl
      | some tau => if wBad raw then badKeep fl else engWord du.1.lsb (poly du.1 x tau) fl
    (item eng, staleBook n t s)

/-- LINEARISE_SAMPLE (R161): the oldest output of Chandler becomes a commit item; a wideband output passes through. -/
def execLineariseSample (s : State) : Outc :=
  match s.chd.linQ with
  | [] => done s
  | o :: rest =>
    let s := s.onChd fun c => { c with linQ := rest }
    let t := o.n * rateRefs o.rate
    if 528 ≤ o.fe then done (s.onChd fun c => { c with comQ := c.comQ ++ [{ fe := o.fe, rate := o.rate, n := o.n, raw := o.raw, endT := o.endT }] })
    else
      -- with the unit out the sample goes on as a raw sample alone
      let out := fnOut s fnLin
      let r := if out then ({ fe := o.fe, rate := 0, n := 0, raw := o.raw, eng := badWord, noEng := true }, s) else linearise o.fe o.raw t s
      let i := { r.1 with rate := o.rate, n := o.n, endT := o.endT }
      let s := r.2.onChd fun c => { c with comQ := c.comQ ++ [i] }
      -- the unit receives the sample as a temperature source: the slot's own, or its spare's in its place (R169)
      done (if o.fe < 512 then (if spareDelivers s (o.fe / 32) (o.fe % 32) o.n then s else tempReceive o.fe i.eng t s)
        else match (routeAt s o.fe t) with
          | (.channel, k) => if spareDelivers s (o.fe - 512) k o.n then tempReceive (32 * (o.fe - 512) + k) i.eng t s else s
          | _ => s)

/-! ### VOUT_SET (R177) -/

/-- The effect of VOUT_SET; a source that already gives no samples selects the configured action (R176). -/
def appVoutSet (r : Req) (s : State) : State :=
  let c := voutOfBytes r.p
  let t := applyT s
  let fr := s.free
  fr.2.onVout (rd r.p 0 1) fun v =>
    let v := voutSet fr.1 c t v
    match v.cfg with
    | some b => if sourceGone s b.slot then voutLose t v else v
    | none => v

/-! ### One committed sample of a slot -/

/-- The CHN mirror of a commit (R415); `FLAG_OR` and `OVR_CNT` are kept for each requester (R401). -/
def mirror (idx : Nat) (raw eng : SampleWord) (c : Chan) : Chan :=
  let fl := BitVec.ofNat 8 (wFlags raw)
  let ov : BitVec 32 := if wHas raw fOvr then 1 else 0
  { c with raw, eng, index := idx,
           flagOr := [0, 1].foldl (fun t r => tset t r (tget t r 0 ||| fl)) c.flagOr,
           ovrCnt := [0, 1].foldl (fun t r => tset t r (tget t r 0 + ov)) c.ovrCnt, mirrorSeq := c.mirrorSeq + 2 }

/-- The newest samples of a slot, as conditions, records and loops read them; those of another rate give way. -/
def keepNewest (k rate : Nat) (raw eng : SampleWord) (c : Chan) : Chan :=
  { c with next := k + 1, atRate := rate, recent := ((k, raw, eng) :: (if c.atRate = rate then c.recent else [])).take 128 }

/-- Whether a sample is at the rate that its slot has now: after a rate change the last samples at the old rate are no part of
the slot's history any more (R123). -/
def atPresent (s : State) (slot rate : Nat) : Bool := match slotRate s slot with | some r => rate == r | none => true

/-- A slot's sample made resident wherever it is wanted: mirror, history, records, streams, reductions, value outputs
and monitors. `inst` is its instant, `idx` what `INDEX` shows. -/
def commitSlot (slot rate k idx inst : Nat) (raw eng : SampleWord) (noEng : Bool) (s : State) : State :=
  let s := s.onChan slot (mirror idx raw eng)
  let s := if atPresent s slot rate then
      (histCommit slot k ((chanOf s slot).atRate != rate) raw eng s).onChan slot (keepNewest k rate raw eng)
    else s
  let s := recCommit slot rate k raw eng s
  let s := streamSample slot rate k raw eng noEng s
  let s := voutFeed slot raw eng s.now s
  monValue (monValue (cooperRun s) 0x1 slot ((s.now - inst : Nat))) 0xC slot (wVal raw)

/-! ### Calibration sessions (R336, R339) -/

def onSess (s : State) (k : Nat) (f : Session → Session) : State :=
  { s with cal := { s.cal with sess := s.cal.sess.map fun e => if e.1 = k then (e.1, f e.2) else e } }

/-- Whether a sample takes part in the match test: no `SETTLE`, `DIST`, `CLAMP`, `OVR`, `WIRE` or `BAD`. -/
def matchUsable (w : SampleWord) : Bool := (wFlags w).land (fSettle + fDist + fClamp + fOvr + fWire + fBad) == 0

def inMatch (p : CalPhase) : Bool := p == .overlapOut || p == .overlapBack

/-- A channel's or its spare's output given to the match test; the windows start at the first index that carries no
`SETTLE` on the front end newly connected. -/
def matchFeed (i : CommitItem) (spare : Bool) (x : Session) : Session :=
  if !inMatch x.phase then x
  else
    let fresh := (x.phase == .overlapOut) == spare
    let x := if x.winFrom.isNone && fresh && !wHas i.raw fSettle then { x with winFrom := some i.n } else x
    if spare then { x with seenSpare := i.n + 1, xSpare := if matchUsable i.raw then tset x.xSpare i.n i.x else x.xSpare }
    else { x with seenChan := i.n + 1, xChan := if matchUsable i.raw then tset x.xChan i.n i.x else x.xChan }

/-- A point's sample: the first M usable of at most 4 M outputs (R339). -/
def pointFeed (usable : Bool) (v : Int) (p : CalPoint) : CalPoint :=
  if p.done || p.m ≤ p.vals.length || 4 * p.m ≤ p.seen then p
  else { p with seen := p.seen + 1, vals := if usable then v :: p.vals else p.vals }

def pointUsable (w : SampleWord) : Bool := (wFlags w).land (fSettle + fDist + fClamp + fOvr + fBad) == 0

/-- The session of a bank, by its key: a channel of the bank, or the spare. -/
def bankSess (s : State) (b : Nat) : Option (Nat × Session) :=
  s.cal.sess.find? fun e => (decide (e.1 < 512) && e.1 / 32 == b) || e.1 == 512 + b

/-- A front end's output given to its bank's session. -/
def sessFeed (i : CommitItem) (t : Nat) (s : State) : State :=
  let b := bankOf i.fe
  match bankSess s b with
  | none => s
  | some (k, x) =>
    let spareHere := isSpare i.fe && decide (k < 512) && decide (routeAt s i.fe t = (.channel, k % 32))
    let s := if i.fe = k || spareHere then onSess s k (matchFeed i (isSpare i.fe)) else s
    -- the front end that is measured
    if i.fe = k && x.phase == .out then
      onSess s k fun x => { x with points := x.points.map (pointFeed (pointUsable i.raw) (wVal i.raw)) }
    else s

/-! ### SAMPLE_COMMIT (R18, R111) -/

/-- A set change or swap that a slot has come to the end of (R150, R156). -/
def fadeCommit (fe n : Nat) (s : State) : State :=
  match (chanOf s fe).fade with
  | none => s
  | some f =>
    if f.np + 2 ^ f.k ≤ n + 1 && f.past then
      s.onChan fe fun c => { c with fade := some { f with done := true } }
    else s

/-- A word that arrives after its deadline is discarded and counted by the streams that await it (R18). -/
def lateWord (slot rate n : Nat) (s : State) : State :=
  forAll (s.str.s.filter fun e => e.2.defd && e.2.cfg.kind == 0 && e.2.cfg.rate == rate && e.2.cfg.slots.contains slot) s fun s e =>
    if expected e.2 n then s.onStr e.1 fun st => { st with lateCnt := st.lateCnt + 1 } else s

/-- The commit deadline of a sample of a slot (R160); one of a rate that the slot has left is due as its chain had it. -/
def commitDue (s : State) (slot : Nat) (i : CommitItem) : Nat :=
  if i.fe < 528 && i.rate != (chanOf s slot).rate then i.endT + 6144 else i.n * rateRefs i.rate + latency s slot

/-- A sample committed under a slot number, or discarded as late. -/
def commitOrLate (slot : Nat) (i : CommitItem) (raw eng : SampleWord) (s : State) : State :=
  if commitDue s slot i < s.now then lateWord slot i.rate i.n s
  else commitSlot slot i.rate i.n i.n (i.n * rateRefs i.rate) raw eng i.noEng s

def withSpare (w : SampleWord) : SampleWord := w ||| BitVec.ofNat 32 fSpare

/-- SAMPLE_COMMIT (R18): the oldest sample before the commit stage. A channel's sample stands for its slot unless the
spare delivers in its place; a spare's stands for its own slot, and for the channel's, with `SPARE`. -/
def execSampleCommit (t : Nat) (s : State) : Outc :=
  let s := s.at_ t
  match s.chd.comQ with
  | [] => done s
  | i :: rest =>
    let s := s.onChd fun c => { c with comQ := rest }
    let inst := i.n * rateRefs i.rate
    let s := if i.fe < 528 then sessFeed i inst (fadeCommit i.fe i.n s) else s
    if isPrec i.fe then
      done (if spareDelivers s (i.fe / 32) (i.fe % 32) i.n then s else commitOrLate i.fe i i.raw i.eng s)
    else
      -- a spare that its own slot number has not enabled delivers for its position only
      let s := if isSpare i.fe && !(chanOf s i.fe).enabled then s else commitOrLate i.fe i i.raw i.eng s
      if isSpare i.fe then
        match routeAt s i.fe inst with
        | (.channel, k) =>
          done (if spareDelivers s (i.fe - 512) k i.n then
            commitOrLate (32 * (i.fe - 512) + k) i (withSpare i.raw) (withSpare i.eng) s else s)
        | _ => done s
      else done s

/-! ### AUX_CONVERSION_COMPLETE (R128, R132, R133, R345) -/

/-- Whether a clamp event bears on a conversion: at its input's pin, or at `AUXCOM` where it takes part. -/
def auxClamped (s : State) (t : Nat) (e : BitVec 64) (hold : Nat) : Bool :=
  let on (k : Nat) : Bool := winFlags (tget s.fe.auxClamp (auxPinKey t k) []) 0 hold != 0
  (decide (auxInput e ≤ 16) && on (auxInput e)) || (auxMode e == 1 && on 16)

/-- The grid on which a slot's samples of the table in force are delivered (R132). -/
def gridOf (s : State) (conv slot : Nat) : Option Nat := auxRate (s.onAux conv fun a => { a with waiting := none }) slot

/-- The stamped streams that take a slot's samples: none where they are on a grid (R132, R197). -/
def stampedOf (s : State) (conv slot : Nat) : List (Nat × Stream) :=
  s.str.s.filter fun x => x.2.defd && x.2.cfg.kind == 6 && x.2.cfg.slots.contains slot && (gridOf s conv slot).isNone

/-- A sample of an auxiliary slot delivered: to its grid streams, or to its stamped streams where it is not on a grid
(R132, R197), the loops, the temperature users and its session's points. -/
def auxDeliver (conv : Nat) (e : BitVec 64) (v code : Int) (fl stamp : Nat) (event : Option Nat) (s : State) : State :=
  let slot := 544 + 16 * conv + auxDest e
  let onGrid := gridOf s conv slot
  let stamped := stampedOf s conv slot
  if fnOut s slot then forAll stamped s fun s x => loseEntry x.1 slot stamp (lossOf s slot (entryDeadline s x.2.cfg stamp) stamp) s
  else
    let w := mkWord v fl
    let x : AuxSample := { word := w, stamp, at_ := s.now, code, mode := auxMode e, gain := auxGain e }
    let s := { s with fe := { s.fe with auxLast := tset s.fe.auxLast slot ((x :: auxNewest s slot).take 128) } }
    let k := (chanOf s slot).next
    let s := match onGrid, event with
      | some r, some ev => commitSlot slot r (ev / rateRefs r) stamp stamp w w false s
      | _, _ => commitSlot slot 0xFF k stamp stamp w w false s
    let s := forAll stamped s fun s x => deliverEntry x.1 slot stamp w s
    let s := tempReceive slot w stamp s
    let bad := fl.land (fOvr + fClamp + fBad) != 0
    onSess s (0x274 + conv) fun y => { y with points := y.points.map fun p => if p.source = slot then pointFeed (!bad) code p else p }

/-- The mean of an averaged entry, halves up. -/
def meanOf (xs : List Int) : Int := meanRound (xs.foldl (· + ·) 0) xs.length

/-- The result of an averaged entry, with the conversions that it has gathered: the mean, its instant midway between the first
hold and the last, and its flags, `HOLD` at that instant (R50, R129). -/
def auxMean (conv : Nat) (e : BitVec 64) (a : AuxConv) (s : State) : State :=
  if a.acc = [] then s
  else
    let stamp := a.firstHold + (a.acc.length - 1) * (200 + auxDelay e) / 2
    let fl := a.acc.foldl (fun f x => f.lor x.2.2) (if holdAt s.tb.holdLog stamp then fHold else 0)
    auxDeliver conv e (meanOf (a.acc.map (·.1))) (meanOf (a.acc.map (·.2.1))) fl stamp a.event s

/-- AUX_CONVERSION_COMPLETE (R128): the conversion in progress ends 100 refs after its hold. Where a new table waits, the
result is delivered as it stands: an averaged entry delivers the mean of the holds it has taken (R133; DEDUCED, log 147). -/
def execAuxConversionComplete (conv : Fin 4) (code : Int) (s : State) : Outc :=
  let t := conv.val
  let a := auxOf s t
  match a.phase with
  | .converting hold rep =>
    if fnOut s (fnAuxConv t) then done s
    else
      let s := s.at_ (hold + 100)
      let e := a.table.getD a.pos 0
      let c := corrAt s (auxCorrKey t (auxMode e) (auxGain e)) hold
      let vw := codeWord (auxMode e) (trimCode c (auxMode e) code)
      let fl := vw.2.lor (if auxClamped s t e hold then fClamp else 0)
      let last := decide (auxRepeat e ≤ rep) || a.waiting.isSome
      let a := { a with acc := a.acc ++ [(vw.1, code, fl)], freeAt := hold + 100 + auxDelay e }
      let s := s.onAux t fun _ => a
      let s := if auxAvg e then (if last then auxMean t e a s else s)
        else auxDeliver t e vw.1 code (fl.lor (if holdAt s.tb.holdLog hold then fHold else 0)) hold a.event s
      let next := hold + 200 + auxDelay e
      done (s.onAux t fun a =>
        if a.waiting.isSome then { a with phase := .idle, muxAt := hold + 100, acc := [] }
        else if last then { auxEnter a (auxNext a) (hold + 100) next with event := if auxWait (a.table.getD (auxNext a) 0) then none else a.event }
        else { a with phase := .converting next (rep + 1), muxAt := hold + 100 })
  | _ => done s

/-! ### AUX_SCAN_LOAD applied (R133), and a converter that stops -/

/-- The table takes the shadow's place: once the conversion in progress is complete, or else at the boundary or at the end of
the `DELAY` in progress there, with the holds that an averaged entry has taken delivered (log 147). A converter that is out of
service keeps the table for its start. -/
def appAuxScanLoad (r : Req) (s : State) : State :=
  let c := rd r.p 4 1
  let t := applyT s
  match loadTable 256 (loadEntries r.parts) 0 with
  | none => s
  | some tb =>
    let a := auxOf s c
    if fnOut s (fnAuxConv c) then s.onAux c fun a => { auxHalt a with table := tb }
    else match a.phase with
      | .converting hold _ =>
        if t < hold then (auxMean c (a.table.getD a.pos 0) a s).onAux c fun a => auxStart a tb t
        else s.onAux c fun a => { a with waiting := some tb }
      | .idle => s.onAux c fun a => if a.waiting.isSome then { a with waiting := some tb } else auxStart a tb t
      | _ => s.onAux c fun a => auxStart a tb t

/-- A converter that is reset or disabled stops: the sample that it had in hand is lost to its stamped streams with `cause`
(R19), at the instant it would have had. -/
def auxLose (conv cause : Nat) (s : State) : State :=
  let a := auxOf s conv
  let e := a.table.getD a.pos 0
  let slot := 544 + 16 * conv + auxDest e
  let lost := match a.phase with
    | .converting hold _ =>
      if auxAvg e then (if hold ≤ s.now || a.acc ≠ [] then some (a.firstHold + auxRepeat e * (200 + auxDelay e) / 2) else none)
      else if hold ≤ s.now then some hold else none
    | _ => none
  let s := match lost with
    | some stamp => forAll (stampedOf s conv slot) s fun s x => loseEntry x.1 slot stamp (some cause) s
    | none => s
  s.onAux conv auxHalt

end Sys2Proof.Machine
end

