-- ==== Sys2Proof/Machine/Answer.lean ====
section
/-! DEFINITION. Responses: their bytes (R360), the response buffer and its interrupt (R356, R357, R398), the log of R364,
and the encapsulation in which mailboxes 6 and 7 answer (R443 to R445). -/
namespace Sys2Proof.Machine

/-! ### The collectors' encapsulation (R443) -/

/-- A datagram of the encapsulation with its tag. -/
def encap (s : State) (type role counter : Nat) (body : List Byte) : List Byte :=
  let key := (collOf s role).cfg.keyId
  let b := le 1 type ++ le 1 4 ++ le 1 key ++ le 1 role ++ le 2 (hubNo s) ++ le 2 body.length ++ le 4 s.pwr.bootCount.toNat ++ zeros 4
    ++ le 8 counter ++ body
  b ++ hmacTag (keyOf s key) b

/-- Where a role's datagrams go: its address and port, or the source of its last authenticated datagram (R442); none
where that is not on-link (R432). -/
def collDest (s : State) (role : Nat) : Option (BitVec 128 × Nat) :=
  let c := collOf s role
  (if c.cfg.addr != 0 then some (c.cfg.addr, c.cfg.udpPort) else if c.lastSrc != 0 then some (c.lastSrc, c.lastPrt) else none).filter
    fun d => onLink s d.1

/-- The next value of the hub's own counter toward a role (R445). -/
def takeCounter (role : Nat) (s : State) : Nat × State :=
  ((collOf s role).txCnt, s.onColl role fun c => { c with txCnt := c.txCnt + 1 })

/-! ### Responses -/

/-- The bytes of a response (R360). -/
def respBytes (r : Resp) : List Byte :=
  le 2 r.opcode ++ le 2 r.seq.toNat ++ le 2 r.payload.length ++ le 2 (statusCode r.status) ++ le 4 r.tick ++ le 4 r.detail ++ r.payload

/-- Bytes of a request as they were taken (R359). -/
def takenBytes (t : Taken) : List Byte :=
  le 2 t.opcode ++ le 2 t.hdr.seq.toNat ++ le 2 t.hdr.length.toNat ++ le 2 t.hdr.flags.toNat ++ le 4 t.hdr.applyTick.toNat
    ++ le 2 t.hdr.func.toNat ++ le 2 t.hdr.res.toNat ++ t.pay

/-- A whole response written, then `RESP_READY` set and `BUSY` cleared in one update (R357); mailboxes 6 and 7 answer
the source of the request with a datagram (R445). -/
def writeResp (m : Nat) (r : Resp) (s : State) : State :=
  let old := boxOf s m
  let s := monValue s 0x6 m ((s.now - old.rungAt : Nat))
  let s := s.onBox m fun b => { b with resp := padTo 256 (respBytes r), respReady := true, busy := false, lastSeq := r.seq,
                                       taken := none,
                                       restarts := if r.status = .restarted then b.restarts + 1 else b.restarts }
  let s := if m < 4 && old.respIrq && !old.respReady then s.msi (2 + m) else s
  if m < 6 then s
  else
    let c := takeCounter (m - 6) s
    let k := collOf s (m - 6)
    sendUdp k.lastSrc k.lastPrt 5 (encap s 0x31 (m - 6) c.1 (respBytes r)) c.2

/-- The statuses that a level-2 alias answers with; any other is `FUNCTION_STATE` with its code in `DETAIL` (R385). -/
def aliasResp (r : Resp) : Resp :=
  match r.status with
  | .ok | .accepted | .badOpcode | .badArgument | .notPermitted | .busy | .functionState => r
  | st => { r with status := .functionState, detail := statusCode st, payload := [] }

/-- An answer: logged among the last 16 unless it is `RESTARTED` or a stale sequence, and written. -/
def answer (m : Nat) (t : Taken) (r0 : Resp) (s : State) : State :=
  let r := if t.opcode / 256 = 0xF then aliasResp r0 else r0
  let s := if r0.status = .restarted || r0.status = .staleSequence then s
    else s.onBox m fun b => { b with log := ({ req := t, crc := crc32 (takenBytes t), resp := r } :: b.log).take 16 }
  writeResp m r s

end Sys2Proof.Machine
end

