-- ==== Sys2Proof/Machine/Lamp.lean ====
section
/-! DEFINITION. The two Lamplighters: fencing and takeover (R366, R468), and fencing on probation (R470). -/
namespace Sys2Proof.Machine

/-- A Lamplighter that can take over. -/
def lampReady (s : State) (l : Nat) : Bool := !tget s.pwr.llFenced l false && !fnOut s (fnLl l)

/-- The active Lamplighter fenced: its partner, if it has not been fenced, takes over; otherwise no firmware runs. The
spec does not number what fences a Lamplighter: `CAUSE` of R407 is a free value. A renewal or a disable that waits on the
Lamplighter ends with `FUNCTION_STATE`. -/
def fenceLamp (s : State) : State :=
  let a := s.pwr.llActive
  let b := 1 - a
  let s := s.onPwr fun p => { p with llFenced := tset p.llFenced a true, llUp := tset p.llUp a false }
  let v := s.free
  let s := endOwed (fnLl a) .functionState (fnCode .fault) v.2
  let s := fabReclaim (fnLl a) (s.onFn (fnLl a) fun f => { f with state := .fault, cause := v.1.toNat % 256 })
  if !s.pwr.fwUp then s
  else if !lampReady s b then s.onPwr fun p => { p with fwUp := false, llTakeover := false }
  else s.onPwr fun p => { p with llTakeover := true }

/-- LAMPLIGHTER_HEARTBEAT_MISS (R468). -/
def execLamplighterHeartbeatMiss (s : State) : Outc :=
  if s.pwr.fwUp && !s.pwr.llTakeover then done (fenceLamp s) else done s

/-- A mailbox as the partner finds it (R366): a request that was not validated is `RESTARTED`; a validated LEDGER_CLEAR
that waits for its check goes on waiting. Every other answer was written as its request was validated. -/
def takeoverBox (s : State) (m : Nat) : State :=
  let b := boxOf s m
  if !b.busy then s
  else
    let s := s.onBox m fun b => { b with takeover := [(0, true), (1, true)] }
    if s.mbx.waitLedger.any fun w => w.1 == m then s
    else match b.taken with
      | some t => answer m t { opcode := t.opcode, seq := t.hdr.seq, status := .restarted, tick := s.tb.tick } s
      | none => s.onBox m fun b => { b with busy := false }

/-- A live update ended by a fence on probation: the former Lamplighter has the previous image (R470). -/
def probationFallback (s : State) : State :=
  match s.pwr.fwUpdate with
  | some u =>
    let s := if u.probation then s.onPwr fun p => { p with fwRun := some u.prev, fwState := tset (tset p.fwState u.slot 2) u.prev 3 } else s
    complete u.owed .mismatch 0 s.tb.tick (s.onPwr fun p => { p with fwUpdate := none })
  | none => s

end Sys2Proof.Machine
end

