-- ==== Sys2Proof/Machine/Scrub.lean ====
section
/-! DEFINITION. The protection of record memory: the poison map and what a newly poisoned word does (R254 to R257), the
scrubber (R251 to R253), demand reads and BAR2 (R249, R261), and the migration of a bank (R258, R259). -/
namespace Sys2Proof.Machine

/-! ### Banks (R242) -/

/-- Logical bank of an address. -/
def logBank (a : Nat) : Nat := a / 64 % 32

/-- Physical bank that serves a logical bank. -/
def physOf (s : State) (b : Nat) : Nat := tget s.rm.physOf b b

/-- Logical bank that a physical bank serves. -/
def logOf (s : State) (ph : Nat) : Option Nat := (List.range 32).find? fun b => physOf s b == ph

/-- Address of line k of a logical bank. -/
def lineAddr (b k : Nat) : Nat := (32 * k + b) * 64

def State.onBankCnt (s : State) (ph : Nat) (f : PhysBank → PhysBank) : State :=
  s.onRm fun m => { m with bankCnt := tset m.bankCnt ph (f (tget m.bankCnt ph {})) }

/-- NO_SPARE_BANK (R258). -/
def noSpare (b : Nat) (s : State) : State := post 0x17 1 (fnMemBank b) b [] s

/-- A bank that is to migrate at the next boundary; with no free spare, a notice (R258). -/
def askMigrate (b : Nat) (s : State) : State :=
  if s.rm.wantMig.any fun e => e.1 == b then s
  else if s.rm.sparePhys.isNone || s.rm.mig.isSome then noSpare b s
  else s.onRm fun m => { m with wantMig := m.wantMig ++ [(b, none)] }

/-! ### A newly poisoned word (R255, R257, R491) -/

/-- What poisoning did: region, action, owner, its detail, words booked F. -/
structure PoisonDone where
  region : Nat
  action : Nat
  owner  : Nat := 0xFFFF
  detail : Nat := 0
  wordsF : Nat := 0
deriving DecidableEq, Repr

/-- Words of a block's body booked F with cause `UNCORRECTABLE`: in M at once, before the deadline when it passes. A word
that has not been written yet is not lost with the memory word. -/
def poisonWord (a : Stream × List Word32) (k : Nat) : Stream × List Word32 :=
  match a.2[k]? with
  | none => a
  | some w =>
    match w.st with
    | .inM => ((a.1.book fun c => { c with m := c.m - 1 }).bookF 5 1, a.2.set k { w := badWord, st := .inF })
    | .early => (a.1, a.2.set k { w := badWord, st := .dueF 5 })
    | _ => a

/-- A word poisoned in stream i's retention area, at byte `off` of it. -/
def poisonRetention (i off : Nat) (s : State) : PoisonDone × State :=
  let st := strOf s i
  match (st.asm ++ st.blocks).find? fun b => b.creds.contains (off / 1024) with
  | none => ({ region := 3, action := 0, owner := i }, s)
  | some b =>
    let o := b.creds.idxOf (off / 1024) * 1024 + off % 1024
    let res : PoisonDone := { region := 3, action := 3, owner := i, detail := b.seq.toNat }
    let coded := b.coded && st.cfg.compressed && rd b.bytes 64 2 == 0xC0C1
    let start := bodyOfs st.cfg
    let clear (s : State) : State := s.onRm fun m => { m with poison := m.poison.keep (· != (st.base + off) / 8 * 8) }
    if o < 64 then (res, clear s)
    else if coded || b.dst.any fun e => e.2.sent.isSome then
      let s2 := dropBlock i (some (5, true)) b (sendGone i b s)
      ({ res with action := 2, wordsF := ((strOf s2 i).cnt.f - st.cnt.f).toNat }, autoRelease i s2)
    else if o < start then (res, clear s)
    else
      let j := (o - start) / 4
      let ks := if st.cfg.kind = 6 then [j / 2] else [j, j + 1]
      let x := ks.foldl poisonWord (st, b.body)
      let bytes := if b.bytes = [] then [] else ks.foldl (fun bs k =>
        if (x.2.getD k {}).w = badWord then splice bs (start + (if st.cfg.kind = 6 then 8 else 4) * k) (le 4 badWord.toNat) else bs) b.bytes
      let nb := { b with body := x.2, bytes }
      let s2 := s.onStr i fun _ => { x.1 with asm := x.1.asm.map (fun y => if y == b then nb else y),
                                              blocks := x.1.blocks.map fun y => if y == b then nb else y }
      ({ res with action := 1, wordsF := (x.1.cnt.f - st.cnt.f).toNat }, s2)

/-- The index of an instance whose cells hold an address. -/
def instAt (s : State) (a : Nat) : Option Nat :=
  s.str.red.findIdx? fun r => decide (r.base ≤ a) && decide (a < r.base + redSize r.kind) && r.extent.2 != 0

/-- What the hub does, by region (R257). -/
def poisonAct (a : Nat) (s : State) : PoisonDone × State :=
  let inK (e : Nat × Nat) : Bool := decide (e.1 * 1024 ≤ a) && decide (a < (e.1 + e.2) * 1024)
  if a < 131072 then ({ region := 0, action := 6, owner := a / 65536 }, s)
  else match instAt s a with
  | some j =>
    let k := (a - ((redAt s j).map (·.base)).getD 0) / 4
    ({ region := 1, action := 5, owner := ((redAt s j).map (·.slot)).getD 0xFFFF },
      s.onRed j fun r => { r with poison := r.poison ++ [k, k + 1] })
  | none =>
  match s.rm.hist.findIdx? fun h => inK (h.base / 1024, h.size / 1024) with
  | some k => ({ region := 2, action := 0, owner := k }, s)
  | none =>
  match s.str.s.find? fun e => e.2.retained && inK (e.2.base / 1024, e.2.size / 1024) with
  | some e => poisonRetention e.1 (a - e.2.base) s
  | none =>
  match s.trg.grp.find? fun e => e.2.size != 0 && inK (e.2.base / 1024, e.2.size / 1024) with
  | some e =>
    let r := e.2.recs.find? fun r => decide (r.ofs ≤ a) && decide (a < r.ofs + r.reserved)
    ({ region := 4, action := 4, owner := e.1, detail := (r.map (·.no.toNat)).getD 0 }, s)
  | none =>
  match s.cop.find? fun j => decide (j.base ≤ a) && decide (a < j.base + j.size) with
  | some j => ({ region := 5, action := 7, owner := j.tag.toNat }, endJob j .mismatch s)
  | none => ({ region := 6, action := 0 }, s)

def poisonNotice (addr phys log_ src : Nat) (d : PoisonDone) (s : State) : State :=
  post 0x11 1 src addr (le 1 phys ++ le 1 log_ ++ le 1 d.region ++ le 1 d.action ++ le 2 d.owner ++ zeros 2 ++ le 4 d.detail ++ le 4 d.wordsF
    ++ zeros 24) s

/-- The first detection of an uncorrectable word of record memory (R255). A later one does nothing. -/
def poisonSet (addr : Nat) (s : State) : State :=
  let a := addr / 8 * 8
  if s.rm.poison.has a then s
  else
    let b := logBank a
    let s := s.onRm fun m => { m with poison := m.poison.add a }
    let s := s.onBankCnt (physOf s b) fun c => { c with uncorr := c.uncorr + 1 }
    let d := poisonAct a s
    let s := poisonNotice a (physOf s b) b (fnMemBank b) d.1 d.2
    if s.rm.ueMigrate then askMigrate b s else s

/-- The same for Lamplighter memory. Which of its words are code is left open (log 27): a free value. A code page of 4 KiB is
reloaded from flash, which writes its words anew (R256, R257). -/
def llPoisonSet (addr : Nat) (s : State) : State :=
  let a := addr / 8 * 8
  if s.rm.llPoison.has a then s
  else
    let f := s.free
    let s := f.2.onRm fun m => { m with llPoison := m.llPoison.add a }
    let s := s.onBankCnt 33 fun c => { c with uncorr := c.uncorr + 1 }
    if bit f.1.toNat 0 then
      poisonNotice a 33 0xFF 0 { region := 7, action := 8 } (s.onRm fun m => { m with llPoison := m.llPoison.keep fun w => w / 4096 != a / 4096 })
    else
      let s := poisonNotice a 33 0xFF 0 { region := 8, action := 9 } s
      if s.pwr.llTakeover then s else fenceLamp s

/-! ### SCRUB_LINE (R251 to R253) -/

def isCorrected (e : SymErr) : Bool := match e.kind with | .uncorrectable => false | _ => true

/-- The corrected symbols of a line counted; more than `CE_LIMIT` in one sweep asks for a migration (R258). -/
def countCorrected (ph n : Nat) (s : State) : State :=
  let old := (tget s.rm.bankCnt ph {}).thisSweep.toNat
  let s := s.onBankCnt ph fun c => { c with thisSweep := c.thisSweep + BitVec.ofNat 32 n, total := c.total + BitVec.ofNat 64 n }
  match logOf s ph with
  | some b => if s.rm.ceLimit != 0 && decide (old ≤ s.rm.ceLimit) && decide (s.rm.ceLimit < old + n) then askMigrate b s else s
  | none => s

/-- A sweep ends after the last line of Lamplighter memory. -/
def endSweep (m : RecMem) : RecMem :=
  { m with pos := 0, sweeps := m.sweeps + 1,
           bankCnt := m.bankCnt.map fun e => (e.1, { e.2 with lastSweep := e.2.thisSweep, thisSweep := 0 }) }

/-- Lines of the 33 banks and of Lamplighter memory. -/
def bankLines : Nat := 32768
def allLines : Nat := 33 * 32768 + 65536

/-- The copies of the poison map brought to their majority for the eight words of a line (R254). -/
def voteLine (a : Nat) (p : PoisonMap) : PoisonMap := (List.range 8).foldl (fun p i => p.vote (a + 8 * i)) p

/-- SCRUB_LINE (R251): the next line is read; a line with a corrected symbol is written back unless a newer write
intervened (R252), and a miscorrected symbol is then stored as it was read. Paused from the start of a migration to its
hand-over (R253, R259). -/
def execScrubLine (errs : List SymErr) (raced : Bool) (s : State) : Outc :=
  if !s.pwr.memReady || s.rm.mig.isSome || fnState s 0x328 != .running || (fnOf s 0x328).held then done s
  else
    let pos := s.rm.pos
    let errs := errs.filter fun e => decide (e.ofs < 64)
    let ph := min (pos / bankLines) 33
    let fixed := (errs.filter isCorrected).length
    let s := if fixed = 0 then s else countCorrected ph fixed s
    let s := if pos < 33 * bankLines then
        match logOf s ph with
        | none =>
          let n := (errs.filter fun e => !isCorrected e).map fun e => e.ofs / 8
          if n = [] then s else s.onBankCnt ph fun c => { c with uncorr := c.uncorr + BitVec.ofNat 32 n.eraseDups.length }
        | some b =>
          let a := lineAddr b (pos % bankLines)
          let s := s.onRm fun m => { m with poison := voteLine a m.poison }
          let s := if raced then s else forAll errs s fun s e => match e.kind with
            | .miscorrected v => s.onRm fun m => { m with mem := memWrite 0 m.mem (a + e.ofs) v }
            | _ => s
          forAll (errs.filter fun e => !isCorrected e) s fun s e => poisonSet (a + e.ofs) s
      else
        let a := (pos - 33 * bankLines) * 64
        forAll (errs.filter fun e => !isCorrected e) (s.onRm fun m => { m with llPoison := voteLine a m.llPoison }) fun s e => llPoisonSet (a + e.ofs) s
    done (if pos + 1 < allLines then s.onRm fun m => { m with pos := pos + 1 } else s.onRm endSweep)

/-! ### Demand reads (R249, R255, R261) -/

/-- Whether some window of a protection entry holds a byte. -/
def granted (p : Prot) (a : Nat) : Bool := p.windows.any fun w => decide (w.1 ≤ a) && decide (a < w.1 + w.2)

/-- A read of record memory by a host: corrected symbols counted against their bank, an uncorrectable word poisoned. -/
def memDemand (a n : Nat) (errs : List SymErr) (s : State) : List Byte × State :=
  let errs := errs.filter fun e => decide (e.ofs < n)
  let s := forAll errs s fun s e =>
    if isCorrected e then s.onBankCnt (physOf s (logBank (a + e.ofs))) fun c => { c with total := c.total + 1 } else poisonSet (a + e.ofs) s
  let bs := rmClean s a n
  (errs.foldl (fun bs e => match e.kind with
    | .miscorrected v => if s.rm.poison.has ((a + e.ofs) / 8 * 8) then bs else bs.set e.ofs v
    | _ => bs) bs, s)

/-- A host's read under its protection entry: a byte outside its windows reads 0xFF, and a read with such a byte is counted. -/
def hostMemRead (entry a n : Nat) (errs : List SymErr) (s : State) : List Byte × State :=
  let ok (k : Nat) : Bool := s.pwr.memReady && decide (a + k < rmBytes) && granted (protOf s entry) (a + k)
  let r := memDemand a n (errs.filter fun e => ok e.ofs) s
  if (List.range n).all ok then r
  else ((List.range n).map fun k => if ok k then r.1.getD k 0 else 0xFF,
    r.2.onGlb fun g => { g with bar2Denied := g.bar2Denied + 1, bar2Rose := true })

/-- BAR2_READ (R261). -/
def execBar2Read (addr len : Nat) (errs : List SymErr) (s : State) : Outc :=
  if rmBytes < addr + len then .fault (.noSuchAddress (addr + len - 1))
  else
    let r := hostMemRead 0 addr len errs s
    done (r.2.onIo fun i => { i with pOut := r.1 })

/-- BAR2_WRITE (R261): discarded and counted. -/
def execBar2Write (addr : Nat) (data : List Byte) (s : State) : Outc :=
  if rmBytes < addr + data.length then .fault (.noSuchAddress (addr + data.length - 1))
  else done (s.onGlb fun g => { g with bar2Writes := g.bar2Writes + 1, bar2Rose := true })

/-! ### Migration (R258, R259) -/

/-- MIGRATION_START (R259): at a tick boundary, a bank that was asked for starts to copy; with no free spare it stays
in service. -/
def execMigrationStart (bank : Fin 32) (s : State) : Outc :=
  let b := bank.val
  match s.rm.wantMig.find? fun e => e.1 == b with
  | none => done s
  | some w =>
    let s := s.onRm fun m => { m with wantMig := m.wantMig.filter fun e => e.1 != b }
    if s.rm.sparePhys.isNone || s.rm.mig.isSome then
      let s := (endOwed (fnMemBank b) .functionState (fnCode .running) s).onFn (fnMemBank b) fun f => { f with state := .running }
      done (completeOpt w.2 .functionState 0 s.tb.tick (noSpare b s))
    else done ((s.onRm fun m => { m with mig := some { bank := b, phase := .copying, owed := w.2 } }).onFn (fnMemBank b) fun f => { f with state := .renewing })

/-- MIGRATION_COPY_DONE (R259). -/
def execMigrationCopyDone (s : State) : Outc :=
  done (s.onRm fun m => { m with mig := m.mig.map fun g => { g with phase := .copied } })

/-- The enabled streams with words in record memory, each with the indices on both sides of its next word: earlier ones were
copied, later ones are written to the spare (R29, R30; log 137). -/
def memEntries (s : State) : List (Nat × Nat × Nat) :=
  (s.str.s.filter fun e => e.2.enabled && decide (0 < e.2.nextM)).map fun e => (e.1, e.2.nextM - 1, e.2.nextM)

/-- What the spare holds of a bank's bytes: a poisoned word was copied as the zero symbol (R259). -/
def copyPoisoned (b : Nat) (m : RecMem) : RecMem :=
  { m with mem := (m.poison.words.filter fun w => logBank w == b).foldl (fun k w => memWrites 0 k w (zeros 8)) m.mem }

/-- MIGRATION_SWITCH (R259): the spare serves the bank; the former physical bank leaves service without a number. -/
def execMigrationSwitch (s : State) : Outc :=
  match s.rm.mig, s.rm.sparePhys with
  | some g, some sp =>
    if g.phase != .copied then done s
    else
      let old := physOf s g.bank
      let s := s.onRm fun m => { copyPoisoned g.bank m with physOf := tset m.physOf g.bank sp, sparePhys := none, retired := m.retired ++ [old], mig := none }
      let s := handOver (fnMemBank g.bank) fnSpareBank false (memEntries s) (s.onFn fnSpareBank fun f => { f with state := .off })
      -- a migration that a renewal asked for tests the former bank; one that a disable asked for leaves it off (R259, R463, R466)
      let id := fnMemBank g.bank
      done (if (fnOf s id).disOwed != [] then
          (endOwed id .ok 0 (completeOpt g.owed .functionState (fnCode .off) s.tb.tick s)).onFn id fun f => { f with state := .off, standIn := fnSpareBank }
        else if g.owed.isSome then s.onFn id fun f => { f with state := .renewing, standIn := fnSpareBank, renOwed := g.owed, renew := some .testing, testing := true }
        else s.onFn id fun f => { f with state := .running })
  | _, _ => done s

/-! ### MEM_STATUS, SCRUB_CONFIG (R377) -/

def chkMemStatus (s : State) (r : Req) : Ans :=
  let ph := rd r.p 0 1
  let c := tget s.rm.bankCnt ph {}
  let lg := if s.rm.sparePhys = some ph then 0xFE else match logOf s ph with | some b => b | none => 0xFF
  firstOf [(decide (33 < ph), badAt 0)]
    (.reply 0 (le 1 lg ++ zeros 3 ++ le 4 c.lastSweep.toNat ++ le 4 c.uncorr.toNat ++ le 8 c.total.toNat))

def chkScrubConfig (_s : State) (r : Req) : Ans :=
  firstOf [(decide (3600 < rd r.p 0 2), badAt 0), (decide (1 < rd r.p 4 1), badAt 4)] (.stage .ok 0)

def appScrubConfig (r : Req) (s : State) : State :=
  s.onRm fun m => { m with period := if rd r.p 0 2 = 0 then 60 else rd r.p 0 2, ceLimit := rd r.p 2 2, ueMigrate := bit (rd r.p 4 1) 0 }

end Sys2Proof.Machine
end

