-- ==== Sys2Proof/Machine/Cal.lean ====
section
/-! DEFINITION. Calibration in service (R331 to R353): sessions, the match test, the change of delivery, points, the fit,
the calibration store and the return. -/
namespace Sys2Proof.Machine

def sessOf (s : State) (k : Nat) : Option Session := (s.cal.sess.find? fun e => e.1 == k).map (·.2)

def putSess (k : Nat) (x : Session) (s : State) : State := { s with cal := { s.cal with sess := tset s.cal.sess k x } }

def dropSess (k : Nat) (s : State) : State := { s with cal := { s.cal with sess := tdel s.cal.sess k } }

/-- A front end that delivers outputs for its own slot, for its channel or for a session has a chain. -/
def runFe (n t : Nat) (s : State) : State :=
  if (chanOf s n).chains.all (·.hi.isSome) then s.onChan n (startChain s t) else s

/-- A front end whose slot is not enabled rests again. -/
def restFe (n t : Nat) (s : State) : State := if (chanOf s n).enabled then s else s.onChan n (stopChain t)

def isConv (k : Nat) : Bool := decide (0x274 ≤ k) && decide (k ≤ 0x277)

/-- The number by which CAL_MATCH_WINDOW and CAL_POINT_COMPLETE name a session: its bank, or 16 + converter. -/
def unitSess (s : State) (u : Nat) : Option (Nat × Session) :=
  if u < 16 then bankSess s u else (sessOf s (0x274 + (u - 16))).map fun x => (0x274 + (u - 16), x)

/-! ### Going out (R333, R335) -/

/-- A session opened at instant t: an enabled channel's spare comes beside it; any other target goes to `PARKED`. -/
def openSess (k : Nat) (x : Session) (t : Nat) (s : State) : State :=
  if isConv k then completeOpt x.owed .ok 0 s.tb.tick (putSess k { x with phase := .out, owed := none } s)
  else if isPrec k && (chanOf s k).enabled then
    let s := setRoute (512 + k / 32) .channel (k % 32) t s
    putSess k { x with phase := .overlapOut } (setGain (512 + k / 32) (chanOf s k).gain t s)
  else
    let s := setRoute k .parked 0 t s
    let s := if isSpare k then s.onChan k fun c => { c with rate := if x.rate = 0xFF then c.rate else x.rate, set := if x.set = 0xFF then c.set else x.set } else s
    let s := if isSpare k && (x.rate != 0xFF || x.set != 0xFF) then s.onChan k (startChain s t) else runFe k t s
    completeOpt x.owed .ok 0 s.tb.tick (putSess k { x with phase := .out, owed := none, gain0 := some (chanOf s k).gain } s)

/-- Whether an FE_ROUTE is staged for a bank (R334, R414). -/
def routeStaged (s : State) (b : Nat) : Bool :=
  s.mbx.staged.any fun g => match g.cmd with | .feRoute _ p => rd p 0 1 == b | _ => false

/-- The conditions of R334 for a bank and its target. -/
def bankFree (s : State) (k : Nat) : List (Bool × Ans) :=
  let b := bankOf k
  [(bankInSession s b, .refuse .busy 0), (routeStaged s b, .refuse .busy 0),
   (decide (fnState s k = .renewing) || decide (fnState s (512 + b) = .renewing), .refuse .busy 0),
   (decide ((chanOf s (512 + b)).route ≠ .parked), .refuse .functionState (fnCode (fnState s (512 + b)))),
   ((bankSt s b).legacyHeld, .refuse .functionState (fnCode (fnState s (512 + b))))]

def isTarget (k : Nat) : Bool := decide (k < 528) || isConv k

def chkCalBegin (s : State) (r : Req) : Ans :=
  let p := r.p
  let k := rd p 0 2
  let rate := rd p 2 1
  let set := rd p 3 1
  let nm := rd p 4 4
  let rt := if rate = 0xFF then (chanOf s k).rate else rate
  firstOf ([(!isTarget k, badAt 0), (isSpare k && rate != 0xFF && decide (11 < rate), badAt 2),
    (isSpare k && set != 0xFF && (decide (7 < set) || !chainDefined s.chd s.chd.active set rt), badAt 3),
    (nm != 0 && (decide (nm < 16) || decide (65536 < nm)), badAt 4)] ++
    (if isConv k then [((sessOf s k).isSome, .refuse .busy 0), (decide (fnState s k = .renewing), .refuse .busy 0)] else bankFree s k))
    (.stage .accepted 0)

def appCalBegin (o : Owed) (r : Req) (s : State) : State :=
  let p := r.p
  let k := rd p 0 2
  openSess k { target := k, phase := .overlapOut, nMatch := if rd p 4 4 = 0 then 256 else rd p 4 4, mOfs := rd p 8 2, mRms := rd p 10 2,
               qMax := rd p 12 2, rate := rd p 2 1, set := rd p 3 1, owed := some o } (applyT s) s

/-! ### The match test (R336) -/

def million : F64 := 0x412E848000000000

/-- Mean and standard deviation of differences (the sample deviation: DESIGN CHOICE, log 32), in binary64. -/
def meanSd (ds : List F64) : F64 × F64 :=
  let n := F64.ofInt ds.length
  let m := F64.div (F64.sum ds) n
  let v := F64.sum (ds.map fun d => let e := F64.sub d m; F64.mul e e)
  (m, F64.sqrt (F64.div v (F64.sub n F64.one)))

/-- The differences of a window from index w. -/
def windowDiffs (x : Session) (w : Nat) : List F64 :=
  (x.xSpare.filter fun e => decide (w ≤ e.1) && decide (e.1 < w + x.nMatch) && thas x.xChan e.1).map fun e => F64.sub e.2 (tget x.xChan e.1 0)

def windowPasses (x : Session) (ms : F64 × F64) : Bool :=
  F64.le (F64.mul (F64.abs ms.1) million) (F64.ofInt x.mOfs) && F64.le (F64.mul ms.2 million) (F64.ofInt x.mRms)

/-- A session without its window. -/
def clearWindow (x : Session) : Session :=
  { x with windows := 0, winFrom := none, seenChan := 0, seenSpare := 0, xChan := [], xSpare := [] }

/-- The slot leaves calibration: its own gain is in force again. -/
def restoreGain (k : Nat) (x : Session) (t : Nat) (s : State) : State :=
  match x.gain0 with | some g => setGain k g t s | none => s

/-- The end of a session whose match failed on the way out: the spare is parked again (R336). -/
def failOut (k : Nat) (x : Session) (s : State) : State :=
  let s := dropSess k (setRoute (512 + k / 32) .parked 0 s.now s)
  let s := match x.forFunc with
    | some id => funcFail id s
    | none => s
  completeOpt x.owed .mismatch 0 s.tb.tick s

/-- The return match failed: the channel front end is parked again, and a session of CAL_BEGIN stays open (R352). In a
renewal the slot enters `FAULT` and the spare keeps its work (R466, R471); the code of its cause is a free value. -/
def failBack (k : Nat) (x : Session) (s : State) : State :=
  let s := setRoute k .parked 0 s.now s
  match x.forFunc with
  | some id =>
    let v := s.free
    let s := funcFail id (dropSess k v.2)
    let s := s.onFn k fun f => { f with state := .fault, cause := v.1.toNat % 256 }
    consumeStandIn k (512 + k / 32) s
  | none => completeOpt x.owed .mismatch 0 s.tb.tick (putSess k { clearWindow x with phase := .mismatchHeld, windows := 8, owed := none } s)

/-- CAL_MATCH_WINDOW (R336): the window of a bank's session that has been seen whole. A discarded window counts among
the eight (DEDUCED, log 32). -/
def execCalMatchWindow (b : Fin 16) (s : State) : Outc :=
  match bankSess s b.val with
  | none => done s
  | some (k, x) =>
    match x.winFrom, inMatch x.phase with
    | some w, true =>
      if min x.seenChan x.seenSpare < w + x.nMatch then done s
      else
        let ds := windowDiffs x w
        let ms := meanSd ds
        let enough := decide (x.nMatch ≤ 2 * ds.length)
        let x := if enough then { x with mean := F64.mul ms.1 million, sd := F64.mul ms.2 million } else x
        if enough && windowPasses x ms then
          done (putSess k { clearWindow x with windows := x.windows + 1, phase := if x.phase = .overlapOut then .switchOut else .switchBack } s)
        else if x.windows + 1 = 8 then done (if x.phase = .overlapOut then failOut k x s else failBack k x s)
        else done (putSess k { x with windows := x.windows + 1, winFrom := some (w + x.nMatch) } s)
    | _, _ => done s

/-! ### The change of delivery (R337, R351) -/

/-- The streams that carry a slot's samples now, each with the indices on both sides of n0 (R29). -/
def slotEntries (s : State) (k n : Nat) : List (Nat × Nat × Nat) :=
  (s.str.s.filter fun e => e.2.enabled && e.2.cfg.slots.contains k).map fun e => (e.1, n - 1, n)

/-- Delivery of a channel passes to the spare, or back, from n0 of the present tick. -/
def switchDelivery (k : Nat) (back : Bool) (s : State) : State :=
  let b := k / 32
  let n := n0 s.tb.tick (rateRefs (chanOf s k).rate)
  let s := s.onBank b fun x => if back then { x with deliver := none, back := some (k % 32, n) } else { x with deliver := some (k % 32, n), back := none }
  handOver (fnSlot k) (512 + b) back (slotEntries s k n) s

/-- CAL_DELIVERY_SWITCH (R337): at the first tick boundary after a passing window. -/
def execCalDeliverySwitch (b : Fin 16) (s : State) : Outc :=
  match bankSess s b.val with
  | none => done s
  | some (k, x) =>
    let n := n0 s.tb.tick (rateRefs (chanOf s k).rate)
    if x.phase = .switchOut then done (putSess k { x with phase := .parking, swIndex := n } (switchDelivery k false s))
    else if x.phase = .switchBack then done (putSess k { x with phase := .parkBack, swIndex := n } (switchDelivery k true s))
    else done s

/-- The instant from which the front end that has stopped delivering may leave its pins. -/
def parkFrom (s : State) (k n : Nat) : Nat := (n - 1 + slotHalf s k) * rateRefs (chanOf s k).rate

/-- CAL_FRONT_END_PARK (R337, R351): the front end that stopped delivering is parked at the first boundary at which no
output that it delivered can see it. -/
def execCalFrontEndPark (b : Fin 16) (s : State) : Outc :=
  match bankSess s b.val with
  | none => done s
  | some (k, x) =>
    let t := applyT s
    if t < parkFrom s k x.swIndex then done s
    else if x.phase = .parking then
      let s := setRoute k .parked 0 t s
      if x.legacy then
        let s := dropSess k s
        let s := match x.forFunc with
          | some id => s.onFn id fun f => { f with state := .draining, standIn := 512 + k / 32, drainTo := parkFrom s k x.swIndex + 6144 }
          | none => completeOpt x.owed .ok 0 s.tb.tick (consumeStandIn k (512 + k / 32) (s.onBank b.val fun y => { y with legacyHeld := true }))
        done s
      else
        let s := putSess k { x with phase := .out, owed := none, gain0 := some (chanOf s k).gain } s
        done (match x.forFunc with
          | some _ => s.onFn k fun f => { f with standIn := 512 + k / 32, testing := true }
          | none => completeOpt x.owed .ok 0 s.tb.tick s)
    else if x.phase = .parkBack then
      let s := dropSess k (setRoute (512 + k / 32) .parked 0 t s)
      let s := (s.onBank b.val fun y => { y with legacyHeld := false }).onFn k fun f => { f with standIn := 0xFFFF, consumed := false }
      done (match x.forFunc with
        | some id => s.onFn id fun f => { f with renew := some .returning }
        | none => completeOpt x.owed .ok 0 s.tb.tick s)
    else done s

/-! ### Points (R338 to R340, R344) -/

/-- Full scale of a gain: 10 V / 2^G, or that of R85 for an auxiliary converter's 4 × `MODE` + gain code. -/
def fullScale (conv : Bool) (g : Nat) : F64 :=
  if conv then F64.ofRat false 5 ((if g / 4 = 0 then 1 else 2) * 2 ^ (g % 4)) else F64.ofRat false 10 (2 ^ g)

/-- The code of full scale. -/
def fullCode (conv : Bool) (g : Nat) : Nat := if conv then (if g / 4 = 0 then 262144 else 131072) else 8388608

/-- The entries that feed an auxiliary slot. -/
def feeders (s : State) (conv dest : Nat) : List (BitVec 64) := (auxTable (auxOf s conv)).filter fun e => !auxWait e && auxDest e == dest

def pointRuns (x : Session) : Bool := x.points.any fun p => !p.done

def samePoint (g : Nat) (v : F64) (p : CalPoint) : Bool := p.gain == g && (p.v == v || (F64.isZero p.v && F64.isZero v))

def chkCalPoint (s : State) (r : Req) : Ans :=
  let p := r.p
  let k := rd p 0 2
  let g := rd p 2 1
  let src := rd p 3 1
  let m := rd p 4 4
  let v := rdF p 8
  let cv := isConv k
  let gainBad := if cv then decide (1 < g / 4) || g % 4 == 3 else decide (7 < g)
  let fs := feeders s (k - 0x274) src
  let srcBad := if cv then decide (15 < src) || fs.isEmpty || !(fs.all fun e => 4 * auxMode e + auxGain e == g) else decide (1 < src)
  let limit := F64.mul 0x3FEE666666666666 (fullScale cv g)
  let busOther := !cv && src == 1 && (bankSlots (bankOf k)).any fun n => n != k && decide ((chanOf s n).route = .refbus)
  match sessOf s k with
  | none => firstOf [(!isTarget k, badAt 0)] (.refuse .functionState (fnCode (fnState s k)))
  | some x =>
    firstOf [(gainBad, badAt 2), (srcBad, badAt 3), (decide (m < 16) || decide (1048576 < m), badAt 4),
      ((!cv && src == 0 && !F64.isZero v) || !F64.le (F64.abs v) limit, badAt 8),
      (!(x.phase == .out || x.phase == .mismatchHeld), .refuse .functionState (fnCode (fnState s k))),
      (busOther || pointRuns x, .refuse .busy 0),
      (!x.points.any (samePoint g v) && decide (8 ≤ (x.points.filter fun q => q.gain == g).length), .refuse .noSpace 0)]
      (.stage .accepted 0)

def appCalPoint (o : Owed) (r : Req) (s : State) : State :=
  let p := r.p
  let k := rd p 0 2
  let g := rd p 2 1
  let src := rd p 3 1
  let t := applyT s
  let s := if isConv k then s else setGain k g t (setRoute k (if src = 1 then .refbus else .parked) 0 t s)
  let pt : CalPoint := { gain := g, source := if isConv k then 544 + 16 * (k - 0x274) + src else src, m := rd p 4 4, v := rdF p 8, owed := some o }
  onSess s k fun x => { x with points := x.points.filter (fun q => !samePoint g pt.v q) ++ [pt] }

/-- Mean and sample standard deviation of counts: the exact values, each rounded once (log 32). -/
def pointStats (vs : List Int) : F64 × F64 :=
  let n := vs.length
  let sum := vs.foldl (· + ·) 0
  let sq := vs.foldl (fun a v => a + v * v) 0
  let num := ((n : Int) * sq - sum * sum).toNat
  (F64.ofRat (decide (sum < 0)) sum.natAbs n, F64.sqrt (F64.ofRat false num (n * (n - 1))))

/-- CAL_POINT_COMPLETE (R339): the running point of a bank's or converter's session. -/
def execCalPointComplete (k : Fin 20) (s : State) : Outc :=
  match unitSess s k.val with
  | none => done s
  | some (key, x) =>
    match x.points.find? fun p => !p.done with
    | none => done s
    | some p =>
      if p.m ≤ p.vals.length then
        let st := pointStats (p.vals.drop (p.vals.length - p.m))
        let q := { p with done := true, vals := [], mean := st.1, sd := st.2, tick := s.tb.tick, owed := none }
        done (completeOpt p.owed .ok 0 s.tb.tick (onSess s key fun x => { x with points := x.points.map fun y => if y == p then q else y }))
      else if 4 * p.m ≤ p.seen then
        done (completeOpt p.owed .mismatch 1 s.tb.tick (onSess s key fun x => { x with points := x.points.erase p }))
      else done s

/-! ### The fit (R341, R342) -/

def pointIdeal (cv : Bool) (p : CalPoint) : F64 := F64.mul (F64.div p.v (fullScale cv p.gain)) (F64.ofInt (fullCode cv p.gain))

/-- Least squares of m = a + b u, in binary64. -/
def fitLine (us ms : List F64) : F64 × F64 :=
  let n := F64.ofInt us.length
  let ub := F64.div (F64.sum us) n
  let mb := F64.div (F64.sum ms) n
  let du := us.map fun u => F64.sub u ub
  let dm := ms.map fun m => F64.sub m mb
  let b := F64.div (F64.sum (List.zipWith F64.mul du dm)) (F64.sum (du.map fun d => F64.mul d d))
  (F64.sub mb (F64.mul b ub), b)

/-- The store entry of a target's gain (R346). -/
def entryOf (k g : Nat) : Nat := if isConv k then 3 * (g / 4) + g % 4 else 8 * (if isSpare k then 32 else k % 32) + g

/-- The quality figure in units of 0.1 ppm, rounded up (R342). -/
def qualityOf (cv : Bool) (o g : F64) (ps : List CalPoint) : Nat :=
  ps.foldl (fun q p =>
    let sc := F64.div million (F64.ofInt (fullCode cv p.gain))
    let r := F64.mul (F64.sub (F64.mul (F64.sub p.mean o) g) (pointIdeal cv p)) sc
    let n := F64.div (F64.mul (F64.mul (F64.mul (F64.ofInt 2) p.sd) g) sc) (F64.sqrt (F64.ofInt p.m))
    let t := F64.mul (F64.add (F64.abs r) n) (F64.ofInt 10)
    max q ((F64.ceil t).getD 65535).toNat) 0

/-- The fit of one gain, or the refusal. -/
def fitGain (k qMax : Nat) (ps : List CalPoint) : Except Ans CalResult :=
  let cv := isConv k
  let g := (ps.map (·.gain)).headD 0
  let fs := fullScale cv g
  let vs := ps.map (·.v)
  let hi := vs.foldl (fun a v => if F64.lt a v then v else a) (vs.headD 0)
  let lo := vs.foldl (fun a v => if F64.lt v a then v else a) (vs.headD 0)
  if ps.length < 2 || F64.lt (F64.sub hi lo) (F64.mul 0x3FE0000000000000 fs) then .error (badAt 0)
  else
    let ab := fitLine (ps.map (pointIdeal cv)) (ps.map (·.mean))
    let lim : F64 := 0x3F747AE147AE147B
    if F64.lt lim (F64.abs (F64.sub ab.2 F64.one)) || F64.lt (F64.mul lim (F64.ofInt (fullCode cv g))) (F64.abs ab.1) then .error (.refuse .mismatch 2)
    else
      let gn := F64.div F64.one ab.2
      let q := qualityOf cv ab.1 gn ps
      .ok { entry := entryOf k g, o := ab.1, g := gn, quality := min q 65535, isOver := decide (qMax < q), tick := ps.foldl (fun t p => max t p.tick) 0 }

/-- Every gain that has points, fitted in gain order. -/
def fitAll (k qMax : Nat) (ps : List CalPoint) : Except Ans (List CalResult) :=
  ((List.range 8).map fun g => ps.filter fun p => p.gain == g && p.done).foldl (fun a gp =>
    match a with
    | .error e => .error e
    | .ok rs => if gp.isEmpty then .ok rs else match fitGain k qMax gp with | .ok r => .ok (rs ++ [r]) | .error e => .error e) (.ok [])

def chkCalCompute (s : State) (r : Req) : Ans :=
  let k := rd r.p 0 2
  match sessOf s k with
  | none => firstOf [(!isTarget k, badAt 0)] (.refuse .functionState (fnCode (fnState s k)))
  | some x =>
    match fitAll k x.qMax x.points with
    | .error e => e
    | .ok rs =>
      if rs.isEmpty then badAt 0
      else .reply 0 (le 1 rs.length ++ zeros 3 ++ (rs.map fun y => le 2 y.entry ++ le 2 y.quality ++ zeros 4 ++ leF y.o ++ leF y.g).flatten)

/-- The results staged with the answer. -/
def actCalCompute (r : Req) (s : State) : State :=
  onSess s (rd r.p 0 2) fun x => match fitAll x.target x.qMax x.points with
    | .ok rs => { x with results := rs }
    | .error _ => x

/-! ### The store (R346 to R349) -/

def calOfs (s : State) : Nat := (s.pwr.boot.map (·.calOfs)).getD 0

/-- Flash offset of a slot of a page. -/
def slotOfs (s : State) (p k : Nat) : Nat := calOfs s + (2 * p + k) * 8192

def flashRead (s : State) (a n : Nat) : List Byte := memReads 0xFF s.pwr.flash a n

def flashWrite (a : Nat) (bs : List Byte) (s : State) : State := s.onPwr fun p => { p with flash := memWrites 0xFF p.flash a bs }

def pageEntries (p : Nat) : Nat := if p < 16 then 264 else 6

def slotOk (p : Nat) (b : List Byte) : Bool :=
  rd b 0 2 == 0xCA5E && rd b 2 1 == 4 && rd b 3 1 == p && rd b 56 4 == (crc32 (b.drop 64)).toNat && rd b 60 4 == (crc32 (b.take 60)).toNat

/-- The entries of a page: as stored, or o = 0 and g = 1 where neither slot is valid. -/
def pageBody (s : State) (p : Nat) : List Byte :=
  match tget (s.cal.inUse.map fun e => (e.1, some e.2)) p none with
  | some x => flashRead s (slotOfs s p x.1 + 64) 8128
  | none => padTo 8128 ((List.replicate (pageEntries p) (leF 0 ++ leF F64.one ++ zeros 8)).flatten)

/-- Results merged into a page's entries. -/
def mergeResults (rs : List CalResult) (b : List Byte) : List Byte :=
  rs.foldl (fun b r => splice b (24 * r.entry) (leF r.o ++ leF r.g ++ le 4 r.tick ++ le 2 r.quality ++ le 2 (1 + 2 * b2n r.isOver))) b

/-- A whole slot. -/
def slotBytes (p seq tick : Nat) (body : List Byte) : List Byte :=
  let h := padTo 56 (le 2 0xCA5E ++ le 1 4 ++ le 1 p ++ le 4 seq ++ le 8 tick ++ le 2 (pageEntries p)) ++ le 4 (crc32 body).toNat
  h ++ le 4 (crc32 h).toNat ++ body

def pageOf (k : Nat) : Nat := if isConv k then 16 + (k - 0x274) else bankOf k

/-- The coefficients of a page's bytes in force from instant t on. -/
def setCorr (p t : Nat) (body : List Byte) (s : State) : State :=
  (List.range (pageEntries p)).foldl (fun s e =>
    let key := p * 264 + e
    let c : Corr := { o := rdF body (24 * e), g := rdF body (24 * e + 8), q := rd body (24 * e + 20) 2 }
    let old := tget s.lin.corr key {}
    if c = old then s
    else { s with lin := { s.lin with corr := tset s.lin.corr key c, corrOld := tset s.lin.corrOld key ((t, old) :: tget s.lin.corrOld key []) } }) s

/-- CAL_STORE_LOAD (R348): for each page the valid slot with the greater `SEQ`, or none and a notice. -/
def loadStore (s : State) : State :=
  (List.range 20).foldl (fun s p =>
    let a := flashRead s (slotOfs s p 0) 8192
    let b := flashRead s (slotOfs s p 1) 8192
    let later := decide ((rd b 4 4 + 2 ^ 32 - rd a 4 4) % 2 ^ 32 < 2 ^ 31)
    let pick : Option (Nat × List Byte) := match slotOk p a, slotOk p b with
      | true, true => if later then some (1, b) else some (0, a)
      | true, false => some (0, a)
      | false, true => some (1, b)
      | false, false => none
    match pick with
    | some x => setCorr p 0 (x.2.drop 64) { s with cal := { s.cal with inUse := tset s.cal.inUse p (x.1, rd x.2 4 4, rd x.2 8 8) } }
    | none => post 0x18 1 0 p [] { s with cal := { s.cal with inUse := tdel s.cal.inUse p } }) s

def chkCalCommit (s : State) (r : Req) : Ans :=
  let k := rd r.p 0 2
  match sessOf s k with
  | none => firstOf [(!isTarget k, badAt 0)] (.refuse .functionState (fnCode (fnState s k)))
  | some x =>
    firstOf [(decide (1 < rd r.p 2 1), badAt 2), (x.results.isEmpty, badAt 0),
      (x.results.any (·.isOver) && !bit (rd r.p 2 1) 0, .refuse .mismatch 0)] (.act .accepted 0)

/-- A commit accepted: its results, staged no longer, wait for the store (R342, R347). -/
def actCalCommit (o : Owed) (r : Req) (s : State) : State :=
  let k := rd r.p 0 2
  match sessOf s k with
  | none => s
  | some x =>
    let s := { s with cal := { s.cal with writes := s.cal.writes ++ [{ page := pageOf k, results := x.results, at_ := s.tb.tick, tick := r.tick, owed := o }] } }
    onSess s k fun x => { x with results := [] }

/-- The slot of a page that is not in force: the one with the older `SEQ`, or an invalid one. -/
def freeSlot (s : State) (p : Nat) : Nat := 1 - (tget s.cal.inUse p (1, 0, 0)).1

/-- The bytes that a commit writes: its results merged into the page in force. -/
def commitBytes (s : State) (w : StoreWrite) : List Byte :=
  slotBytes w.page (((tget s.cal.inUse w.page (0, 0, 0)).2.1 + 1) % 2 ^ 32) w.at_ (mergeResults w.results (pageBody s w.page))

/-- CAL_STORE_WRITE (R347): the first commit that waits; `okFirst` and `okSecond` say whether the read-back agrees. After
PWRFAILN none starts (R349). A slot that fails twice is left erased (log 33); a page verified and not yet in force is not
written over (log 95). -/
def execCalStoreWrite (okFirst okSecond : Bool) (s : State) : Outc :=
  match s.cal.writes with
  | [] => done s
  | w :: rest =>
    if s.cal.stored.any (·.page == w.page) || s.pwr.pwrfail || fnOut s 0x2F2 then done s
    else
      let a := slotOfs s w.page (freeSlot s w.page)
      let bs := commitBytes s w
      let ok := okFirst || okSecond
      let n : BitVec 32 := if okFirst then 1 else 2
      let s := s.onIo fun i => { i with qErases := i.qErases + 2 * n, qPrograms := i.qPrograms + 33 * n, qVerify := i.qVerify + (if okFirst then 0 else if okSecond then 1 else 2) }
      let s := flashWrite a (if ok then bs else List.replicate 8192 0xFF) s
      done (if ok then { s with cal := { s.cal with writes := rest, stored := s.cal.stored ++ [{ page := w.page, bytes := bs, tick := w.tick, owed := w.owed }] } }
        else complete w.owed .mismatch 0 s.tb.tick { s with cal := { s.cal with writes := rest } })

/-- A verified page whose tick has begun: a commit takes effect no earlier than the tick that its request named (R4; log 95). -/
def pageDue (s : State) (w : StoredPage) : Bool := decide (w.tick * tickRefs ≤ applyT s)

/-- A verified page in force from the present boundary. -/
def putPage (s : State) (w : StoredPage) : State :=
  let k := freeSlot s w.page
  let s := setCorr w.page (applyT s) (w.bytes.drop 64) s
  complete w.owed .ok 0 s.tb.tick { s with cal := { s.cal with inUse := tset s.cal.inUse w.page (k, rd w.bytes 4 4, rd w.bytes 8 8) } }

/-- CAL_COEFF_EFFECTIVE (R348): at the first tick boundary after verification. -/
def execCalCoeffEffective (s : State) : Outc :=
  let due := s.cal.stored.filter (pageDue s)
  done (forAll due { s with cal := { s.cal with stored := s.cal.stored.filter fun w => !pageDue s w } } putPage)

/-! ### Coming back (R351, R352) -/

/-- The running points of a session end without a result, with a state's code in `DETAIL` (R367). -/
def dropPoints (st : FnState) (x : Session) (s : State) : State :=
  forAll (x.points.filter fun p => !p.done) s fun s p => completeOpt p.owed .functionState (fnCode st) s.tb.tick s

/-- The return of a session's target started at instant t; `force` switches without a match test. -/
def startReturn (k : Nat) (force : Bool) (o : Option Owed) (t : Nat) (s : State) : State :=
  match sessOf s k with
  | none => s
  | some x =>
    let s := dropPoints (fnState s k) x s
    let x := { clearWindow x with points := x.points.filter (·.done), results := [], owed := o, force }
    if isConv k then completeOpt o .ok 0 s.tb.tick (dropSess k s)
    else
      let s := restoreGain k x t s
      if isSpare k then completeOpt o .ok 0 s.tb.tick (restFe k t (dropSess k (setRoute k .parked 0 t s)))
      else
        let s := setRoute k .pins 0 t s
        match (bankSt s (k / 32)).deliver with
        | some (p, _) =>
          if p = k % 32 then putSess k { x with gain0 := none, phase := if force then .switchBack else .overlapBack } s
          else completeOpt o .ok 0 s.tb.tick (dropSess k s)
        | none => completeOpt o .ok 0 s.tb.tick (restFe k t (dropSess k s))

def calEndOk (p : CalPhase) : Bool := p == .out || p == .mismatchHeld

def chkCalEnd (s : State) (r : Req) : Ans :=
  let k := rd r.p 0 2
  match sessOf s k with
  | none => firstOf [(!isTarget k, badAt 0)] (.refuse .functionState (fnCode (fnState s k)))
  | some x => firstOf [(decide (1 < rd r.p 2 1), badAt 2), (!calEndOk x.phase, .refuse .functionState (fnCode (fnState s k)))] (.stage .accepted 0)

def appCalEnd (o : Owed) (r : Req) (s : State) : State := startReturn (rd r.p 0 2) (bit (rd r.p 2 1) 0) (some o) (applyT s) s

def chkCalAbort (s : State) (r : Req) : Ans :=
  let k := rd r.p 0 2
  match sessOf s k with
  | none => firstOf [(!isTarget k, badAt 0)] (.refuse .functionState (fnCode (fnState s k)))
  | some x => firstOf [(!(calEndOk x.phase || inMatch x.phase), .refuse .busy 0)] (.stage .accepted 0)

/-- CAL_ABORT (R352): staged results discarded, and CAL_END with `FORCE`. An overlap on the way out is undone: the
channel has never left its pins. -/
def appCalAbort (o : Owed) (r : Req) (s : State) : State :=
  let k := rd r.p 0 2
  match sessOf s k with
  | none => completeOpt (some o) .functionState (fnCode (fnState s k)) s.tb.tick s
  | some x =>
    if x.phase = .overlapOut then
      let s := dropSess k (setRoute (512 + k / 32) .parked 0 (applyT s) s)
      complete o .ok 0 s.tb.tick (completeOpt x.owed .functionState (fnCode (fnState s k)) s.tb.tick s)
    else if x.phase = .overlapBack then
      putSess k { clearWindow x with phase := .switchBack, owed := some o } (completeOpt x.owed .functionState (fnCode (fnState s k)) s.tb.tick s)
    else startReturn k true (some o) (applyT s) s

/-! ### CAL_STATUS, CAL_READ (R374) -/

def phaseCode : CalPhase → Nat
  | .overlapOut => 1 | .switchOut => 1 | .parking => 1 | .out => 2 | .overlapBack => 3 | .switchBack => 3 | .parkBack => 3 | .mismatchHeld => 4

/-- The points held, by gain code and then by acceptance. -/
def heldPoints (x : Session) : List CalPoint := ((List.range 8).map fun g => x.points.filter fun p => p.gain == g && p.done).flatten

def chkCalStatus (s : State) (r : Req) : Ans :=
  let k := rd r.p 0 2
  let f := rd r.p 2 1
  let x := (sessOf s k).getD { target := k, phase := .out }
  let ps := heldPoints x
  let sel := (ps.drop f).take 8
  firstOf [(!isTarget k, badAt 0), (decide (63 < f), badAt 2)]
    (.reply 0 (le 1 (if (sessOf s k).isNone then 0 else phaseCode x.phase) ++ le 1 ps.length ++ le 1 x.windows ++ le 1 sel.length ++ le 8 x.swIndex
      ++ leF x.mean ++ leF x.sd ++ (sel.map fun p => le 1 p.gain ++ le 1 (if isConv k then p.source % 16 else p.source) ++ zeros 2 ++ le 4 p.m
        ++ leF p.mean ++ leF p.sd).flatten))

def chkCalRead (s : State) (r : Req) : Ans :=
  let p := rd r.p 0 1
  let f := rd r.p 2 2
  let u := tget s.cal.inUse p (0, 0, 0)
  let n := min 9 (pageEntries p - f)
  let vref := if p < 16 then 0 else tget s.pwr.fuses.vref (p - 16) (Config.tileRef (p - 16))
  firstOf [(decide (19 < p), badAt 0)]
    (.reply 0 (le 4 u.2.1 ++ le 8 u.2.2 ++ leF vref ++ le 1 n ++ zeros 3 ++ ((pageBody s p).drop (24 * f)).take (24 * n)))

end Sys2Proof.Machine
end

