-- ==== Sys2Proof/Machine/Crier.lean ====
section
/-! DEFINITION. Reading the notice queues (R386 to R397): the head and its latch, popping, dropping the rest of a packet, the
backlog's moves, the check bits of the words, and the queue check. Posting is in Ops. -/
namespace Sys2Proof.Machine

/-- The oldest notice of the lowest priority number (R390). -/
def oldestOf (xs : List Notice) : Option Notice :=
  match xs.find? (·.pri == 0), xs.find? (·.pri == 1), xs.find? (·.pri == 2) with
  | some n, _, _ => some n
  | none, some n, _ => some n
  | none, none, some n => some n
  | none, none, none => xs.head?

/-- Notices in the order in which they would be read (R390), at most `n`. -/
def readOrder : Nat → List Notice → List Notice
  | 0, _ => []
  | n + 1, xs =>
    match oldestOf xs with
    | none => []
    | some a => a :: readOrder n (xs.erase a)

/-- Backlog notices moved into the chain while they fit (R393). -/
def moveBacklog : Nat → Ntq → Ntq
  | 0, q => q
  | fuel + 1, q =>
    match oldestOf q.backlog with
    | none => q
    | some n =>
      if q.chain.length + (if n.pri = 0 then 1 else 5) ≤ 64 then moveBacklog fuel { q with chain := q.chain ++ [n], backlog := q.backlog.erase n }
      else q

/-- CRIER_BACKLOG_MOVE (R393). -/
def execCrierBacklogMove (q : Fin 4) (s : State) : Outc :=
  let before := (ntqOf s q.val).chain.length
  done (raiseLvl (s.onNtq q.val (moveBacklog 64)) q.val before)

/-! ### Word protection (R396) -/

/-- Bits set in the low `n` bits. -/
def popCount : Nat → Nat → Nat
  | 0, _ => 0
  | n + 1, v => v % 2 + popCount n (v / 2)

/-- A stored word read through its SEC-DED code with the bits of `e` upset: the word as presented, corrected errors,
uncorrectable ones. Three or more upset bits, of which the spec does not speak, count as uncorrectable. -/
def secDed (w : BitVec 64) (e : BitVec 72) : BitVec 64 × Nat × Nat :=
  match popCount 72 e.toNat with
  | 0 => (w, 0, 0)
  | 1 => (w, 1, 0)
  | _ => (w ^^^ e.setWidth 64, 0, 1)

/-- A counter that a read clears, one value for each requester (R401), counted up. -/
def rcAdd (t : Tab (BitVec 32)) (n : Nat) : Tab (BitVec 32) :=
  [(0, tget t 0 0 + BitVec.ofNat 32 n), (1, tget t 1 0 + BitVec.ofNat 32 n)]

/-- The two halves of a word, low half first. -/
def halves (w : BitVec 64) : List (BitVec 32) := [w.setWidth 32, (w >>> 32).setWidth 32]

/-- NTQ_HEAD_READ (R391): the notice that R390 presents is latched. -/
def execNtqHeadRead (q : Fin 4) (upset : List (BitVec 72)) (s : State) : Outc :=
  let x := ntqOf s q.val
  match if x.hidden then none else oldestOf x.chain with
  | none => done (s.onNtq q.val fun x => { x with latch := none, head := [], damaged := false })
  | some n =>
    let ws := List.zipWith secDed [noticeW0 n, n.w1, n.w2, n.w3] ((List.range 4).map fun i => upset.getD i 0)
    let bad := ws.foldl (fun a w => a + w.2.2) 0
    let m := { n with seen := true }
    let s := s.onNtq q.val fun x => { x with
      latch := some m, damaged := decide (0 < bad),
      head := (ws.map fun w => halves w.1).flatten,
      chain := x.chain.map fun y => if y = n then m else y,
      corrected := rcAdd x.corrected (ws.foldl (fun a w => a + w.2.1) 0), uncorr := rcAdd x.uncorr bad }
    done (if n.seen then s else monValue s 0x5 q.val ((s.now - n.at_ : Nat)))

/-- The latched notice removed (R391). -/
def popLatched (x : Ntq) : Ntq :=
  match x.latch with
  | none => x
  | some n => { x with chain := x.chain.erase n, latch := none, head := [], damaged := false, popped := x.popped + 1,
                       lastCont := if n.cont then some n.packet else none }

/-- NTQ_POP (R391): ignored in queues 2 and 3 (R397). -/
def execNtqPop (_r : Requester) (q : Fin 4) (s : State) : Outc := if 2 ≤ q.val then done s else done (s.onNtq q.val popLatched)

/-- The rest of a packet discarded, in the chain and in the backlog (R392). -/
def dropRest (x : Ntq) : Ntq :=
  match x.lastCont with
  | none => x
  | some pk =>
    let mine (n : Notice) : Bool := n.packet == pk && !n.summary
    let k := (x.chain.filter mine).length + (x.backlog.filter mine).length
    let x := { x with chain := x.chain.filter fun n => !mine n, backlog := x.backlog.filter fun n => !mine n,
                      dropped := x.dropped + BitVec.ofNat 32 k, lastCont := none }
    match x.latch with
    | some n => if mine n then { x with latch := none, head := [], damaged := false } else x
    | none => x

/-- NTQ_DROP_REST (R392). -/
def execNtqDropRest (_r : Requester) (q : Fin 4) (s : State) : Outc := if 2 ≤ q.val then done s else done (s.onNtq q.val dropRest)

/-! ### The queue check (R395) -/

def queueExact (q : Ntq) : Bool :=
  q.posted == q.popped + q.dropped + q.coalesced + q.lost + BitVec.ofNat 32 (q.chain.length + q.backlog.length)

/-- The check of one queue at a tick boundary; a failure goes to the other queues. -/
def queueCheck (tick q : Nat) (s : State) : State :=
  let x := ntqOf s q
  if queueExact x || !s.pwr.memReady then s
  else
    postTos ([0, 1, 2, 3].filter (· != q)) 0x01 0 (0x90 + q) tick
      (le 8 x.posted.toNat ++ le 8 x.popped.toNat ++ le 8 x.dropped.toNat ++ le 8 x.coalesced.toNat
        ++ le 4 x.lost.toNat ++ le 2 x.chain.length ++ le 2 x.backlog.length) s

end Sys2Proof.Machine
end

