-- ==== Sys2Proof/Machine/Wick.lean ====
section
/-! DEFINITION. The control loops (R282 to R304): sources, arithmetic and law, modes, supervision, the evaluation, test
injections and tuning records, drive frames (R325 to R328), and the fencing of a Wick (R306). -/
namespace Sys2Proof.Machine

/-! ### Arithmetic (R287) -/

def sat31 (x : Int) : Int := clampI x (-2147483647) 2147483647

/-- A counter with one copy for each requester (R401). -/
def bumpRc (t : Tab (BitVec 32)) (n : Nat) : Tab (BitVec 32) :=
  (List.range 4).map fun r => (r, tget t r 0 + BitVec.ofNat 32 n)

/-- The requester of a mailbox: 0 PCI Express, 1 SPI, 2 and 3 the collectors (R355). -/
def mbxRequester (m : Nat) : Nat := if m < 4 then 0 else if m < 6 then 1 else m - 4

/-! ### Claims, frames and the grid of half-bits (R314, R315, R325 to R327) -/

/-- The claim number of a Wick at a rank. -/
def claimOf (s : State) (w rank : Nat) : Nat := rank * 256 + (s.wick.station * 2 + w) % 256

/-- Whether a loop is a deputy, and the partner's loop that it covers. -/
def deputyOf (s : State) (n : Nat) : Option Nat := (s.wick.pairs.find? fun p => p.1 == n).map (·.2)

def loopClaim (s : State) (n : Nat) : Nat := claimOf s (s.wick.active.getD 0) (if (deputyOf s n).isSome then 0x80 else 0xC0)

/-- The first bit boundary of the grid at or after an instant, by its number. -/
def bitAt (t : Nat) : Nat := cdiv (t * 125) 1024

/-- The instant of a bit boundary: half-bit 2b begins at floor(2b × 512 / 125). -/
def bitRefs (b : Nat) : Nat := b * 1024 / 125

/-- The end of a 64-bit frame that starts at an instant of the grid. -/
def frameEnd (start : Nat) : Nat := bitRefs (bitAt start + 64)

/-- The bit boundary from which a port may start a frame asked for at `t`: the line lies idle for 8 bit times after the
frame before (R325). -/
def frameBit (p : DrivePort) (t : Nat) : Nat := if p.frame = 0 then bitAt t else max (bitAt t) (bitAt p.start + 72)

/-- A drive frame (R326, R327): `cmd` 0 `DRIVE`, 1 `RELEASE`, 2 `QUERY`. -/
def driveFrame (claim cmd : Nat) (on : Bool) (seq : Nat) : BitVec 64 :=
  let hi := 0xA7 * 2 ^ 40 + claim % 65536 * 2 ^ 24 + (cmd * 16 + (if cmd = 0 then 8 * b2n on else 0)) * 2 ^ 16 + seq % 256 * 2 ^ 8
  BitVec.ofNat 64 (hi * 65536 + crc16 48 hi)

def frameCmd (f : BitVec 64) : Nat := bits f.toNat 39 36

/-- A frame sent on a port from the first bit boundary at or after an instant. -/
def sendDrive (n cmd : Nat) (on : Bool) (t : Nat) (s : State) : State :=
  -- while JTAG drives the boundary chain the pair follows its cell and no frame leaves (R490)
  let chain := match s.io.jIr with | .extest | .clamp | .highz => true | _ => false
  if fnOut s (fnDrive n) then s
  else
    let p := portOf s n
    let start := bitRefs (frameBit p t)
    let f := driveFrame (loopClaim s n) cmd on p.seq.toNat
    let s := s.onPort n fun p => { p with frame := f, start := start, expect := p.expect ++ [{ seq := p.seq, frame := f, start }], seq := p.seq + 1 }
    if chain then s else s.send (.drive n f start)

/-- Whether a deputy loop is armed (R322). -/
def deputyArmed (s : State) (home : Nat) : Bool :=
  s.wick.pairLost || decide (s.wick.hbLast + 614400 ≤ s.now) || !bit s.wick.hbMask.toNat home

/-- Whether a loop's port drives: every home loop, and an armed deputy in `CLOSED`, `INJECT` or `SAFE`. -/
def drives (s : State) (n : Nat) : Bool :=
  match deputyOf s n with
  | none => true
  | some h => deputyArmed s h && (match (loopOf s n).run.mode with | .closed | .inject | .safe => true | _ => false)

/-- The frame that a loop's port sends on its schedule: `DRIVE` with the present output, or `QUERY`. -/
def sendScheduled (n t : Nat) (s : State) : State := sendDrive n (if drives s n then 0 else 2) (loopOf s n).run.out t s

/-! ### Fencing (R306) -/

/-- Whether a message is a drive frame that has not wholly left by an instant. -/
def frameCut (t : Nat) : OutMsg → Bool
  | .drive _ _ start => decide (t < frameEnd start)
  | _ => false

/-- The active Wick fenced: 1 lane mismatch, 2 frame late, 3 checkpoint late, 4 uncorrectable state, 5 FRS (`CAUSE`, R407).
Its ports are blocked at once: no frame that has not wholly left leaves (log 154). A renewal or a disable that waits on it
ends with `FUNCTION_STATE`. -/
def wickFence (cause : Nat) (s : State) : State :=
  match s.wick.active with
  | none => s
  | some w =>
    let s := s.onWick fun k => { k with active := none, fenced := tset k.fenced w cause, fail := .fenced, takeback := none }
    let s := { s with sent := s.sent.filter fun m => !frameCut s.now m }
    let s := endOwed (fnWick w) .functionState (fnCode .fault) s
    let s := fabReclaim (fnWick w) (s.onFn (fnWick w) fun f => { f with state := .fault, cause })
    let s := forN 32 s fun s n => if (loopOf s n).defd then s.onPort n fun p => { p with expect := [] } else s
    post 0x06 0 (fnWick w) cause [] s

/-! ### Injection signals (R300) -/

def twoPi : F64 := 0x401921FB54442D18

/-- t_i of a capture in seconds. -/
def injTime (i p : Nat) : F64 := F64.ofRat false (i * p) refsPerSec

def sineOf (ampl : Nat) (phase : F64) : Int := (F64.toInt (F64.mul (F64.ofInt ampl) (F64.sin phase))).getD 0

/-- Feedback stages of the ITU-T O.150 sequence of an order (PRESUMED, log 28). -/
def prbsTap : Nat → Nat
  | 9 => 5 | 11 => 9 | 15 => 14 | 20 => 3 | _ => 18

def prbsStep (order reg : Nat) : Nat :=
  let b := (bit reg (order - 1)).xor (bit reg (prbsTap order - 1))
  (2 * reg + b2n b) % 2 ^ order

def prbsBit (order reg : Nat) : Bool := bit reg (order - 1)

/-- d_i in loop units, for the PRBS register at evaluation i. -/
def injValue (j : Inject) (p i reg : Nat) : Int :=
  match j.signal with
  | 0 => sineOf j.ampl (F64.mul (F64.mul twoPi j.f0) (injTime i p))
  | 1 => if prbsBit j.order reg then j.ampl else -(j.ampl : Int)
  | _ =>
    let t := injTime i p
    let tt := F64.mul (F64.ofInt 2) (injTime j.count p)
    sineOf j.ampl (F64.mul twoPi (F64.add (F64.mul j.f0 t) (F64.div (F64.mul (F64.sub j.f1 j.f0) (F64.mul t t)) tt)))

/-! ### Captures (R301) -/

/-- A running capture ended: 0 complete, 1 by `LOOP_MODE`, 2 by `SAFE`, 3 by failover. -/
def endCapture (st : Nat) (l : Loop) : Loop :=
  if l.run.capturing then { l with run := { l.run with capturing := false }, tstatus := st, capEnd := true } else l

/-- The loop leaves `INJECT` for `CLOSED` at the end of its capture, with I kept. -/
def backToClosed (l : Loop) : Loop := { l with run := { l.run with mode := if l.run.mode = .inject then .closed else l.run.mode } }

/-- R301: the capture is complete at the evaluation after its last, before a staged change applies there (R295). -/
def captureDone (l : Loop) : Loop :=
  if l.run.capturing && decide ((l.inj.map (·.count)).getD 0 ≤ l.run.injPos) then backToClosed (endCapture 0 l) else l

/-- A capture started at evaluation k: the injection named in the last accepted LOOP_INJECT. -/
def startCapture (k : Nat) (owed : Option Owed) (l : Loop) : Loop :=
  let order := (l.inj.map (·.order)).getD 9
  { l with run := { l.run with mode := .inject, capturing := true, injPos := 0, prbs := 2 ^ order - 1 },
           capOwed := owed, captured := [], firstK := k, tstatus := 0 }

/-! ### Staged changes (R290, R292, R300) -/

def supervised (m : LoopMode) : Bool := m == .closed || m == .inject

/-- The staged changes whose tick has begun, applied at evaluation k; and the completion of an injection whose loop has
left `CLOSED`. -/
def applyLoopStaged (k e : Nat) (l : Loop) : Loop × Option Owed :=
  let begun (t : Nat) : Bool := decide (t * tickRefs ≤ e)
  let l := match l.stgPar with
    | some (t, p) => if begun t then { l with par := p, stgPar := none, run := { l.run with i := clampI l.run.i p.iMin p.iMax } } else l
    | none => l
  let l := match l.stgMode with
    | some (t, m, f) =>
      if !begun t then l
      else
        let o := l.modeOwed
        let l := endCapture 1 { l with stgMode := none, modeOwed := none }
        if m == LoopMode.inject then startCapture k o l else { l with run := { l.run with mode := m, forced := f } }
    | none => l
  match l.stgInj with
  | some (t, o) =>
    if !begun t then (l, none)
    else
      let l := { l with stgInj := none }
      if l.run.mode = LoopMode.closed then (startCapture k o l, none) else (l, o)
  | none => (l, none)

/-! ### Feed-forward (R288, R297) -/

structure FfTerm where
  held : Int
  left : Nat
  bad  : Bool
  /-- notice: none, onset or return -/
  note : Option Bool := none
deriving DecidableEq, Repr

def ffBadWord (w : SampleWord) : Bool := wHas w fBad || wHas w fWire || wHas w fOvr

/-- A term formed from a good sample, or held for up to `FF_HOLD` evaluations, then 0. -/
def ffTerm (hold : Nat) (t : FfTerm) (form : SampleWord → Int) (w : Option SampleWord) : Int × FfTerm :=
  match w with
  | none => (0, t)
  | some w =>
    if !ffBadWord w then (form w, { held := form w, left := hold, bad := false, note := if t.bad then some false else none })
    else
      let left := if t.bad then t.left else hold
      (if left = 0 then 0 else t.held, { t with left := left - 1, bad := true, note := if t.bad then none else some true })

/-! ### Supervision (R296) -/

def causeCode : Supervision → Nat
  | .none => 0 | .fbBad => 1 | .fbWire => 2 | .fbOvr => 3 | .stale => 4 | .frozen => 5 | .following => 6 | .noCheckpoint => 7

/-- The runs brought up to date. A value that differs restarts the freeze run (R296). -/
def runRuns (p : LoopParam) (r : LoopRun) (w : SampleWord) (fresh : Bool) (e : Int) (ek : Nat) : LoopRun :=
  let r := if fresh then
      (if r.frzRun ≠ 0 ∧ r.frzValue = wVal w then { r with staleRun := 0, frzRun := min (r.frzRun + 1) 65535, frzSince := r.frzSince.map (· + 1) }
       else { r with staleRun := 0, frzRun := 1, frzValue := wVal w, frzSince := none })
    else { r with staleRun := min (r.staleRun + 1) 65535 }
  if p.lFe < e.natAbs then { r with feStart := if r.feStart = 0 then ek else r.feStart } else { r with feStart := 0 }

/-- Whether the output has switched since the first of the last `n` fresh values was used. -/
def switchedIn (n : Nat) (r : LoopRun) : Bool := r.frzSince.any fun k => decide (k < n)

/-- The first condition found, in the order of the table. -/
def superviseCause (p : LoopParam) (r : LoopRun) (fb : Option SampleWord) (ek : Nat) : Supervision :=
  let has (f : Nat) : Bool := match fb with | some w => wHas w f | none => false
  if has fBad then .fbBad
  else if has fWire then .fbWire
  else if has fOvr then .fbOvr
  else if p.staleMax != 0 && decide (p.staleMax < r.staleRun) then .stale
  else if p.nFrz != 0 && decide (p.nFrz ≤ r.frzRun) && switchedIn p.nFrz r then .frozen
  else if p.tFe != 0 && r.feStart != 0 && decide (r.feStart + p.tFe ≤ ek) then .following
  else .none

/-! ### One evaluation (R295) -/

/-- The present output changed at evaluation instant e. -/
def switchTo (on : Bool) (ek : Nat) (r : LoopRun) : LoopRun :=
  if r.out = on then r
  else { r with out := on, edges := r.edges + 1, frzSince := some 0,
                onEdge := if on then ek else r.onEdge, offEdge := if on then r.offEdge else ek }

def safeOut (p : LoopParam) (out : Bool) : Bool := match p.safeState with | 0 => false | 1 => true | _ => out

/-- The preload of a hand-over (R293). -/
def preload (p : LoopParam) (out : Bool) (e tv ta : Int) : Int :=
  sat31 (clampI ((if out then 1 else -1) * ((p.h : Int) - 1) - (e + tv + ta)) p.iMin p.iMax)

/-- The law with the minimum times (R288, R289): the new run, and whether a change was suppressed. -/
def loopLaw (p : LoopParam) (v : Int) (ek : Nat) (r : LoopRun) : LoopRun × Bool :=
  let want := if (p.h : Int) < v then true else if v < -(p.h : Int) then false else r.out
  if want = r.out then (r, false)
  else if want && decide (ek < r.offEdge + p.tOffMin) && r.offEdge != 0 then (r, true)
  else if !want && decide (ek < r.onEdge + p.tOnMin) && r.onEdge != 0 then (r, true)
  else (switchTo want ek r, false)

/-- What an evaluation works out: the new loop, its registers' v, e and r, the supervision cause, whether a change was
suppressed. -/
structure EvalRes where
  run   : LoopRun
  r     : Int
  e     : Int
  v     : Int
  cause : Supervision := .none
  held  : Bool := false
deriving DecidableEq, Repr

/-- The evaluation proper, from the loop after its staged changes, the sources, d_k, and the stage's output for a
tracking deputy (R323). -/
def evalLoop (c : LoopDef) (p : LoopParam) (r0 : LoopRun) (handover fresh : Bool) (fb : Option SampleWord) (d tv ta : Int) (ek : Nat)
    (track : Option Bool) : EvalRes :=
  let rr := p.rSet + d
  let e := sat31 (rr - r0.y)
  match r0.mode with
  | .off => { run := switchTo false ek r0, r := rr, e, v := sat31 (e + r0.i + tv + ta) }
  | .forced => { run := switchTo r0.forced ek r0, r := rr, e, v := sat31 (e + r0.i + tv + ta) }
  | .safe => { run := r0, r := rr, e, v := sat31 (e + r0.i + tv + ta) }
  | _ =>
    let r1 := if handover then { r0 with staleRun := 0, frzRun := 0, feStart := 0 } else r0
    let r1 := runRuns p r1 (fb.getD badWord) fresh e ek
    let cause := superviseCause p r1 fb ek
    if cause != .none then
      { run := { switchTo (safeOut p r1.out) ek r1 with mode := .safe, safeCause := cause }, r := rr, e, v := sat31 (e + r1.i + tv + ta), cause }
    else match track with
    | some o =>
      let i := preload p o e tv ta
      { run := { r1 with out := o, i }, r := rr, e, v := sat31 (e + i + tv + ta) }
    | none =>
      if handover then
        let i := preload p r1.out e tv ta
        { run := { r1 with i }, r := rr, e, v := sat31 (e + i + tv + ta) }
      else
        let i := sat31 (clampI (r1.i + shrRound ((p.ki : Int) * e * c.period) 40) p.iMin p.iMax)
        let v := sat31 (e + i + tv + ta)
        let l := loopLaw p v ek { r1 with i }
        { run := l.1, r := rr, e, v, held := l.2 }

/-- The newest sample of an auxiliary source delivered by an instant. -/
def newestBy (s : State) (slot t : Nat) : Option AuxSample := (auxNewest s slot).find? fun x => decide (x.at_ ≤ t)

/-- The newest sample word of a feed-forward source. -/
def ffSource (s : State) (c : LoopDef) (acc : Bool) (t : Nat) : Option SampleWord :=
  if acc then
    (if c.acc = 0xFFFF then none else ((chanOf s c.acc).recent.head?).map fun x => if c.accKind = 1 then x.2.2 else x.2.1)
  else if c.vbus = 0xFFFF then none else (newestBy s c.vbus t).map (·.word)

/-- FF_HOLD notices (R297): term 0 t_v, 1 t_a. -/
def ffNotice (n term : Nat) (note : Option Bool) (s : State) : State :=
  match note with
  | some true => post 0x14 1 n term [] s
  | some false => post 0x14 3 n term [] s
  | none => s

/-- Index of the next evaluation of a loop at or after an instant (R283). -/
def nextEval (c : LoopDef) (t : Nat) : Nat := if t ≤ c.phase then 0 else cdiv (t - c.phase) c.period

/-- The fields of the LOOP block that an update covers changed: `SNAP_SEQ` steps before and after it (R304, R402). -/
def loopUpdate (l : Loop) : Loop := { l with reg := { l.reg with snapSeq := l.reg.snapSeq + 2 } }

/-- The present snapshot of the LOOP block (R304) after an evaluation. -/
def loopSnapshot (s : State) (l : Loop) (x : EvalRes) (fb : Option AuxSample) (fresh : Bool) (ek : Nat) : LoopRegs :=
  { l.reg with r := x.r, e := x.e, v := x.v,
               fbWord := match fb with | some f => f.word | none => l.reg.fbWord,
               fbNs := match fb with | some f => BitVec.ofNat 32 (refNs f.stamp) | none => l.reg.fbNs,
               edgeNs := if x.run.edges = l.run.edges then l.reg.edgeNs else BitVec.ofNat 32 (refNs ek),
               staleCnt := if fresh then l.reg.staleCnt else bumpRc l.reg.staleCnt 1,
               minHolds := if x.held then bumpRc l.reg.minHolds 1 else l.reg.minHolds,
               safeCnt := if x.cause = .none then l.reg.safeCnt else l.reg.safeCnt + 1,
               feRun := if x.run.feStart = 0 then 0 else BitVec.ofNat 32 (ek - x.run.feStart),
               actWick := s.wick.active.getD 0, snapSeq := l.reg.snapSeq + 2 }

/-- The frame of an evaluation: it starts within 512 refs of e_k, at an instant left open (log 29). A changed output
is the loop's switching edge (R131). -/
def evalFrame (n ek : Nat) (changed : Bool) (stamp : Option Nat) (s : State) : State :=
  let f := s.free
  let end_ := ek + f.1.toNat % 257
  let start := bitRefs (bitAt (end_ + f.1.toNat / 1024 % 240))
  let s := match stamp with | some t => monValue f.2 0x3 n ((end_ : Int) - (t : Int)) | none => f.2
  let s := sendScheduled n start s
  if changed then
    let on := (loopOf s n).run.out
    forN 4 s fun s t => auxTrigger t (0x20 + n) on start s
  else s

/-- LOOP_EVALUATION (R295): the loop's next evaluation by the active Wick. -/
def execLoopEvaluation (n : Fin 32) (lanesAgree stateOk : Bool) (s : State) : Outc :=
  let n := n.val
  let l0 := loopOf s n
  if !l0.defd || s.wick.active.isNone || (portOf s n).waitFirst || l0.cfg.period = 0 then done s
  else
    let k := nextEval l0.cfg l0.from_
    let ek := k * l0.cfg.period + l0.cfg.phase
    let s := s.at_ ek
    if !stateOk then done (wickFence 4 s)
    else if !lanesAgree then done (wickFence 1 s)
    else
      let mode0 := l0.run.mode
      let a := applyLoopStaged k ek (captureDone l0)
      let s := completeOpt a.2 .functionState 0 s.tb.tick s
      let l := a.1
      -- R319: the first evaluation after a change of engine
      let differs := match l.resume with | some o => supervised l.run.mode && o != l.run.out | none => false
      let l := match l.resume with
        | some o => { l with resume := none, run := if differs || l.run.safeCause == .noCheckpoint then { l.run with out := o } else l.run }
        | none => l
      let handover := supervised l.run.mode && (!supervised mode0 || differs)
      let fb := newestBy s l.cfg.fb ek
      let fresh := match fb with | some f => decide (l.run.usedStamp < f.stamp) | none => false
      let run := { l.run with k := k, stale := !fresh, usedStamp := match fb with | some f => if fresh then f.stamp else l.run.usedStamp | none => l.run.usedStamp,
                              y := match fb with | some f => if fresh then wVal f.word * 256 else l.run.y | none => l.run.y }
      let tv := ffTerm l.par.ffHold { held := run.tvHeld, left := run.ffvLeft, bad := run.ffvBad }
        (fun w => shrRound (l.par.kv * (l.par.vNom - wVal w)) 16) (ffSource s l.cfg false ek)
      let ta := ffTerm l.par.ffHold { held := run.taHeld, left := run.ffaLeft, bad := run.ffaBad }
        (fun w => shrRound (l.par.ka * wVal w) 16) (ffSource s l.cfg true ek)
      let run := { run with tvHeld := tv.2.held, ffvLeft := tv.2.left, ffvBad := tv.2.bad, taHeld := ta.2.held, ffaLeft := ta.2.left, ffaBad := ta.2.bad }
      let i := run.injPos
      let run := match l.inj with
        | some j => if run.capturing && j.signal == 1 && i != 0 && i % j.bitLen == 0 then { run with prbs := prbsStep j.order run.prbs } else run
        | none => run
      let d := match l.inj with | some j => if run.capturing then injValue j l.cfg.period i run.prbs else 0 | none => 0
      let track := match deputyOf s n with
        | some _ => if loopClaim s n < (portOf s n).acting.toNat then some (portOf s n).stageOut else none
        | none => none
      let x := evalLoop l.cfg l.par run handover fresh (fb.map (·.word)) d tv.1 ta.1 ek track
      let cap := run.capturing && x.cause == .none
      let entry : CapEntry := { d, y := x.run.y, i := x.run.i, st := b2n x.run.out + 2 * b2n (!fresh) + 4 * b2n x.held }
      let reg := loopSnapshot s l x fb fresh ek
      let l := { l with run := if cap then { x.run with injPos := i + 1 } else x.run, reg, from_ := ek + 1, tracking := track.isSome,
                        captured := if cap then l.captured ++ [entry] else l.captured }
      let l := if x.cause = .none then l else endCapture 2 l
      let changed := x.run.edges != l0.run.edges
      let s := s.onLoop n fun _ => l
      let s := ffNotice n 1 ta.2.note (ffNotice n 0 tv.2.note s)
      let s := if x.cause = .none then s else post 0x05 0 n (causeCode x.cause) (le 8 ek) s
      done (evalFrame n ek changed (fb.map (·.stamp)) s)

/-- FF_HOLD_EXPIRY (R297): a term held for `FF_HOLD` evaluations becomes 0. -/
def execFfHoldExpiry (n : Fin 32) (acc : Bool) (s : State) : Outc :=
  done (s.onLoop n.val fun l =>
    let r := l.run
    { l with run := if acc then (if r.ffaBad && r.ffaLeft == 0 then { r with taHeld := 0 } else r)
                    else (if r.ffvBad && r.ffvLeft == 0 then { r with tvHeld := 0 } else r) })

/-- KEEP_ALIVE_FRAME (R328): never after e_k - 600 refs of the next evaluation, nor inside the frame before. -/
def execKeepAliveFrame (n : Fin 32) (t : Nat) (s : State) : Outc :=
  let n := n.val
  let l := loopOf s n
  let s := s.at_ t
  let next := nextEval l.cfg (max l.from_ t) * l.cfg.period + l.cfg.phase
  if !l.defd || s.wick.active.isNone || (portOf s n).waitFirst || l.cfg.period = 0 || next < bitRefs (frameBit (portOf s n) t) + 600 || t < frameEnd (portOf s n).start then done s
  else done (sendScheduled n t s)

/-! ### Tuning records (R302, R303) -/

/-- Entries that cover whole periods of a sine (DESIGN CHOICE for the rounding, log 30); all for other signals. -/
def tuneEntries (j : Inject) (p n : Nat) : Nat :=
  if j.signal != 0 then n
  else match F64.unpack (F64.mul j.f0 (injTime n p)) with
    | .fin _ m e =>
      let periods := if 0 ≤ e then m * 2 ^ e.toNat else m / 2 ^ (-e).toNat
      let len := (F64.toInt (F64.div (F64.ofInt periods) (F64.mul j.f0 (injTime 1 p)))).getD (n : Int)
      if periods = 0 then n else min n len.toNat
    | _ => n

/-- The sum of x_i exp(-j 2 pi f t_i), in binary64, in the order of i. -/
def dftSum (f : F64) (p : Nat) (xs : List F64) : F64 × F64 :=
  (xs.foldl (fun (a : (F64 × F64) × Nat) x =>
    let ph := F64.mul (F64.mul twoPi f) (injTime a.2 p)
    ((F64.add a.1.1 (F64.mul x (F64.cos ph)), F64.sub a.1.2 (F64.mul x (F64.sin ph))), a.2 + 1)) ((0, 0), 0)).1

def cAbs (z : F64 × F64) : F64 := F64.sqrt (F64.add (F64.mul z.1 z.1) (F64.mul z.2 z.2))

/-- Degrees of an angle in radians, wrapped to (-180, 180]. -/
def degWrap (x : F64) : F64 :=
  let d := F64.div (F64.mul x (F64.ofInt 360)) twoPi
  if F64.lt (F64.ofInt 180) d then F64.sub d (F64.ofInt 360) else if F64.le d (F64.ofInt (-180)) then F64.add d (F64.ofInt 360) else d

/-- Gain and phase at a frequency (R302). -/
def tuneResult (es : List CapEntry) (p : Nat) (f : F64) : F64 × F64 :=
  let ys := es.map fun e => F64.ofInt e.y
  let mean := F64.div (F64.sum ys) (F64.ofInt es.length)
  let y := dftSum f p (ys.map fun v => F64.sub v mean)
  let d := dftSum f p (es.map fun e => F64.ofInt e.d)
  if F64.isZero (cAbs d) then (F64.nan, F64.nan)
  else (F64.div (cAbs y) (cAbs d), degWrap (F64.sub (F64.argument y.2 y.1) (F64.argument d.2 d.1)))

def tuneRecord (n : Nat) (l : Loop) (j : Inject) : List Byte :=
  let fs := if j.signal = 0 then [j.f0] else j.freqs
  let h := padTo 60 (le 1 4 ++ le 1 n ++ le 1 j.signal ++ le 1 l.tstatus ++ le 4 l.captured.length ++ le 8 l.firstK ++ le 4 l.cfg.period
    ++ le 4 j.ampl ++ le 2 fs.length)
  let es := l.captured.take (tuneEntries j l.cfg.period l.captured.length)
  h ++ le 4 (crc32 h).toNat ++ padTo 384 ((fs.map fun f => let g := tuneResult es l.cfg.period f; leF f ++ leF g.1 ++ leF g.2).flatten)
    ++ (l.captured.map fun e => leI 4 e.d ++ leI 4 e.y ++ leI 4 e.i ++ le 4 e.st).flatten

/-- INJECT_CAPTURE_END (R301, R302): the tuning record of a capture that has ended. -/
def execInjectCaptureEnd (n : Fin 32) (s : State) : Outc :=
  let l := loopOf s n.val
  match l.inj with
  | some j =>
    if !l.capEnd then done s
    else
      let s := rmWrite s j.base (tuneRecord n.val l j)
      let s := s.onLoop n.val fun l => { l with capEnd := false, capOwed := none, captured := [], tuned := some j.base }
      done (completeOpt l.capOwed .ok 0 s.tb.tick s)
  | none => done s

/-! ### The loop commands (R282, R287, R290 to R292, R300, R380) -/

/-- The mode that a loop will have at a tick, counting its staged change. -/
def modeAt (l : Loop) (tick : Nat) : LoopMode :=
  match l.stgMode with
  | some (t, m, _) => if t ≤ tick then m else l.run.mode
  | none => l.run.mode

def loopFs (s : State) : Ans := .refuse .functionState (fnCode (fnState s (fnWick (s.wick.active.getD 0))))

def chkLoopDefine (s : State) (r : Req) : Ans :=
  let p := r.p
  let n := rd p 0 1
  let per := rd p 8 4
  let aux (x : Nat) : Bool := decide (544 ≤ x) && decide (x ≤ 607)
  firstOf [(decide (31 < n), badAt 0), (decide (1 < rd p 1 1), badAt 1), (!aux (rd p 2 2), badAt 2),
    (!(aux (rd p 4 2) || rd p 4 2 == 0xFFFF), badAt 4), (!(decide (rd p 6 2 < 512) || rd p 6 2 == 0xFFFF), badAt 6),
    (decide (per < 4096) || decide (2048000 < per) || per % 64 != 0, badAt 8), (decide (per ≤ rd p 12 4), badAt 12),
    (modeAt (loopOf s n) r.tick != LoopMode.off, loopFs s)] (.stage .ok 0)

def appLoopDefine (r : Req) (s : State) : State :=
  let p := r.p
  s.onLoop (rd p 0 1) fun l => loopUpdate
    { l with defd := true, from_ := s.tb.tick * tickRefs,
             cfg := { fb := rd p 2 2, vbus := rd p 4 2, acc := rd p 6 2, accKind := rd p 1 1, period := rd p 8 4, phase := rd p 12 4 } }

def modeOfCode : Nat → LoopMode
  | 0 => .off | 1 => .forced | 2 => .closed | 3 => .inject | _ => .safe

def modeCode : LoopMode → Nat
  | .off => 0 | .forced => 1 | .closed => 2 | .inject => 3 | .safe => 4

/-- Whether an injection runs or waits. -/
def injBusy (s : State) : Bool :=
  s.wick.loop.any fun e => e.2.run.capturing || e.2.stgInj.isSome || e.2.capEnd || (match e.2.stgMode with | some (_, m, _) => m == LoopMode.inject | none => false)

def capBytes (count : Nat) : Nat := 448 + 16 * count

def cooperLo (s : State) : Nat := regionBase s.rm.plan 4 * 1024
def cooperHi (s : State) : Nat := cooperLo s + regionSize s.rm.plan 4 * 1024

def capClash (s : State) (base count : Nat) : Bool := s.cop.any fun j => overlaps base (capBytes count) j.base j.size

def chkLoopMode (s : State) (r : Req) : Ans :=
  let p := r.p
  let n := rd p 0 1
  let l := loopOf s n
  let inject := rd p 1 1 == 3
  firstOf [(decide (31 < n), badAt 0), (decide (3 < rd p 1 1), badAt 1), (decide (1 < rd p 2 1), badAt 2),
    (!l.defd, .refuse .functionState notDefined),
    (inject && (l.inj.isNone || modeAt l r.tick != LoopMode.closed), loopFs s),
    (l.stgMode.isSome, .refuse .busy 0),
    (inject && (injBusy s || (match l.inj with | some j => capClash s j.base j.count | none => false)), .refuse .busy 0)] (.act .ok 0)

/-- With `MODE` 3 the end of the capture is told by a completion notice, as that of a LOOP_INJECT is (R302). -/
def actLoopMode (o : Owed) (r : Req) (s : State) : State :=
  s.onLoop (rd r.p 0 1) fun l => { l with stgMode := some (r.tick, modeOfCode (rd r.p 1 1), bit (rd r.p 2 1) 0), modeOwed := some o }

def paramOf (p : List Byte) : LoopParam :=
  { safeState := rd p 1 1, staleMax := rd p 2 1, rSet := rdS p 4 4, ki := rd p 8 4, iMin := rdS p 12 4, iMax := rdS p 16 4, kv := rdS p 20 4,
    vNom := rdS p 24 4, ka := rdS p 28 4, h := rd p 32 4, tOnMin := rd p 36 4, tOffMin := rd p 40 4, lFe := rd p 44 4, tFe := rd p 48 4,
    nFrz := rd p 52 2, ffHold := rd p 54 2 }

def paramBytes (n : Nat) (p : LoopParam) : List Byte :=
  le 1 n ++ le 1 p.safeState ++ le 1 p.staleMax ++ [0] ++ leI 4 p.rSet ++ le 4 p.ki ++ leI 4 p.iMin ++ leI 4 p.iMax ++ leI 4 p.kv
    ++ leI 4 p.vNom ++ leI 4 p.ka ++ le 4 p.h ++ le 4 p.tOnMin ++ le 4 p.tOffMin ++ le 4 p.lFe ++ le 4 p.tFe ++ le 2 p.nFrz ++ le 2 p.ffHold ++ zeros 8

def chkLoopParam (s : State) (r : Req) : Ans :=
  let n := rd r.p 0 1
  let q := paramOf r.p
  firstOf [(decide (31 < n), badAt 0), (decide (2 < q.safeState), badAt 1), (decide (0 < q.iMin), badAt 12), (decide (q.iMax < 0), badAt 16),
    (decide (q.vNom < -8388608) || decide (8388607 < q.vNom), badAt 24), (q.h == 0 || decide (1073741824 < q.h), badAt 32),
    (decide (16777215 < q.tOnMin), badAt 36), (decide (16777215 < q.tOffMin), badAt 40), (q.nFrz != 0 && decide (q.nFrz < 8), badAt 52),
    ((loopOf s n).stgPar.isSome, .refuse .busy 0)] (.act .ok 0)

def actLoopParam (r : Req) (s : State) : State := s.onLoop (rd r.p 0 1) fun l => { l with stgPar := some (r.tick, paramOf r.p) }

def injectOf (p : List Byte) : Inject :=
  { signal := rd p 1 1, order := rd p 2 1, ampl := rd p 4 4, count := rd p 8 4, base := rd p 12 4, bitLen := rd p 16 2,
    f0 := rdF p 20, f1 := rdF p 28, freqs := (List.range (rd p 3 1)).map fun k => rdF p (36 + 8 * k) }

/-- A sine's frequency: 0.1 Hz to 204.8 MHz / (4 P). -/
def freqOk (f : F64) (per : Nat) : Bool := F64.le 0x3FB999999999999A f && F64.le f (F64.ofRat false refsPerSec (4 * per))

def chkLoopInject (s : State) (r : Req) : Ans :=
  let p := r.p
  let n := rd p 0 1
  let l := loopOf s n
  let j := injectOf p
  let end_ := j.base + capBytes j.count
  firstOf ([(decide (31 < n), badAt 0), (decide (2 < j.signal), badAt 1),
    (j.signal == 1 && !([9, 11, 15, 20, 23].contains j.order), badAt 2), (decide (16 < rd p 3 1), badAt 3),
    (j.ampl == 0 || decide (1073741824 < j.ampl), badAt 4), (decide (j.count < 64) || decide (16384 < j.count), badAt 8),
    (j.base % 64 != 0 || decide (j.base < cooperLo s) || decide (cooperHi s < end_), badAt 12),
    (j.signal == 1 && (j.bitLen == 0 || decide (256 < j.bitLen)), badAt 16),
    (!l.defd, .refuse .functionState notDefined),
    (j.signal != 1 && !freqOk j.f0 l.cfg.period, badAt 20), (j.signal == 2 && !freqOk j.f1 l.cfg.period, badAt 28)] ++
    ((List.range j.freqs.length).map fun k => (j.signal != 0 && !F64.isFinite (j.freqs.getD k 0), badAt (36 + 8 * k))) ++
    [(modeAt l r.tick != LoopMode.closed, loopFs s), (injBusy s || capClash s j.base j.count, .refuse .busy 0)]) (.act .accepted 0)

def actLoopInject (o : Owed) (r : Req) (s : State) : State :=
  s.onLoop (rd r.p 0 1) fun l => { l with inj := some (injectOf r.p), stgInj := some (r.tick, some o) }

def chkLoopTuneRead (s : State) (r : Req) : Ans :=
  let n := rd r.p 0 1
  let part := rd r.p 1 1
  firstOf [(decide (31 < n), badAt 0), (decide (1 < part), badAt 1), ((loopOf s n).tuned.isNone, loopFs s)]
    (let b := (loopOf s n).tuned.getD 0
     .reply 0 (if part = 0 then rmClean s b 232 else rmClean s (b + 232) 216))

/-- The LOOP block from 0x00 to 0x4C (R304), as a requester sees it. -/
def loopImage (s : State) (n req : Nat) : List (BitVec 32) :=
  let l := loopOf s n
  let r := l.run
  let g := l.reg
  let i32 (v : Int) : BitVec 32 := BitVec.ofNat 32 (unsgn 32 v)
  let c := l.cfg
  let left := match l.inj with | some j => if r.capturing then j.count - r.injPos else 0 | none => 0
  [BitVec.ofNat 32 (causeCode r.safeCause * 4096 + modeCode r.mode * 256 + g.actWick * 32 + b2n r.ffaBad * 16 + b2n r.ffvBad * 8 + b2n r.stale * 4
      + b2n r.out * 2 + b2n l.defd),
   BitVec.ofNat 32 c.period, BitVec.ofNat 32 r.k, BitVec.ofNat 32 (r.k / 2 ^ 32), i32 g.r, i32 r.y, i32 g.e, i32 r.i, i32 g.v, g.fbWord, g.fbNs,
   r.edges, g.edgeNs, tget g.staleCnt req 0, tget g.minHolds req 0, g.safeCnt, g.feRun, BitVec.ofNat 32 (left % 65536 * 65536 + r.frzRun % 65536), 0, g.snapSeq]

/-- The staged part of a loop's state, as LOOP_STATUS and the checkpoint give it: payload, ticks, mode and state. -/
def stagedBytes (n : Nat) (l : Loop) : List Byte :=
  (match l.stgPar with | some (_, p) => paramBytes n p | none => zeros 64) ++
  (match l.stgPar with | some (t, _) => le 8 t | none => le 8 0xFFFFFFFFFFFFFFFF) ++
  (match l.stgMode with | some (t, m, f) => le 8 t ++ le 1 (modeCode m) ++ le 1 (b2n f) | none => le 8 0xFFFFFFFFFFFFFFFF ++ zeros 2)

def chkLoopStatus (s : State) (r : Req) : Ans :=
  let n := rd r.p 0 1
  firstOf [(decide (31 < n), badAt 0)]
    (.reply 0 (wordsBytes (loopImage s n (mbxRequester r.h.mbx.val)) ++ paramBytes n (loopOf s n).par ++ stagedBytes n (loopOf s n)))

end Sys2Proof.Machine
end

