-- ==== Sys2Proof/Machine/Drive.lean ====
section
/-! DEFINITION. Checkpoints (R309 to R313), failover and takeback (R318 to R320), paired hubs (R321 to R324), status frames
(R326, R329), and the Wick and drive commands (R308, R380). -/
namespace Sys2Proof.Machine

/-! ### Checkpoints (R309 to R312) -/

/-- Loop n's record (R311); of an undefined loop it is zero. -/
def loopRecord (n : Nat) (l : Loop) : List Byte :=
  if !l.defd then zeros 256
  else
    let r := l.run
    padTo 96 (le 1 (modeCode r.mode) ++ le 1 (b2n r.out + 2 * b2n r.forced + 4 * b2n r.stale + 8 * b2n r.ffvBad + 16 * b2n r.ffaBad + 32 * b2n r.capturing)
      ++ le 1 (causeCode r.safeCause) ++ zeros 5 ++ le 8 r.k ++ le 8 r.onEdge ++ le 8 r.offEdge ++ leI 4 r.i ++ leI 4 r.y ++ le 8 r.usedStamp
      ++ le 2 r.staleRun ++ le 2 r.frzRun ++ leI 4 r.frzValue ++ le 8 r.feStart ++ leI 4 r.tvHeld ++ leI 4 r.taHeld ++ le 2 r.ffvLeft ++ le 2 r.ffaLeft
      ++ le 4 r.edges.toNat ++ le 4 r.injPos ++ le 4 r.prbs)
    ++ paramBytes n l.par ++ padTo 96 (stagedBytes n l)

def causeOfCode : Nat → Supervision
  | 1 => .fbBad | 2 => .fbWire | 3 => .fbOvr | 4 => .stale | 5 => .frozen | 6 => .following | 7 => .noCheckpoint | _ => .none

/-- A loop resumed from its record; whether the output switched within the freeze run is not kept (log 31). -/
def loopFromRecord (p : List Byte) (l : Loop) : Loop :=
  let f := rd p 1 1
  let t := rd p 224 8
  let m := rd p 232 8
  let none64 := 0xFFFFFFFFFFFFFFFF
  { l with par := paramOf (p.drop 96), stgPar := if t = none64 then none else some (t, paramOf (p.drop 160)),
           stgMode := if m = none64 then none else some (m, modeOfCode (rd p 240 1), bit (rd p 241 1) 0),
           run := { mode := modeOfCode (rd p 0 1), out := bit f 0, forced := bit f 1, stale := bit f 2, ffvBad := bit f 3, ffaBad := bit f 4,
                    capturing := bit f 5, safeCause := causeOfCode (rd p 2 1), k := rd p 8 8, onEdge := rd p 16 8, offEdge := rd p 24 8,
                    i := rdS p 32 4, y := rdS p 36 4, usedStamp := rd p 40 8, staleRun := rd p 48 2, frzRun := rd p 50 2, frzValue := rdS p 52 4,
                    feStart := rd p 56 8, tvHeld := rdS p 64 4, taHeld := rdS p 68 4, ffvLeft := rd p 72 2, ffaLeft := rd p 74 2,
                    edges := BitVec.ofNat 32 (rd p 76 4), injPos := rd p 80 4, prbs := rd p 84 4 } }

def definedMask (s : State) : Nat := (List.range 32).foldl (fun a n => if (loopOf s n).defd then a + 2 ^ n else a) 0

/-- A checkpoint of writer w for an instant, by its number j. -/
def checkpointBytes (s : State) (w j refs : Nat) : List Byte :=
  let data := ((List.range 32).map fun n => loopRecord n (loopOf s n)).flatten
  let h := padTo 56 (le 2 0xC4E0 ++ le 1 4 ++ le 1 w ++ le 4 j ++ le 8 refs ++ le 4 s.wick.interval ++ le 4 (definedMask s) ++ le 2 (claimOf s w 0xC0)
    ++ zeros 2 ++ le 4 8256) ++ le 4 (crc32 data).toNat
  h ++ le 4 (crc32 h).toNat ++ data

def slotBase (k : Nat) : Nat := k % 2 * 65536

def putCheckpoint (w refs : Nat) (s : State) : State :=
  let j := s.wick.ckJ
  (rmWrite s (slotBase j) (checkpointBytes s w j refs)).onWick fun k => { k with ckSlot := j % 2, ckSeq := BitVec.ofNat 32 j }

/-- CHECKPOINT_WRITE (R309): the active Wick writes checkpoint j for c_j. -/
def execCheckpointWrite (lanesAgree : Bool) (s : State) : Outc :=
  match s.wick.active with
  | none => done s
  | some w =>
    let c := s.wick.ckJ * s.wick.interval
    let s := s.at_ c
    if !lanesAgree then done (wickFence 1 s)
    else done ((putCheckpoint w c s).onWick fun k => { k with ckJ := k.ckJ + 1 })

/-- CHECKPOINT_LATE and DRIVE_FRAME_LATE (R306). -/
def execCheckpointLate (s : State) : Outc := done (wickFence 3 s)

def execDriveFrameLate (port : Fin 32) (s : State) : Outc :=
  if (loopOf s port.val).defd then done (wickFence 2 s) else done s

/-- Whether a slot is valid (R312). -/
def slotValid (b : List Byte) : Bool :=
  rd b 0 2 == 0xC4E0 && rd b 2 1 == 4 && rd b 56 4 == (crc32 ((b.drop 64).take 8192)).toNat && rd b 60 4 == (crc32 (b.take 60)).toNat

/-- The valid slot of the greater `SEQ` in serial-number arithmetic. -/
def bestSlot (s : State) : Option (Nat × List Byte) :=
  let a := rmClean s 0 8256
  let b := rmClean s 65536 8256
  match slotValid a, slotValid b with
  | true, true => if (rd b 4 4 + 2 ^ 32 - rd a 4 4) % 2 ^ 32 < 2 ^ 31 then some (1, b) else some (0, a)
  | true, false => some (0, a)
  | false, true => some (1, b)
  | false, false => none

/-! ### Failover (R318, R319) -/

/-- A Wick that can be brought up. -/
def wickReady (s : State) (w : Nat) : Bool := tget s.wick.fenced w 0 == 0 && !fnOut s (fnWick w) && !(fnOf s (fnWick w)).testing

/-- The Wick that a failover or hand-over brings up. -/
def incoming (s : State) : Option Nat :=
  match s.wick.takeback with
  | some w => some w
  | none => [0, 1].find? (wickReady s)

/-- WICK_PARTNER_POWERED (R318). -/
def execWickPartnerPowered (s : State) : Outc :=
  if s.wick.fail = .fenced && s.wick.active.isNone && (incoming s).isSome then done (s.onWick fun k => { k with fail := .powered }) else done s

/-- A loop without a checkpoint: `SAFE` with cause 7, its output what the stage reports (R313). -/
def loopNoCheckpoint (l : Loop) : Loop :=
  { l with run := { l.run with mode := .safe, safeCause := .noCheckpoint }, stgMode := none, stgPar := none, modeOwed := none,
           reg := { l.reg with safeCnt := l.reg.safeCnt + 1 } }

/-- The loops brought up by an incoming Wick: each waits for its port's first accepted frame. -/
def loadLoops (t : Nat) (s : State) : State :=
  let slot := bestSlot s
  let s := match slot with
    | some x => s.onWick fun k => { k with ckSlot := x.1, ckSeq := BitVec.ofNat 32 (rd x.2 4 4) }
    | none => post 0x07 0 (fnWick (s.wick.active.getD 0)) 0 [] s
  forN 32 s fun s n =>
    if !(loopOf s n).defd then s
    else
      let s := s.onLoop n fun l =>
        -- a running capture ends with the failover (R301, R319)
        let l := endCapture 3 l
        let l2 := match slot with
          | some x => { loopFromRecord ((x.2.drop (64 + 256 * n)).take 256) l with from_ := rd x.2 8 8 }
          | none => { loopNoCheckpoint l with from_ := t }
        loopUpdate (backToClosed { l2 with run := { l2.run with capturing := false } })
      let s := s.onPort n fun p => { p with waitFirst := true, missRun := 0, released := false }
      sendDrive n 2 false t s

/-- WICK_CHECKPOINT_LOADED (R312, R318, R320): the incoming Wick is active and asks each defined port. -/
def execWickCheckpointLoaded (t : Nat) (s : State) : Outc :=
  match s.wick.fail, incoming s with
  | .powered, some w =>
    let s := s.at_ t
    let planned := s.wick.takeback.isSome
    let s := s.onWick fun k => { k with active := some w, fail := .none, takeback := none, failovers := if planned then k.failovers else k.failovers + 1,
                                        ckJ := cdiv (t + 1) k.interval }
    -- the home Wick's work is with its stand-in, or back from it (R320, R407)
    let s := (s.onFn (fnWick w) fun f => { f with standIn := 0xFFFF }).onFn (fnWick (1 - w)) fun f =>
      { f with standIn := if w = s.wick.home then 0xFFFF else fnWick w }
    let s := if planned && w == s.wick.home then handOver (fnWick w) (fnWick (1 - w)) true [] s else handOver (fnWick (1 - w)) (fnWick w) false [] s
    done (loadLoops s.now s)
  | _, _ => done s

/-- The port's first accepted frame: the loop goes on at its next evaluation; the ones in between are skipped (R319). -/
def portResumes (n t : Nat) (s : State) : State :=
  let l := loopOf s n
  let out := (portOf s n).stageOut
  let skip := nextEval l.cfg (t + 1) - nextEval l.cfg l.from_
  let s := s.onPort n fun p => { p with waitFirst := false }
  let s := s.onWick fun k => { k with skipped := k.skipped + BitVec.ofNat 32 skip }
  s.onLoop n fun l => { l with from_ := max l.from_ (t + 1), resume := some out }

/-- DRIVE_FRAME_RESEND (R318): an unanswered or refused frame sent again, 20 µs after it. -/
def execDriveFrameResend (port : Fin 32) (t : Nat) (s : State) : Outc :=
  let n := port.val
  let p := portOf s n
  if s.wick.active.isNone || !p.waitFirst || t < p.start + 4096 then done s
  else done (sendDrive n (frameCmd p.frame) p.stageOut t (s.at_ t))

/-- WICK_TAKEBACK (R320): at a tick boundary the outgoing Wick writes an extra checkpoint, which both lanes must agree
on (R305), releases its ports and goes cold. Whether a lane has failed is no part of the state: a free value. -/
def execWickTakeback (s : State) : Outc :=
  match s.wick.active, s.wick.takeback with
  | some w, some _ =>
    let v := s.free
    let s := v.2
    if v.1.getLsbD 0 then done (wickFence 1 s)
    else
    let t := s.tb.tick * tickRefs
    let s := putCheckpoint w t s
    let s := forN 32 s fun s n =>
      if (loopOf s n).defd && drives s n then (sendDrive n 1 false s.now s).onPort n fun p => { p with released := true } else s
    done (s.onWick fun k => { k with active := none, fail := .powered })
  | _, _ => done s

/-- WICK_SELF_TEST_DONE (R307): a Wick that passes is the cold standby, and a home Wick takes control back; one that
fails returns to `FAULT`. A fenced Wick that a renewal tests returns to service as R307 says, not to `OFF` as R464 has it
of other functions (DEDUCED, log 157). -/
def execWickSelfTestDone (w : Fin 2) (pass : Bool) (s : State) : Outc :=
  let w := w.val
  let f := fnOf s (fnWick w)
  if !f.testing then done s
  else
    -- a renewal completes once the work is back (R466)
    let back := pass && f.renew == some .testing
    let after := if tget s.wick.fenced w 0 = 0 then f.testOnly.getD .running else .running
    let s := if back then s.onFn (fnWick w) fun f => { f with testing := false, renew := some .returning }
      else
        let s := endOwed (fnWick w) (if pass then .ok else .mismatch) 0 s
        s.onFn (fnWick w) fun g => { g with state := if pass then after else .fault }
    if !pass then done (if f.standIn = 0xFFFF then s else consumeStandIn (fnWick w) f.standIn s)
    else
      let s := s.onWick fun k => { k with fenced := tset k.fenced w 0 }
      done (if s.wick.home = w && s.wick.active != some w && s.wick.active.isSome && after == .running then
        s.onWick fun k => { k with takeback := some w } else s)

/-! ### Status frames (R326, R329) -/

/-- The instant from which the first `DRIVE` of an incoming Wick may start (R318): a compatible stage has dropped the
old claim by then; at once where the stage reports no claim. -/
def firstDriveAt (p : DrivePort) (t : Nat) : Nat := if p.acting = 0 then t else max t (p.acceptAt + 53863)

/-- The frame that a status frame answers: its `SEQ`, within 1 024 refs of the frame's end. -/
def answered (p : DrivePort) (f : BitVec 64) (t : Nat) : Option Awaited :=
  p.expect.find? fun a => a.seq == BitVec.ofNat 8 (bits f.toNat 31 24) && decide (t ≤ frameEnd a.start + 1024)

/-- What a valid status frame does for the frame that it answers. -/
def statusTaken (n t : Nat) (f : BitVec 64) (a : Awaited) (s : State) : State :=
  let p := portOf s n
  let st := bits f.toNat 39 32
  let cmd := frameCmd a.frame
  let ok := bit st 6
  let acting := BitVec.ofNat 16 (bits f.toNat 55 40)
  let s := monValue s 0x4 n ((t : Int) - (frameEnd a.start : Int))
  let s := if p.linkDown then post 0x16 3 n p.missing.toNat [] s else s
  let s := s.onPort n fun p => { p with expect := p.expect.erase a, last := f, lastEnd := t, missRun := 0, linkDown := false, acting, stageOut := bit st 7,
                                        refused := if !ok && cmd != 2 then p.refused + 1 else p.refused,
                                        acceptAt := if ok then t else p.acceptAt }
  let high := (deputyOf s n).isNone && (loopOf s n).defd && s.wick.active.isSome && decide (loopClaim s n < acting.toNat)
  let s := if high && !p.conflict then post 0x08 0 n acting.toNat [] s else if !high && p.conflict then post 0x34 3 n 0x08 [] s else s
  let s := s.onPort n fun p => { p with conflict := high }
  if !p.waitFirst || s.wick.active.isNone then s
  else if !drives s n then portResumes n t s
  else if cmd = 2 then sendDrive n 0 (bit st 7) (firstDriveAt (portOf s n) t) s
  else if cmd = 0 && ok then portResumes n t s
  else s

/-- STATUS_FRAME_RECEIVED (R329): a frame with a bad CRC is counted; one that is not the answer awaited, or that comes
more than 1 024 refs after the frame's end, is not taken. -/
def execStatusFrameReceived (port : Fin 32) (frame : BitVec 64) (t : Nat) (s : State) : Outc :=
  let n := port.val
  let s := s.at_ t
  let p := portOf s n
  if fnOut s (fnDrive n) then done s
  else if bits frame.toNat 15 0 != crc16 48 (frame.toNat / 65536) then done (s.onPort n fun p => { p with crcErr := p.crcErr + 1 })
  else if bits frame.toNat 63 56 != 0x5C then done s
  else match answered p frame t with
    | none => done s
    | some a => done (statusTaken n t frame a s)

/-- STATUS_FRAME_MISSING (R329): the oldest frame awaited was not answered; after 16 in a row a notice. -/
def execStatusFrameMissing (port : Fin 32) (s : State) : Outc :=
  let n := port.val
  let p := portOf s n
  if p.expect.isEmpty then done s
  else
    let s := s.onPort n fun p => { p with expect := p.expect.tail, missing := p.missing + 1, missRun := p.missRun + 1, linkDown := p.linkDown || decide (16 ≤ p.missRun + 1) }
    done (if p.missRun + 1 = 16 && !p.linkDown then post 0x16 1 n (portOf s n).missing.toNat [] s else s)

/-! ### Paired hubs (R321, R322) -/

/-- Home loops that are defined and whose port has had a frame accepted within 1 ms. -/
def homeMask (s : State) (t : Nat) : Nat :=
  (List.range 32).foldl (fun a n =>
    if (loopOf s n).defd && (deputyOf s n).isNone && decide (t ≤ (portOf s n).acceptAt + 204800) && (portOf s n).acceptAt != 0 then a + 2 ^ n else a) 0

/-- The group of heartbeats: 239.192.47.3 in IPv4-mapped form if IPv4 is enabled, else ff02::4f59:3 (R434). -/
def heartbeatGroup (s : State) : BitVec 128 :=
  if s.net.own.ipv4 != 0 then BitVec.ofNat 128 (0xFFFF * 2 ^ 32 + 0xEFC02F03) else BitVec.ofNat 128 (0xFF02 * 2 ^ 112 + 0x4F590003)

/-- PAIR_HEARTBEAT_SEND (R321). -/
def execPairHeartbeatSend (s : State) : Outc :=
  if !s.wick.paired || !s.pwr.fwUp || s.pwr.llTakeover then done s
  else
    let b := le 1 0x20 ++ le 1 4 ++ le 1 s.wick.pairKey ++ [0] ++ le 2 (hubNo s) ++ le 2 s.wick.partner.toNat ++ le 4 s.wick.hbSeq.toNat
      ++ le 4 (homeMask s s.now)
    done ((sendUdp (heartbeatGroup s) 47603 7 (b ++ hmacTag (keyOf s s.wick.pairKey) b) s).onWick fun k => { k with hbSeq := k.hbSeq + 1 })

/-- PAIR_HEARTBEAT_RECEIVED (R322): a valid heartbeat of the partner. -/
def execPairHeartbeatReceived (d : Dgram) (t : Nat) (s : State) : Outc :=
  let s := s.at_ t
  let b := d.body
  let key := rd b 2 1
  let tagOk := b.length == 32 && key == s.wick.pairKey && hmacTag (keyOf s key) (b.take 16) == b.drop 16
  if !s.wick.paired || !tagOk || rd b 0 1 != 0x20 || rd b 1 1 != 4 || rd b 6 2 != hubNo s || rd b 4 2 != s.wick.partner.toNat then
    done s
  else
    let s := if s.wick.pairLost then post 0x15 3 0 s.wick.partner.toNat [] s else s
    done (s.onWick fun k => { k with hbLast := t, hbMask := BitVec.ofNat 32 (rd b 12 4), pairLost := false })

/-- PAIR_HEARTBEAT_LOSS (R322): none for 3 ms. -/
def execPairHeartbeatLoss (t : Nat) (s : State) : Outc :=
  let s := s.at_ t
  if !s.wick.paired || s.wick.pairLost || t < s.wick.hbLast + 614400 then done s
  else done (post 0x15 1 0 s.wick.partner.toNat [] (s.onWick fun k => { k with pairLost := true }))

/-! ### WICK_CONFIG, WICK_STATUS, PAIR_DEFINE, DRIVE_STATUS (R380) -/

/-- The checkpoint interval of a WICK_CONFIG; zero takes the default of R309 (R492). -/
def ckInterval (p : List Byte) : Nat := if rd p 4 4 = 0 then 204800 else rd p 4 4

def chkWickConfig (_s : State) (r : Req) : Ans :=
  firstOf [(decide (1 < rd r.p 0 1), badAt 0), (decide (ckInterval r.p < 51200) || decide (1024000 < ckInterval r.p), badAt 4)] (.stage .ok 0)

def appWickConfig (r : Req) (s : State) : State :=
  let st := rd r.p 2 2
  let iv := ckInterval r.p
  s.onWick fun k => { k with home := rd r.p 0 1, interval := iv, ckJ := cdiv (s.tb.tick * tickRefs) iv,
                             station := if st = 0 then (s.pwr.boot.map (·.station)).getD 0 else st }

def chkWickStatus (s : State) (_r : Req) : Ans :=
  let k := s.wick
  .reply 0 (le 1 (k.active.getD 0xFF) ++ le 1 (fnCode (fnState s (fnWick 0))) ++ le 1 (fnCode (fnState s (fnWick 1))) ++ le 1 k.ckSlot
    ++ le 4 k.ckSeq.toNat ++ le 1 (tget k.fenced 0 0) ++ le 1 (tget k.fenced 1 0)
    ++ le 2 (match k.active with | some w => claimOf s w 0xC0 | none => 0) ++ le 4 k.skipped.toNat ++ le 4 k.failovers.toNat)

def pairEntries (p : List Byte) : List (Nat × Nat) := (List.range (rd p 3 1)).map fun i => (rd p (4 + 2 * i) 1, rd p (5 + 2 * i) 1)

def chkPairDefine (_s : State) (r : Req) : Ans :=
  let p := r.p
  firstOf ([(decide (7 < rd p 2 1), badAt 2), (decide (32 < rd p 3 1), badAt 3), (decide (p.length ≠ 4 + 2 * rd p 3 1), .refuse .badArgument 4)] ++
    ((List.range (rd p 3 1)).map fun i => [(decide (31 < rd p (4 + 2 * i) 1), badAt (4 + 2 * i)), (decide (31 < rd p (5 + 2 * i) 1), badAt (5 + 2 * i))]).flatten)
    (.stage .ok 0)

def appPairDefine (r : Req) (s : State) : State :=
  s.onWick fun k => { k with partner := BitVec.ofNat 16 (rd r.p 0 2), pairKey := rd r.p 2 1, paired := true, pairs := pairEntries r.p,
                             hbLast := s.tb.tick * tickRefs, hbMask := 0xFFFFFFFF, pairLost := false }

def chkDriveStatus (s : State) (r : Req) : Ans :=
  let n := rd r.p 0 1
  let p := portOf s n
  firstOf [(decide (31 < n), badAt 0)]
    (.reply 0 (le 8 p.last.toNat ++ le 4 (s.now - p.lastEnd) ++ le 4 p.missing.toNat ++ le 4 p.crcErr.toNat ++ le 4 p.refused.toNat))

end Sys2Proof.Machine
end

