-- ==== Sys2Proof/Machine/Monitor.lean ====
section
/-! DEFINITION. What the hub measures of itself: the pace monitors (R39 to R43), the dissipation of the excitation groups
(R90 to R94), the junction temperatures (R405, R488), and the health monitors (R417 to R423). -/
namespace Sys2Proof.Machine

/-! ### Pace monitors -/

/-- One tick in picoseconds. -/
def tickPs : Nat := 5120000000

def paceBudget (n : Nat) : Nat := Config.paceBudget n

/-- The margin of a cycle time in 0.01 % (R40, R41), rounded down and held to 16 bits (DESIGN CHOICE, log 62). -/
def paceMargin (n cycle : Nat) : Int := clampI (fdiv (((paceBudget n : Nat) - (cycle : Int)) * 10000) (paceBudget n)) (-32768) 32767

/-- The floor at a junction temperature in 0.01 °C, rounded up to whole degrees (R43). -/
def paceFloor (alarmLvl tj : Int) : Int := if 12500 < tj then alarmLvl else alarmLvl + 12 * (125 - -(fdiv (-tj) 100))

/-- The die whose junction temperature a segment follows: the tile of a tile fabric, else the core. -/
def paceDie (n : Nat) : Nat := if n < 4 then n + 1 else 0

/-- The monitor's fields after a tick of `count` cycles (R41, R43). The cycle is rounded down to whole picoseconds and held to 16
bits (DESIGN CHOICE, log 62). -/
def paceFields (n count : Nat) (floor : Int) (p : Pace) : Pace :=
  let cycle := min (tickPs / count) 65535
  let m := paceMargin n cycle
  { p with cycle := BitVec.ofNat 16 cycle, margin := m, floor := floor, valid := true,
           minMargin := [(0, min (tget p.minMargin 0 0x7FFF) m), (1, min (tget p.minMargin 1 0x7FFF) m)],
           belowFloor := if m < floor then [(0, true), (1, true)] else p.belowFloor,
           goodRun := if p.alarmLvl + 100 ≤ m then p.goodRun + 1 else 0 }

/-- One pace monitor at a tick boundary, with its alarm (R41, R42): the active Lamplighter sets `FLOOR` at every tick (R43), and
a monitor that counted cycles shows them. -/
def paceTick (count : Nat) (n : Nat) (s : State) : State :=
  let p := paceOf s n
  let floor := if s.pwr.fwUp && !s.pwr.llTakeover then paceFloor p.alarmLvl (tget s.glb.dieTemp (paceDie n) 0) else p.floor
  if count = 0 then s.onPace n fun p => { p with floor := floor }
  else
    let s := s.onPace n (paceFields n count floor)
    let q := paceOf s n
    let s := monValue s 0xB n q.cycle.toNat
    if q.margin < q.alarmLvl && !q.alarm then
      post 0x03 0 n (unsgn 32 q.margin) [] (s.onPace n fun p => { p with alarm := true })
    else s

/-- PACE_ALARM_CLEAR (R42): 64 consecutive ticks at or above the alarm level plus 1 %. -/
def execPaceAlarmClear (seg : Fin 24) (s : State) : Outc :=
  let p := paceOf s seg.val
  if p.alarm && decide (64 ≤ p.goodRun) then
    done (post 0x03 3 seg.val (unsgn 32 p.margin) [] (s.onPace seg.val fun p => { p with alarm := false }))
  else done s

/-! ### Temperatures -/

/-- The tick mean of a die's junction temperature (R405, R488). -/
def tempTick (temp : Int) (d : Nat) (s : State) : State :=
  let s := s.onGlb fun g => { g with
    dieTemp := tset g.dieTemp d temp,
    tempOver := tset g.tempOver d (if 12500 < temp then tget g.tempOver d 0 + 1 else 0),
    tempUnder := tset g.tempUnder d (if temp < 12000 then tget g.tempUnder d 0 + 1 else 0) }
  monValue s 0xE d temp

/-- TEMP_ALARM (R488): above 125 °C for 16 consecutive ticks. -/
def execTempAlarm (die : Fin 5) (s : State) : Outc :=
  let d := die.val
  if 16 ≤ tget s.glb.tempOver d 0 && !tget s.glb.tempAlarm d false then
    done (post 0x03 0 (0x100 + d) (unsgn 32 (tget s.glb.dieTemp d 0)) [] (s.onGlb fun g => { g with tempAlarm := tset g.tempAlarm d true }))
  else done s

/-- TEMP_ALARM_CLEAR (R488): below 120 °C for 64 consecutive ticks. -/
def execTempAlarmClear (die : Fin 5) (s : State) : Outc :=
  let d := die.val
  if 64 ≤ tget s.glb.tempUnder d 0 && tget s.glb.tempAlarm d false then
    done (post 0x03 3 (0x100 + d) (unsgn 32 (tget s.glb.dieTemp d 0)) [] (s.onGlb fun g => { g with tempAlarm := tset g.tempAlarm d false }))
  else done s

/-! ### Excitation dissipation; powers in units of 0.05 nW -/

/-- P_g of R92: in IEPE mode one term for each channel, each with a quarter of the measured sum. -/
def groupPower (mode vexc : Nat) (m : ExcMean) : Nat :=
  let bias := 30000 * vexc
  match mode with
  | 0 => 0
  | 3 =>
    let drop := (List.range 4).foldl (fun a i => a + ((vexc : Int) - m.vin.getD i 0) * 10 * m.iMean) 0
    (fdiv drop 4 + bias).toNat
  | _ => (((vexc * 10 : Nat) - m.vMean) * m.iMean + bias).toNat

/-- The tick means of one group (R90, R92). -/
def excTick (g : Nat) (m : ExcMean) (s : State) : State :=
  let p := groupPower (excMode s g) (tileOf s (g / 32)).vexc m
  let s := s.onExc g fun e => { e with iMean := m.iMean, vMean := m.vMean, vin := (List.range 4).map fun i => m.vin.getD i 0, pG := p }
  monValue s 0xD g m.iMean

def watt : Nat := 20000000000

/-- The dissipation of a tile and its runs of ticks above 6.0 W and 6.6 W (R92, R94). -/
def tileTick (t : Nat) (s : State) : State :=
  let p := (List.range 32).foldl (fun a i => a + if excMode s (32 * t + i) = 0 then 0 else (excOf s (32 * t + i)).pG) 0
  s.onTile t fun x =>
    let overRun := if 6 * watt < p then x.overTicks + 1 else 0
    let over66 := if 66 * watt < 10 * p then x.over66 + 1 else 0
    { x with power := p, overTicks := overRun, over66 := over66, noticed := x.noticed && overRun != 0, shutting := x.shutting && overRun != 0 }

/-- A VEXC rail below 6 V (R94): every voltage or current group of its tile is in dropout. -/
def railLow (t : Nat) (s : State) : State :=
  forN 32 s fun s i =>
    let e := excOf s (32 * t + i)
    if e.dropout && e.leftAt.isNone then s else dropOut (32 * t + i) s.now s

/-- Dissipation in mW (R389). -/
def milliW (p : Nat) : Nat := p * 1000 / watt

/-- EXC_POWER_NOTICE (R94): above 6.0 W for 16 consecutive ticks, once for that run. -/
def execExcPowerNotice (tile : Fin 4) (s : State) : Outc :=
  let x := tileOf s tile.val
  if 16 ≤ x.overTicks && !x.noticed then
    done (post 0x04 0 tile.val (milliW x.power) [] (s.onTile tile.val fun x => { x with noticed := true }))
  else done s

/-- The group of a tile with the highest dissipation; the lowest number among equals. -/
def hottest (s : State) (t : Nat) : Option Nat :=
  (List.range 32).foldl (fun best i =>
    let g := 32 * t + i
    if excMode s g = 0 then best
    else match best with
      | none => some g
      | some b => if (excOf s b).pG < (excOf s g).pG then some g else some b) none

/-- A group switched off (R94): its channels are `BAD` from the first sample of the next tick. -/
def shutGroup (g : Nat) (s : State) : State :=
  let t := (s.tb.tick + 1) * tickRefs
  let s := s.onExc g fun e => { e with shutOff := true, pG := 0 }
  forAll (groupSlots s g) s fun s n => s.onChan n fun c => { c with wins := winStart c.wins fBad .plain t }

/-- EXC_POWER_SHUTOFF (R94): above 6.6 W for 64 consecutive ticks, at each tick boundary one group goes off until the tile
is at or below 6.0 W. -/
def execExcPowerShutoff (tile : Fin 4) (s : State) : Outc :=
  let t := tile.val
  let x := tileOf s t
  if (x.shutting || decide (64 ≤ x.over66)) && decide (6 * watt < x.power) then
    match hottest s t with
    | none => done s
    | some g =>
      let p := (excOf s g).pG
      done ((shutGroup g s).onTile t fun x => { x with shutting := true, power := x.power - p })
  else done (s.onTile t fun x => { x with shutting := false })

/-! ### Health monitors -/

/-- The code of a requester in `OWNER` (R423). -/
def ownerCode : Requester → Nat
  | .pcie => 1 | .spi => 2 | .collA => 3 | .collB => 4

/-- The owner that a mailbox's command sets (R355, R421). -/
def ownerOfMbx (m : Nat) : Nat := if m < 4 then 1 else if m < 6 then 2 else m - 3

/-- Whether the index is one of the class's (R417, R418). -/
def monSourceOk (src : Nat) : Bool :=
  let i := src % 4096
  match src / 4096 with
  | 0 => i == 0 | 1 => decide (i < 608) | 2 => i == 0 | 3 => decide (i < 32) | 4 => decide (i < 32) | 5 => decide (i < 4)
  | 6 => decide (i < 8) | 7 => decide (i < 7) | 8 => decide (i < 64) | 9 => i == 0 | 10 => decide (i < 79) | 11 => decide (i < 24)
  | 12 => decide (i < 608) | 13 => decide (i < 128) | 14 => decide (i < 5)
  | _ => false

/-- A swap (R420): the live bank becomes the snapshot. -/
def monSwap (tick : Nat) (m : Monitor) : Monitor :=
  { m with snap := m.live, live := {}, snapTick := tick, snapSeq := m.snapSeq + 2 }

/-- A swap by SNAP; in the tick of an automatic swap there is that one only (R421). -/
def monSnap (tick : Nat) (m : Monitor) : Monitor :=
  if m.autoIn = some tick then m else { monSwap tick m with snapIn := some tick }

/-- MONITOR_AUTO_SWAP (R421): at a tick whose number is a multiple of `WIN_TICKS`; one swap in a tick. -/
def execMonitorAutoSwap (m : Fin 32) (s : State) : Outc :=
  let x := monOf s m.val
  if x.auto && s.tb.tick % max 1 x.winTicks == 0 && x.snapIn != some s.tb.tick && x.autoIn != some s.tb.tick then
    done (s.onMon m.val fun x => { monSwap s.tb.tick x with autoIn := some s.tb.tick })
  else done s

/-- The sources whose values lie inside the fabric and the elastic buffers that it empties by itself (R417, R418): the time of a
fabric transaction by requester, and the fill of a network, PCI Express, QSPI, SPI or JTAG buffer, with its depth (R33). -/
def openSources : List (Nat × Option Nat) :=
  (List.range 7).map (fun r => (0x7000 + r, none)) ++ (List.range 4).map (fun p => (0xA000 + 33 + p, some 512))
    ++ (List.range 4).map (fun p => (0xA000 + 37 + p, some 1024)) ++ [(0xA029, some 512), (0xA02A, some 512), (0xA02B, some 512), (0xA02C, some 64),
    (0xA02D, some 64), (0xA04E, some 4)]

/-- The values of a tick of the open sources that a monitor watches: free values, of a buffer within its depth (log 156). -/
def monOpen (s : State) : State :=
  (openSources.filter fun x => s.mon.any fun e => e.2.running && e.2.source == x.1).foldl (fun s x =>
    let vs := Config.freeValues s.freeCtr
    vs.foldl (fun s v => monValue s (x.1 / 4096) (x.1 % 4096) ((match x.2 with | some d => min v d | none => v : Nat) : Int))
      { s with freeCtr := s.freeCtr + 1 }) s

/-- A discarded access counted (R400). -/
def badAccess (s : State) : State := s.onGlb fun g => { g with badAccess := g.badAccess + 1 }

/-- A write to a window control: only the owner's, and a network owner has none (R422). -/
def monControl (r : Requester) (m : Nat) (f : Monitor → Monitor) (s : State) : State :=
  if (r == .pcie || r == .spi) && (monOf s m).owner == ownerCode r then s.onMon m f else badAccess s

/-- MON_START (R421). -/
def execMonStart (r : Requester) (m : Fin 32) (s : State) : Outc := done (monControl r m.val (fun x => { x with live := {}, running := true }) s)

/-- MON_STOP (R421). -/
def execMonStop (r : Requester) (m : Fin 32) (s : State) : Outc := done (monControl r m.val (fun x => { x with running := false }) s)

/-- MON_SNAP (R421). -/
def execMonSnap (r : Requester) (m : Fin 32) (s : State) : Outc :=
  done (monControl r m.val (monSnap s.tb.tick) s)

/-- MON_CONFIG (R417 to R419, R421). -/
def chkMonConfig (_s : State) (r : Req) : Ans :=
  firstOf [(decide (31 < rd r.p 0 1), badAt 0), (!monSourceOk (rd r.p 2 2), badAt 2),
    (decide (rd r.p 8 4 = 0) || decide (2 ^ 31 < rd r.p 8 4), badAt 8)] (.stage .ok 0)

def appMonConfig (r : Req) (s : State) : State :=
  s.onMon (rd r.p 0 1) fun m => { m with
    owner := ownerOfMbx r.h.mbx.val, running := true, auto := true, source := rd r.p 2 2,
    binLo := rdS r.p 4 4, binW := rd r.p 8 4, live := {}, snap := {}, snapSeq := m.snapSeq + 2 }

/-- MON_READ (R383, R423): bins 0 to 47, or with `MON` + 0x80 bins 48 to 63. -/
def chkMonRead (s : State) (r : Req) : Ans :=
  let n := rd r.p 0 1
  let b := (monOf s (n % 128)).snap
  firstOf [(decide (31 < n % 128), badAt 0)]
    (.reply 0 (if n < 128 then leI 4 b.min ++ leI 4 b.max ++ ((List.range 48).map fun i => le 4 (tget b.bins i 0)).flatten
               else ((List.range 16).map fun i => le 4 (tget b.bins (48 + i) 0)).flatten))

end Sys2Proof.Machine
end

