-- ==== Sys2Proof/Machine/Time.lean ====
section
/-! DEFINITION. The time base (R46 to R80): the PTP ordinary clock and its servo, Synchronous Ethernet, the time states and
`HOLD`, steps and slews, the epoch mark, the time-to-digital inputs, and the beacons. Instants of stamps and messages are in
2^-16 ns, those of beacons in 1/16 ref. -/
namespace Sys2Proof.Machine

/-- Firmware serves: it is up and no takeover runs. -/
def lampServes (s : State) : Bool := s.pwr.fwUp && !s.pwr.llTakeover

/-- An update of fields that `MARK_SEQ` covers: the word moves once before and once after it (R402, R406). -/
def marked (f : TimeBase → TimeBase) (s : State) : State := s.onTb fun b => { f b with markSeq := b.markSeq + 2 }

/-- 50 ns in 2^-16 ns (R49, R72). -/
def ns50 : Int := 3276800

def within50 (o : Int) : Bool := decide (-ns50 ≤ o) && decide (o ≤ ns50)

/-- The pull range of 200 ppm in 2^-40 (R47). -/
def pullMax : Int := 219902325

/-- The frequency word minus nominal (R47). -/
def freqOfs (b : TimeBase) : Int := clampI (b.ptpTerm + b.synceTerm + b.slewTerm) (-pullMax) pullMax

/-- Whether the servo is reset or out of service: the frequency word then holds its last value (R48). -/
def servoHeld (s : State) : Bool := fnState s fnServo != .running || (fnOf s fnServo).held

/-- The frequency word brought to its terms, unless the servo is reset. -/
def setFreq (s : State) : State := if servoHeld s then s else s.onTb fun b => { b with freq := freqOfs b }

/-- An instant as a stamp holds it: nanoseconds, and a fraction that is a multiple of 800 units of 2^-16 ns (R58, R80). -/
def cutStamp (t : Nat) : Nat := t / 65536 * 65536 + t % 65536 / 800 * 800

/-- How many of the words of an elastic buffer the fabric has taken since the last one came is timing: a free value (log 138). -/
def drained {α : Type} (v : BitVec 64) (buf : List α) : List α := buf.drop (v.toNat % (buf.length + 1))

/-- A value that the spec leaves open within the pull range. -/
def freePull (v : BitVec 64) : Int := clampI (sgn 64 v.toNat) (-pullMax) pullMax

/-! ### The parent (R54, R71) -/

/-- The states that a loss leaves (R71). -/
def TimeState.lossy : TimeState → Bool
  | .locked | .acquiring | .slewing => true
  | .unset | .holdover => false

/-- A cause of R71: the state leaves at the next tick boundary, and the next master is qualified afresh (R72). -/
def loseMaster (b : TimeBase) : TimeBase :=
  { b with leave := b.leave || b.state.lossy, act := .none, qAnn := 0, qSync := 0, qDelay := 0, postStep := 0, msDelay := none,
           smDelay := none, syncWait := none, dreqWait := none }

/-- Whether the first data set is better by the best master clock algorithm of IEEE 1588 (R54): the fields in their order of
weight. -/
def lexLt : List Nat → List Nat → Bool
  | a :: as, b :: bs => decide (a < b) || (a == b && lexLt as bs)
  | _, _ => false

def announceKey (port : Nat) (a : AnnounceData) : List Nat :=
  [a.prio1, a.clockClass, a.accuracy, a.variance, a.prio2, a.gmId.toNat, a.steps, a.sender.toNat, port]

/-- The best of the masters that have sent two Announce messages (R54, R72). -/
def bestMaster : List Foreign → Option (Nat × AnnounceData)
  | [] => none
  | m :: t =>
    if m.count < 2 then bestMaster t
    else match bestMaster t with
      | none => some (m.port, m.data)
      | some (q, b) => if lexLt (announceKey q b) (announceKey m.port m.data) then some (q, b) else some (m.port, m.data)

/-- The Announce receipt timeout in refs (R52). -/
def annRefs (c : PtpCfg) : Nat :=
  if 0 ≤ c.annLog then c.annTimeout * refsPerSec * 2 ^ c.annLog.toNat else c.annTimeout * refsPerSec / 2 ^ (-c.annLog).toNat

/-- Whether an entry is that of a sender on a port. -/
def Foreign.isFrom (port : Nat) (sender : BitVec 80) (m : Foreign) : Bool := m.port == port && m.data.sender == sender

/-- An Announce entered at instant `t`; masters other than the parent that have not been heard for the receipt timeout are
forgotten. -/
def hear (port : Nat) (a : AnnounceData) (t : Nat) (b : TimeBase) : List Foreign :=
  let isParent (m : Foreign) : Bool := match b.parent with | some (p, d) => m.isFrom p d.sender | none => false
  let n := ((b.masters.find? (Foreign.isFrom port a.sender)).map (·.count)).getD 0
  { port, data := a, count := n + 1, at_ := t } ::
    b.masters.filter fun m => !m.isFrom port a.sender && (isParent m || decide (t < m.at_ + annRefs b.cfg))

/-- The parent chosen anew (R54): a change of grandmaster or of port is a new master (R71); its two Announce messages have
come. -/
def chooseParent (b : TimeBase) : TimeBase :=
  match b.parent, bestMaster b.masters with
  | some (p, a), some (q, c) =>
    if p = q && a.gmId = c.gmId then { b with parent := some (q, c), utcOffset := c.utcOffset }
    else { loseMaster b with parent := some (q, c), utcOffset := c.utcOffset, qAnn := 2 }
  | none, some (q, c) => { loseMaster b with leave := b.leave, parent := some (q, c), utcOffset := c.utcOffset, qAnn := 2 }
  | some _, none => { loseMaster b with parent := none }
  | none, none => b

/-- A PTP message has arrived on a port: the block-alignment delay of its frame is shown (R60, R413). -/
def ptpSeen (port b : Nat) (s : State) : State := s.onNet port fun n => { n with blockAlign := BitVec.ofNat 16 b }

/-- Whether the ordinary clock takes a message: of its domain, over a transport that is on (R52). -/
def ptpTakes (s : State) (domain : Nat) (udp : Bool) : Bool :=
  domain == s.tb.cfg.domain && bit s.tb.cfg.transport (if udp then 1 else 0)

/-- ANNOUNCE_RECEIVED (R54, R65). -/
def execAnnounceReceived (x : PtpRx) (a : AnnounceData) (s : State) : Outc :=
  let s := ptpSeen x.port.val x.b s
  if !lampServes s || !ptpTakes s x.domain x.udp then done s
  else
    done (marked (fun b =>
      let again := match b.parent with | some (p, d) => p == x.port.val && d.sender == a.sender | none => false
      let b := chooseParent { b with masters := hear x.port.val a s.now b }
      if again && b.parent.map (fun p => (p.1, p.2.gmId)) == some (x.port.val, a.gmId) then { b with qAnn := b.qAnn + 1 } else b) s)

/-- ANNOUNCE_RECEIPT_TIMEOUT (R71): the parent's Announce messages have ceased; masters that have been silent as long are
forgotten with it. -/
def execAnnounceReceiptTimeout (s : State) : Outc :=
  match s.tb.parent with
  | none => done s
  | some (p, a) => done (marked (fun b => chooseParent (loseMaster { b with
      masters := b.masters.filter fun m => !m.isFrom p a.sender && decide (s.now < m.at_ + annRefs b.cfg), parent := none })) s)

/-- SYNC_TIMEOUT (R71). -/
def execSyncTimeout (s : State) : Outc := done (s.onTb loseMaster)

/-! ### Delay exchanges and the servo (R52, R53, R55, R59, R60) -/

/-- Transmit and receive corrections of R59 in 2^-16 ns, by the port's mode; `b` is the block-alignment delay. -/
def txConst (s : State) (p : Nat) : Int := match (netOf s p).mode with | 2 => 3578266 | 1 => 7340032 | _ => 0

def rxConst (s : State) (p b : Nat) : Int := match (netOf s p).mode with | 2 => -6370099 - b | 1 => -14994637 | _ => 0

/-- The corrections that the ordinary clock applies: none in the report setting (R60). -/
def txCorr (s : State) (p : Nat) : Int := if tget s.tb.tsReport p false then 0 else txConst s p

def rxCorr (s : State) (p b : Nat) : Int := if tget s.tb.tsReport p false then 0 else rxConst s p b

def asymOf (s : State) (p : Nat) : Int := s.tb.cfg.asym.getD p 0

/-- The servo runs: the active Lamplighter serves, and the servo is neither reset nor renewed (R48, R55, R467). -/
def servoRuns (s : State) : Bool := lampServes s && !servoHeld s

/-- The measured offset (R52, R72): half the difference of the two path times. -/
def measureOffset (b : TimeBase) : TimeBase :=
  match b.msDelay, b.smDelay with
  | some m, some d => { b with offset := fdiv (m - d) 2 }
  | _, _ => b

/-- One servo update (R55): outside `HOLDOVER` the PTP term takes a new value, which the loop's gains, not stated, form. -/
def servoUpdate (t : Nat) (s : State) : State :=
  if servoRuns s && s.tb.state.lossy then
    let f := s.free
    let s := setFreq (marked (fun b => { b with ptpTerm := freePull f.1, servoUpd := b.servoUpd + 1, servoLast := t }) f.2)
    monValue s 0x9 0 (fdiv (s.tb.offset * 1000) 65536)
  else s

/-- A Sync complete with its origin (R55). -/
def syncDone (m : SyncMsg) (origin : Nat) (corr : Int) (s : State) : State :=
  let ms := (cutStamp m.ingress : Int) + rxCorr s m.port.val m.b - origin - corr - asymOf s m.port.val
  let s := marked (fun b =>
    measureOffset { b with msDelay := some ms, syncWait := none, qSync := if 2 ≤ b.qAnn then b.qSync + 1 else b.qSync }) s
  servoUpdate (m.ingress / fuPerRef) s

/-- The parent's messages arrive on another physical port (R71). -/
def parentPort (p : Nat) (b : TimeBase) : TimeBase :=
  match b.parent with
  | some (q, a) =>
    if q = p then b
    else { loseMaster b with parent := some (p, a), masters := b.masters.map fun m => if m.isFrom q a.sender then { m with port := p } else m }
  | none => b

/-- SYNC_RECEIVED (R55): a two-step Sync waits for its Follow_Up. -/
def execSyncReceived (m : SyncMsg) (s : State) : Outc :=
  let s := ptpSeen m.port.val m.b (s.at_ (m.ingress / fuPerRef))
  if s.tb.parent.isNone || !ptpTakes s m.domain m.udp then done s
  else
    let s := s.onTb (parentPort m.port.val)
    if m.twoStep then done (s.onTb fun b => { b with syncWait := some m }) else done (syncDone m m.origin m.corr s)

/-- FOLLOW_UP_RECEIVED (R52). -/
def execFollowUpReceived (m : FollowUpMsg) (s : State) : Outc :=
  let s := ptpSeen m.rx.port.val m.rx.b s
  match s.tb.syncWait with
  | some w => if w.seq = m.seq && ptpTakes s m.rx.domain m.rx.udp then done (syncDone w m.origin (w.corr + m.corr) s) else done s
  | none => done s

/-- DELAY_REQ_SEND (R53). -/
def execDelayReqSend (port : Fin 4) (egress : Nat) (s : State) : Outc :=
  if !lampServes s || s.tb.parent.isNone then done s
  else
    let q := s.tb.dreqSeq
    let s := (s.at_ (egress / fuPerRef)).onTb fun b => { b with dreqSeq := q + 1, dreqWait := some (q.toNat, cutStamp egress, port.val) }
    done ((s.send (.delayReq port.val q)).onNet port.val fun n => { n with txFrames := n.txFrames + 1 })

/-- DELAY_RESP_RECEIVED (R52). The exchanges that R72 counts before `LOCKED` are counted by their delay responses
(DEDUCED, log 142). -/
def execDelayRespReceived (x : PtpRx) (seq : Nat) (r : RespTimes) (s : State) : Outc :=
  let s := ptpSeen x.port.val x.b s
  match s.tb.dreqWait with
  | none => done s
  | some (q, egress, port) =>
    if q ≠ seq || !ptpTakes s x.domain x.udp then done s
    else
      let sm := (r.receipt : Int) - ((egress : Int) + txCorr s port) - r.corr + asymOf s port
      done (marked (fun b =>
        measureOffset { b with smDelay := some sm, dreqWait := none, qDelay := if 2 ≤ b.qAnn then b.qDelay + 1 else b.qDelay,
                               postStep := b.postStep + 1 }) s)

/-- The watchdog's time in refs (R55): the longer of 250 ms and four Sync intervals. -/
def watchdogRefs (b : TimeBase) : Nat := max 51200000 (4 * refsPerSec / 2 ^ (-b.cfg.syncLog).toNat)

/-- SERVO_WATCHDOG (R55, R71). -/
def execServoWatchdog (t : Nat) (s : State) : Outc :=
  let s := s.at_ t
  if s.tb.state.lossy && decide (s.tb.servoLast + watchdogRefs s.tb ≤ t) then
    done (s.onTb fun b => { loseMaster b with dog := true })
  else done s

/-- MASTER_QUALIFIED (R72): two Announces, 16 Syncs and 16 delay exchanges. -/
def execMasterQualified (s : State) : Outc :=
  let b := s.tb
  if !b.state.lossy && decide (2 ≤ b.qAnn) && decide (16 ≤ b.qSync) && decide (16 ≤ b.qDelay) then
    done (s.onTb fun b => { b with act := .master })
  else done s

/-- LOCK_AFTER_STEP (R72). -/
def execLockAfterStep (s : State) : Outc :=
  if s.tb.state == .acquiring && decide (16 ≤ s.tb.postStep) then done (s.onTb fun b => { b with act := .lock }) else done s

/-- SLEW_COMPLETE (R72): the offset that was measured is within 50 ns. -/
def execSlewComplete (offset : Int) (s : State) : Outc :=
  if s.tb.state == .slewing && within50 offset then done (marked (fun b => { b with offset := offset, act := .lock }) s) else done s

/-! ### Synchronous Ethernet (R61 to R63) -/

/-- Quality levels order by their code; QL-DNU is no source. -/
def qlDnu : Byte := 0x0F

/-- The best port by quality of those whose link is up, ties to the lowest priority and then the lowest port (R61). -/
def bestQl (s : State) : Option Nat :=
  let b := s.tb
  (b.ql.filter fun e => e.2 != qlDnu && (netOf s e.1).link).foldl (fun best e =>
    match best with
    | none => some e.1
    | some k =>
      if lexLt [e.2.toNat, b.syncePrio.getD e.1 0, e.1] [(tget b.ql k 0).toNat, b.syncePrio.getD k 0, k] then some e.1 else some k) none

/-- SYNCE_SOURCE_CHANGE (R62): the term stays and is pulled toward the new source over 10 s. -/
def execSynceSourceChange (port : Fin 4) (t : Nat) (s : State) : Outc :=
  let b := s.tb
  let s := s.at_ t
  if (b.synceMode = 1 && b.syncePort = port.val) || (b.synceMode = 2 && bestQl s == some port.val) then
    if b.synceSel = some port.val then done s
    else done (s.onTb fun b => { b with synceSel := some port.val, syncePull := some (t + 10 * refsPerSec) })
  else done s

/-- SYNCE_SOURCE_LOSS (R62): the term stays frozen; the time state does not change. -/
def execSynceSourceLoss (s : State) : Outc := done (s.onTb fun b => { b with synceSel := none, syncePull := none })

/-- ESMC_RECEIVED (R61). -/
def execEsmcReceived (port : Fin 4) (ql : Byte) (s : State) : Outc :=
  if lampServes s then done (s.onTb fun b => { b with ql := tset b.ql port.val ql }) else done s

/-- ESMC_SEND (R63): on every port whose link is up; the level sent with no source selected is left open. -/
def execEsmcSend (s : State) : Outc :=
  if !lampServes s then done s
  else
    let f := s.free
    let q : Byte := match s.tb.synceSel with | some p => tget s.tb.ql p 0 | none => f.1.setWidth 8
    let s := if s.tb.synceSel.isSome then s else f.2
    done (forN 4 s fun s p => if (netOf s p).link then (s.send (.esmc p (if s.tb.synceSel = some p then qlDnu else q))).onNet p fun n => { n with txFrames := n.txFrames + 1 } else s)

/-! ### The tick boundary (R49, R50, R55, R66, R71 to R74) -/

/-- The time state changes at this boundary; `HOLD` follows (R50). -/
def enterTime (x : TimeState) (s : State) : State :=
  let hold := x != .locked
  marked (fun b => { b with state := x, holdLog := if (b.holdLog.head?.map (·.2)) = some hold then b.holdLog else (s.now, hold) :: b.holdLog }) s

/-- The first pulse of a setting after the instant `t`; a one-shot whose start has passed emits none. -/
def firstPulse (c : BeaconSet) (t : Nat) : Option Nat :=
  if t < c.start then some c.start
  else if c.periodic && c.period ≠ 0 then some (c.start + ((t - c.start) / c.period + 1) * c.period) else none

/-- An instant that moves with a step of the time count. -/
def shiftT (d : Int) (t : Nat) : Nat := ((t : Int) + d).toNat

def shiftWin (d : Int) (w : Win) : Win := { w with lo := shiftT d w.lo, hi := w.hi.map (shiftT d) }

/-- A beacon at a step of the time count by `d` to `t`: a pulse in progress keeps its width, and the next one comes at its
programmed time (R75, R77; DEDUCED, log 140). -/
def stepBeacon (d : Int) (t : Nat) (b : Beacon) : Beacon :=
  match b.cfg with
  | some c => { b with edge := if b.inPulse then b.edge.map (shiftT (16 * d)) else firstPulse c (16 * t) }
  | none => b

/-- An auxiliary converter's scan at a step: its conversions and delays go on (log 141). -/
def stepAux (d : Int) (a : AuxConv) : AuxConv :=
  { a with muxAt := shiftT d a.muxAt, firstHold := shiftT d a.firstHold, freeAt := shiftT d a.freeAt, event := a.event.map (shiftT d),
           phase := match a.phase with
             | .delay due late => .delay (shiftT d due) late
             | .converting hold rep => .converting (shiftT d hold) rep
             | p => p }

/-- An instant at which 0 stands for none. -/
def shiftSet (d : Int) (x : Nat) : Nat := if x = 0 then 0 else max 1 (shiftT d x)

/-- A loop at a step to `t`: its next evaluation is the first from `t` on (R283). -/
def stepLoop (d : Int) (t : Nat) (l : Loop) : Loop :=
  { l with from_ := t, run := { l.run with onEdge := shiftSet d l.run.onEdge, offEdge := shiftSet d l.run.offEdge, feStart := shiftSet d l.run.feStart } }

/-- The Wicks at a step: the next checkpoint is the first from `t` on (R309). -/
def stepWick (d : Int) (t : Nat) (w : Wick) : Wick :=
  { w with loop := w.loop.map fun e => (e.1, stepLoop d t e.2), ckJ := cdiv t w.interval, hbLast := shiftT d w.hbLast,
           port := w.port.map fun e => (e.1, { e.2 with start := shiftT d e.2.start, lastEnd := shiftT d e.2.lastEnd, acceptAt := shiftSet d e.2.acceptAt }) }

/-- The time base stepped so that the present instant is `t` refs (R48, R72, R74): the ticks follow it, and what runs on for a
length of time keeps that length (log 141). The evaluations of a loop are counted from the new time (R283). -/
def stepTime (t : Nat) (s : State) : State :=
  let d : Int := (t : Int) - s.now
  let ex (e : Exc) : Exc := { e with leftAt := e.leftAt.map (shiftT d), settleEnd := shiftT d e.settleEnd, suspendEnd := shiftT d e.suspendEnd }
  { s with
    now := t,
    tb := { s.tb with tick := t / tickRefs, holdLog := [(0, true)], servoLast := t, beacon := s.tb.beacon.map fun e => (e.1, stepBeacon d t e.2),
                      tdc := s.tb.tdc.map fun e => (e.1, { e.2 with prev := e.2.prev.map (shiftT (d * fuPerRef)) }),
                      masters := s.tb.masters.map fun m => { m with at_ := shiftT d m.at_ } },
    fe := { s.fe with chan := s.fe.chan.map fun e => (e.1, { e.2 with wins := e.2.wins.map (shiftWin d) }),
                      auxClamp := s.fe.auxClamp.map fun e => (e.1, e.2.map (shiftWin d)),
                      exc := s.fe.exc.map fun e => (e.1, ex e.2),
                      comp := s.fe.comp.map fun e => (e.1, { e.2 with mutedUntil := shiftT d e.2.mutedUntil }),
                      aux := s.fe.aux.map fun e => (e.1, stepAux d e.2) },
    wick := stepWick d t s.wick }

/-- The slew limit in 2^-40 (R72). -/
def slewLimit (b : TimeBase) : Int := (b.cfg.slewPpm * 1099511627776 / 1000000 : Nat)

/-- What a loss does at the boundary (R71). -/
def leaveState (s : State) : State :=
  let s := s.onTb fun b => { b with leave := false, dog := false, slewTerm := 0, ptpTerm := if b.state = .slewing then b.ptpBefore else b.ptpTerm }
  if s.tb.state.lossy then enterTime .holdover s else s

/-- What a qualified master does at the boundary (R72). `OFFSET` is 0 after a step to the master until the next measurement
(DESIGN CHOICE, log 142). -/
def takeMaster (s : State) : State :=
  let o := s.tb.offset
  let s := s.onTb fun b => { b with act := .none }
  if !s.pwr.plane then
    let t := ((s.now * fuPerRef : Nat) - o).toNat / fuPerRef
    let s := stepTime t s
    enterTime .acquiring (marked (fun b => { b with offset := 0, postStep := 0, msDelay := none, smDelay := none }) s)
  else if within50 o then enterTime .locked (s.onTb fun b => { b with servoLast := s.now })
  else
    let s := marked (fun b => { b with ptpBefore := b.ptpTerm, slewTerm := if 0 < o then -slewLimit b else slewLimit b, servoLast := s.now }) s
    enterTime .slewing s

/-- The time state at a tick boundary (R49): changed by the active Lamplighter, or by the watchdog. -/
def timeState (s : State) : State :=
  if s.tb.leave && (lampServes s || s.tb.dog) then leaveState s
  else if !lampServes s then s
  else
    match s.tb.act with
    | .master => takeMaster s
    | .lock => enterTime .locked (s.onTb fun b => { b with act := .none, slewTerm := 0 })
    | .none => s

/-- The frequency term at a tick boundary (R61, R62): the measured offset of the selected port's recovered clock; after a
change of source it is pulled there in equal parts over the 10 s (DEDUCED, log 143). -/
def synceTerm (now : Nat) (meas : Option Int) (b : TimeBase) : Int :=
  match meas, b.syncePull with
  | none, _ => b.synceTerm
  | some m, none => clampI m (-pullMax) pullMax
  | some m, some e =>
    if e ≤ now then clampI m (-pullMax) pullMax
    else clampI (b.synceTerm + fdiv ((m - b.synceTerm) * tickRefs) ((e - now : Nat) + tickRefs)) (-pullMax) pullMax

/-- Synchronous Ethernet and the bandwidth in force at a tick boundary (R55, R61, R62). -/
def synceTick (recovered : List (Nat × Int)) (s : State) : State :=
  let meas := s.tb.synceSel.bind fun p => (recovered.find? fun e => e.1 == p).map (·.2)
  let s := s.onTb fun b =>
    { b with bwInForce := if b.cfg.bwMhz ≠ 0 then b.cfg.bwMhz else if b.synceSel.isSome then 10 else 100 }
  let s := if meas.isSome && !servoHeld s then marked (fun b => { b with synceTerm := synceTerm s.now meas b }) s else s
  setFreq (s.onTb fun b => { b with syncePull := match b.syncePull with | some e => if e ≤ s.now then none else some e | none => none })

/-- The epoch mark of the boundary (R66). -/
def epochMark (s : State) : State :=
  if !lampServes s then s
  else
    let t := s.tb.tick * tickRefs
    marked (fun b => { b with tickNum := BitVec.ofNat 64 b.tick, tickSec := BitVec.ofNat 48 (secOf t), tickNsec := BitVec.ofNat 32 (nsOf t),
                              tickHw := BitVec.ofNat 32 (refNs t) }) s

/-! ### Time-to-digital inputs (R78 to R80, R126) -/

/-- A stamp word (R80). -/
def stampOf (inp t : Nat) (edge hold lost : Bool) : BitVec 64 :=
  BitVec.ofNat 64 (t / 65536 % 2 ^ 32 * 2 ^ 32 + t % 65536 * 65536 + inp % 16 * 256 + b2n edge * 128 + b2n hold * 2 + b2n lost)

/-- An edge on input i, 16 and above for the comparators, at `t`: stamped unless it comes within 64 refs of the last stamped
one, or finds the stamp buffer full (R33), or the input is out of service. -/
def takeStamp (i : Nat) (edge out : Bool) (t : Nat) (s : State) : State :=
  let t := cutStamp t
  let v := (s.at_ (t / fuPerRef)).free
  let s := v.2.onTdc i fun d => { d with buf := drained v.1 d.buf }
  let d := tdcOf s i
  let soon := match d.prev with | some p => decide (t < p + 64 * fuPerRef) | none => false
  if out || soon || decide (16 ≤ d.buf.length) then s.onTdc i fun d => { d with misses := d.misses + 1, lostBefore := true }
  else
    let w := stampOf i t edge (holdAt s.tb.holdLog (t / fuPerRef)) d.lostBefore
    let s := s.onTdc i fun d => { d with last := w, edges := d.edges + 1, lostBefore := false, prev := some t, buf := d.buf ++ [w] }
    let s := monValue s 0xA (if i < 16 then 62 + i else 30 + i) (d.buf.length + 1 : Nat)
    { s with trg := { s.trg with stamps := (i, t, w) :: s.trg.stamps } }

/-- EVENT_EDGE (R78, R79): an edge that `EVENT_CONFIG` chooses. -/
def execEventEdge (inp : Fin 16) (rising : Bool) (t fine : Nat) (s : State) : Outc :=
  let i := inp.val
  let s := s.onTb fun b => { b with evtLevel := tset b.evtLevel i rising }
  if bit (tget s.tb.evtEdges i 0) (if rising then 0 else 1) then
    done (takeStamp i rising (fnState s (fnEvent i) != .running || (fnOf s (fnEvent i)).held) (t * fuPerRef + fine) s)
  else done (s.at_ t)

/-- COMPARATOR_CROSSING (R126, R127). -/
def execComparatorCrossing (ch : Fin 16) (outward : Bool) (t fine : Nat) (s : State) : Outc :=
  let c := compOf s ch.val
  if !c.enable || decide (t < c.mutedUntil) then done (s.at_ t)
  else done (takeStamp (16 + ch.val) outward false (t * fuPerRef + fine) s)

/-! ### Beacons (R75 to R77) -/

/-- A setting, or none, taken into force at `t`, with no pulse in progress. -/
def beaconLoad (c : Option BeaconSet) (t : Nat) (b : Beacon) : Beacon :=
  match c with
  | some c => { b with cfg := some c, next := none, stopping := false, inPulse := false, level := c.activeLow, edge := firstPulse c t }
  | none => { b with cfg := none, next := none, stopping := false, inPulse := false, edge := none }

/-- The beacon at its edge `e`: a pulse starts or ends. -/
def beaconStep (c : BeaconSet) (e : Nat) (b : Beacon) : Beacon :=
  if !b.inPulse then { b with inPulse := true, level := !c.activeLow, pulses := b.pulses + 1, edge := some (e + c.width) }
  else
    let b := { b with inPulse := false, level := c.activeLow, edge := if c.periodic then firstPulse c e else none }
    if b.stopping then beaconLoad none e b
    else match b.next with
      | some n => beaconLoad (some n) e b
      | none => b

/-- BEACON_EDGE (R75): an output that is out of service holds its level (R467). -/
def execBeaconEdge (n : Fin 16) (s : State) : Outc :=
  let b := beaconOf s n.val
  match b.cfg, b.edge with
  | some c, some e =>
    let x := beaconStep c e b
    let x := if fnState s (fnBeacon n.val) == .running then x else { x with level := b.level }
    done ((s.at_ (e / 16)).onBeacon n.val fun _ => x)
  | _, _ => done s

/-! ### Commands (R379) -/

def timeCode : TimeState → Nat
  | .unset => 0 | .acquiring => 1 | .locked => 2 | .holdover => 3 | .slewing => 4

/-- TIME_STATUS (R379): what no rule gives a value with no parent or no source is left open. -/
def chkTimeStatus (s : State) (_r : Req) : Ans :=
  let b := s.tb
  let v := (Config.freeValue s.freeCtr).toNat
  let par := b.parent.map fun p => (p.1, p.2.gmId.toNat)
  .reply 0 (le 1 (timeCode b.state) ++ le 1 ((par.map (·.1)).getD v) ++ le 1 (b.synceSel.getD 0xFF)
    ++ le 1 ((b.synceSel.map fun p => (tget b.ql p 0).toNat).getD (v / 256)) ++ leI 2 b.utcOffset ++ [0, 0] ++ leI 8 b.offset
    ++ be 8 ((par.map (·.2)).getD v))

/-- The fields of PTP_CONFIG with the defaults of R492. -/
def ptpOf (p : List Byte) : PtpCfg :=
  let dflt (v d : Nat) : Nat := if v = 0 then d else v
  { domain := rd p 0 1, profile := rd p 1 1, transport := dflt (rd p 2 1) 3, annTimeout := dflt (rd p 3 1) 3, syncLog := rdS p 4 1,
    annLog := rdS p 5 1, dreqLog := rdS p 6 1, slewPpm := dflt (rd p 7 1) 10, bwMhz := rd p 8 2,
    asym := (List.range 4).map fun i => rdS p (12 + 4 * i) 4 }

def outside (v lo hi : Int) : Bool := decide (v < lo) || decide (hi < v)

/-- PTP_CONFIG (R52, R379). -/
def chkPtpConfig (_s : State) (r : Req) : Ans :=
  let c := ptpOf r.p
  firstOf ([(decide (127 < c.domain), badAt 0), (decide (1 < c.profile), badAt 1), (decide (3 < c.transport), badAt 2),
      (outside c.annTimeout 2 10, badAt 3), (outside c.syncLog (-7) 0, badAt 4), (outside c.annLog (-3) 3, badAt 5),
      (outside c.dreqLog (-7) 0, badAt 6), (outside c.slewPpm 1 100, badAt 7), (c.bwMhz ≠ 0 && outside c.bwMhz 10 1000, badAt 8)]
    ++ (List.range 4).map fun i => (outside (c.asym.getD i 0) (-65536000) 65536000, badAt (12 + 4 * i))) (.stage .ok 0)

/-- A new slew limit governs a slew that runs (R72, R73). -/
def appPtpConfig (r : Req) (s : State) : State :=
  s.onTb fun b =>
    let b := { b with cfg := ptpOf r.p }
    { b with slewTerm := if 0 < b.slewTerm then slewLimit b else if b.slewTerm < 0 then -slewLimit b else 0 }

/-- TIME_SET (R74). -/
def chkTimeSet (s : State) (r : Req) : Ans :=
  firstOf [(decide (1000000000 ≤ rd r.p 0 4), badAt 0), (decide (2 ^ 48 ≤ rd r.p 8 8), badAt 8), (s.pwr.plane, .refuse .functionState 0)]
    (.stage .ok 0)

/-- The boundary at which it applies takes the time given, to a whole ref. -/
def appTimeSet (r : Req) (s : State) : State :=
  let t := (rd r.p 8 8 * 1000000000 + rd r.p 0 4) * 128 / 625
  let s := s.onTb fun b => { loseMaster b with leave := false, slewTerm := 0 }
  enterTime .holdover (stepTime t s)

/-- SYNCE_CONFIG (R61). -/
def chkSynceConfig (_s : State) (r : Req) : Ans :=
  firstOf [(decide (2 < rd r.p 0 1), badAt 0), (decide (3 < rd r.p 1 1), badAt 1)] (.stage .ok 0)

/-- The selection itself changes by the source change and loss events; with the mode off no source is selected. -/
def appSynceConfig (r : Req) (s : State) : State :=
  s.onTb fun b =>
    let b := { b with synceMode := rd r.p 0 1, syncePort := rd r.p 1 1, syncePrio := (List.range 4).map fun i => rd r.p (2 + i) 1 }
    if b.synceMode = 0 then { b with synceSel := none, syncePull := none } else b

/-- TS_CORRECTION (R60). -/
def chkTsCorrection (_s : State) (r : Req) : Ans :=
  firstOf [(decide (3 < rd r.p 0 1), badAt 0), (decide (1 < rd r.p 1 1), badAt 1)] (.stage .ok 0)

def appTsCorrection (r : Req) (s : State) : State := s.onTb fun b => { b with tsReport := tset b.tsReport (rd r.p 0 1) (rd r.p 1 1 == 0) }

/-- A setting of BEACON_SET, its start rounded to 1/16 ref. -/
def beaconOfBytes (p : List Byte) : BeaconSet :=
  { periodic := rd p 1 1 == 1, activeLow := rd p 2 1 == 1, start := (fuOf (rd p 12 8) (rd p 4 4) (rd p 8 2) + 10000) / 20000,
    period := rd p 20 8, width := rd p 28 8 }

/-- BEACON_SET (R75 to R77). -/
def chkBeaconSet (s : State) (r : Req) : Ans :=
  let c := beaconOfBytes r.p
  let per := rd r.p 1 1 == 1
  firstOf [(decide (15 < rd r.p 0 1), badAt 0), (decide (1 < rd r.p 1 1), badAt 1), (decide (1 < rd r.p 2 1), badAt 2),
      (decide (1000000000 ≤ rd r.p 4 4), badAt 4), (decide (2 ^ 48 ≤ rd r.p 12 8), badAt 12),
      (!per && decide (c.start ≤ (r.tick + 1) * tickRefs * 16), badAt 4),
      (per && (decide (c.period < 2048) || decide (2 ^ 44 < c.period)), badAt 20),
      (decide (c.width = 0) || (if per then decide (c.period < c.width + 16) else decide (2 ^ 36 < c.width)), badAt 28),
      (s.tb.state == .unset, .refuse .functionState 0)]
    (.stage .ok 0)

def appBeaconSet (r : Req) (s : State) : State :=
  s.onBeacon (rd r.p 0 1) fun b =>
    if b.inPulse then { b with next := some (beaconOfBytes r.p), stopping := false } else beaconLoad (some (beaconOfBytes r.p)) (s.tb.tick * tickRefs * 16) b

/-- BEACON_STOP (R77). -/
def chkBeaconStop (_s : State) (r : Req) : Ans := firstOf [(decide (15 < rd r.p 0 1), badAt 0)] (.stage .ok 0)

def appBeaconStop (r : Req) (s : State) : State :=
  s.onBeacon (rd r.p 0 1) fun b => if b.inPulse then { b with next := none, stopping := true } else beaconLoad none (s.now * 16) b

/-- EVENT_CONFIG (R78). -/
def chkEventConfig (_s : State) (r : Req) : Ans :=
  firstOf [(decide (15 < rd r.p 0 1), badAt 0), (decide (3 < rd r.p 1 1), badAt 1)] (.stage .ok 0)

def appEventConfig (r : Req) (s : State) : State := s.onTb fun b => { b with evtEdges := tset b.evtEdges (rd r.p 0 1) (rd r.p 1 1) }

end Sys2Proof.Machine
end

