-- ==== Sys2Proof/Machine/Network.lean ====
section
/-! DEFINITION. The network (R424 to R447): the ports, the switch with its learning table and the transparent clock, the hub's
addresses and the protocols it answers, ring protection, the collector roles, and the notices that go to them. -/
namespace Sys2Proof.Machine

/-! ### Ports (R424 to R426) -/

/-- A frame sent out of a known physical port. -/
def sendPort (p : Nat) (m : OutMsg) (s : State) : State := (s.send m).onNet p fun n => { n with txFrames := n.txFrames + 1 }

/-- Whether a port is out of service (R467). -/
def portOut (s : State) (p : Nat) : Bool := fnState s (fnPort p) != .running || (fnOf s (fnPort p)).held

def onRing (s : State) (f : RingSt → RingSt) : State := { s with net := { s.net with ring := f s.net.ring } }

/-- A ring control frame out of a ring port that passes them (R436, R440). -/
def sendRing (port type named : Nat) (seq : BitVec 32) (s : State) : State :=
  let p := netOf s port
  if p.link && !p.holding then sendPort port (.ring port type named seq) s else s

/-- FLUSH out of both ring ports (R438). -/
def sendFlush (s : State) : State :=
  let q := s.net.ring.flushSeq
  sendRing 1 3 1 q (sendRing 0 3 0 q (onRing s fun r => { r with flushSeq := q + 1 }))

def clearTable (s : State) : State := { s with net := { s.net with table := [] } }

/-- The ring's INFO notice (R441). -/
def ringInfo (st : Nat) (s : State) : State := post 0x34 3 0 st [] (onRing s fun r => { r with state := st })

/-- A LINK_DOWN naming `port` out of the other ring port (R439). -/
def sendLinkDown (port : Nat) (s : State) : State :=
  let q := s.net.ring.downSeq
  sendRing (1 - port) 2 port q (onRing s fun r => { r with downSeq := q + 1 })

/-- LOSS_OF_SIGNAL (R426, R439). -/
def execLossOfSignal (port : Fin 4) (t : Nat) (s : State) : Outc :=
  let p := port.val
  let s := (s.at_ t).onNet p fun n => { n with link := false, los := true }
  if s.net.ring.configured && decide (p < 2) && s.net.ring.role = 0 then
    done (sendLinkDown p (onRing (s.onNet p fun n => { n with blocked := true, holding := false }) fun r => { r with state := 3 }))
  else done s

/-- LINK_UP (R426, R440): a member's ring port that regains its link stays blocked and passes no ring control frames. -/
def execLinkUp (port : Fin 4) (t : Nat) (s : State) : Outc :=
  let p := port.val
  let s := s.at_ t
  if (netOf s p).mode = 0 then done s
  else
    let hold := s.net.ring.configured && decide (p < 2) && s.net.ring.role = 0 && (netOf s p).los
    let s := s.onNet p fun n => { n with link := true, los := false, upSince := t, holding := hold || n.holding }
    done (if hold then onRing s fun r => { r with state := 4 } else s)

/-! ### The switch (R425, R427 to R430) -/

/-- The fields of a frame: destination, source, VLAN tag with priority, Ethertype, and where its payload starts. -/
structure FrameHdr where
  dst    : BitVec 48
  src    : BitVec 48
  tagged : Bool
  pcp    : Nat
  vlan   : Nat
  type   : Nat
  ofs    : Nat
deriving DecidableEq, Repr

/-- The unsigned field of `n` bytes at `o`, most significant byte first. -/
def rdB (p : List Byte) (o n : Nat) : Nat := beNat ((p.drop o).take n)

def frameHdr (f : List Byte) : FrameHdr :=
  let tag := rdB f 12 2 == 0x8100
  let tci := if tag then rdB f 14 2 else 0
  { dst := BitVec.ofNat 48 (rdB f 0 6), src := BitVec.ofNat 48 (rdB f 6 6), tagged := tag, pcp := tci / 8192, vlan := tci % 4096,
    type := rdB f (if tag then 16 else 12) 2, ofs := if tag then 18 else 14 }

def groupBit (m : BitVec 48) : Bool := m.getLsbD 40

/-- A ring control frame (R436). -/
def ringCtl (s : State) (h : FrameHdr) : Bool :=
  s.net.ring.configured && h.dst == 0x034F59000001#48 && h.type == 0x88B5 && h.tagged && h.vlan == s.net.ring.vlan

/-- Frames that the switch drops (R425). -/
def frameBad (f : List Byte) (h : FrameHdr) (fcsOk : Bool) : Bool :=
  decide (f.length < 64) || decide (2048 < f.length) || !fcsOk || h.type == 0x8808

/-- Offset of the PTP message in an event message (R52, R56), and the UDP checksum's offset. -/
def ptpAt (f : List Byte) (h : FrameHdr) : Option (Nat × Option Nat) :=
  let isEv (o : Nat) : Bool := decide ((rdB f o 1) % 16 < 4)
  if h.type = 0x88F7 then if isEv h.ofs then some (h.ofs, none) else none
  else if h.type = 0x0800 && rdB f (h.ofs + 9) 1 == 17 then
    let u := h.ofs + rdB f h.ofs 1 % 16 * 4
    if rdB f (u + 2) 2 = 319 && isEv (u + 8) then some (u + 8, some (u + 6)) else none
  else none

/-- The residence time, from interface to interface, of a frame forwarded between physical ports (R56, R58): the difference of
two stamps of 48 bits with the corrections of R59, whatever the ports' report setting. -/
def residence (s : State) (ingress p : Nat) (x : FrameStamps) : Int :=
  let tx : Int := (cutStamp (x.tx.getD p 0) : Int) + txConst s p
  let rx : Int := (cutStamp x.rx : Int) + rxConst s ingress x.b
  sgn 48 (unsgn 48 (tx - rx))

/-- The residence time, from interface to interface, added to the correctionField, with the checks made anew (R56, R57). -/
def addResidence (f : List Byte) (h : FrameHdr) (res : Int) : List Byte :=
  match ptpAt f h with
  | none => f
  | some (o, ck) =>
    let c := unsgn 64 (sgn 64 (rdB f (o + 8) 8) + res)
    let f := splice f (o + 8) (be 8 c)
    let f := match ck with | some k => splice f k [0, 0] | none => f
    f.take (f.length - 4) ++ le 4 (crc32 (f.take (f.length - 4))).toNat

/-- The source learned (R428): refreshed, or entered while the table has room. -/
def learn (m : BitVec 48) (vlan port t : Nat) (s : State) : State :=
  let known (e : Learned) : Bool := e.mac == m && e.vlan == vlan
  let tb := s.net.table
  let tb := if tb.any known then tb.map fun e => if known e then { e with port := port, seen := t } else e
            else if tb.length < 4096 then tb ++ [{ mac := m, vlan := vlan, port := port, seen := t }] else tb
  { s with net := { s.net with table := tb } }

/-- Whether the own port takes a frame (R429). -/
def ownTakes (s : State) (h : FrameHdr) : Bool :=
  if s.net.own.vlan = 0 then h.vlan == 0 else h.tagged && h.vlan == s.net.own.vlan

/-- Whether a physical port forwards data frames (R428, R435). -/
def passes (s : State) (p : Nat) : Bool := (netOf s p).link && !(netOf s p).blocked && !portOut s p

/-- A frame out of a port of the switch; the own port is 4, and what it sends has no residence time. -/
def egress (f : List Byte) (h : FrameHdr) (ingress : Nat) (x : FrameStamps) (p : Nat) (s : State) : State :=
  if p = 4 then { s with net := { s.net with ownRx := s.net.ownRx ++ [f] } }
  else sendPort p (.frame p (if ingress = 4 then f else addResidence f h (residence s ingress p x))) s

/-- A frame enters the receive buffer of its port, 8 KiB deep (R33): none where it finds no room. What the fabric has taken
since the last frame is timing: a free value (log 138). -/
def rxEnter (p len : Nat) (s : State) : Option State :=
  let v := s.free
  let left := v.1.toNat % ((netOf s p).rxBuf + 1)
  if 8192 < left + len then none else some (v.2.onNet p fun n => { n with rxBuf := left + len })

/-- Whether a frame is a PTP message of any kind (R52). -/
def isPtp (f : List Byte) (h : FrameHdr) : Bool :=
  h.type == 0x88F7 || (h.type == 0x0800 && rdB f (h.ofs + 9) 1 == 17 &&
    (let u := h.ofs + rdB f h.ofs 1 % 16 * 4; rdB f (u + 2) 2 == 319 || rdB f (u + 2) 2 == 320))

/-- The egress ports of a data frame (R428): the known port, or all but the ingress. -/
def egressPorts (s : State) (ingress : Nat) (h : FrameHdr) : List Nat :=
  let known := s.net.table.find? fun e => e.mac == h.dst && e.vlan == h.vlan
  let all := ([0, 1, 2, 3].filter (passes s)) ++ (if ownTakes s h then [4] else [])
  let outs := if h.dst == s.net.own.mac && s.net.own.mac != 0 then all.filter (· == 4)
            else if groupBit h.dst then all
            else match known with | some e => all.filter (· == e.port) | none => all
  outs.filter (· != ingress)

/-- What the switch does with a frame that it has taken in (R425, R427 to R430, R437). -/
def switchFrame (ingress : Nat) (frame : List Byte) (fcsOk : Bool) (x : FrameStamps) (t : Nat) (s : State) : State :=
  let h := frameHdr frame
  if frameBad frame h fcsOk then (if ingress < 4 then s.onNet ingress fun n => { n with dropped := n.dropped + 1 } else s)
  else
    let s := if ingress < 4 && isPtp frame h then ptpSeen ingress x.b s else s
    if ringCtl s h then
      if 2 ≤ ingress || (netOf s ingress).holding then s
      else
        let s := egress frame h ingress x 4 s
        if rd frame (h.ofs + 4) 2 = hubNo s || !(netOf s (1 - ingress)).link || (netOf s (1 - ingress)).holding then s
        else egress frame h ingress x (1 - ingress) s
    else if ingress < 4 && (netOf s ingress).blocked then s
    else
      let s := if groupBit h.src then s else learn h.src h.vlan ingress t s
      forAll (egressPorts s ingress h) s fun s p => egress frame h ingress x p s

/-- SWITCH_FORWARD (R33, R425, R427 to R430, R437): ingress 4 is the own port. -/
def execSwitchForward (ingress : Nat) (frame : List Byte) (fcsOk : Bool) (x : FrameStamps) (t : Nat) (s : State) : Outc :=
  let s := s.at_ t
  if 4 < ingress || fnState s fnSwitch != .running || (fnOf s fnSwitch).held then done s
  else if ingress = 4 then done (switchFrame 4 frame fcsOk x t s)
  else if !(netOf s ingress).link || portOut s ingress then done s
  else match rxEnter ingress frame.length s with
    | none => done ({ s with freeCtr := s.freeCtr + 1 }.onNet ingress fun n => { n with rxDiscard := n.rxDiscard + 1 })
    | some s => done (switchFrame ingress frame fcsOk x t (s.onNet ingress fun n => { n with rxFrames := n.rxFrames + 1 }))

/-- LEARNING_AGE_OUT (R428). -/
def execLearningAgeOut (mac : BitVec 48) (vlan : Nat) (s : State) : Outc :=
  done { s with net := { s.net with table := s.net.table.filter fun e => !(e.mac == mac && e.vlan == vlan) } }

/-! ### Addresses and the protocols that firmware answers (R431 to R433) -/

/-- ARP_REQUEST_RECEIVED (R433). -/
def execArpRequestReceived (target sender : BitVec 32) (senderMac : BitVec 48) (t : Nat) (s : State) : Outc :=
  let s := s.at_ t
  let o := s.net.own
  if !lampServes s || o.ipv4 == 0 || target != o.ipv4 then done s
  else
    let rest := s.net.arp.filter fun e => e.1 != sender
    let s := if rest.length < 256 then { s with net := { s.net with arp := rest ++ [(sender, senderMac, t)] } } else s
    done (s.send (.arpReply sender senderMac))

/-- ARP_CACHE_EXPIRY (R433). -/
def execArpCacheExpiry (ip : BitVec 32) (s : State) : Outc :=
  done { s with net := { s.net with arp := s.net.arp.filter fun e => e.1 != ip } }

/-- NEIGHBOUR_SOLICITATION_RECEIVED (R433): for an address whose uniqueness has been shown. -/
def execNeighbourSolicitationReceived (target sender : BitVec 128) (t : Nat) (s : State) : Outc :=
  let s := s.at_ t
  if lampServes s && s.net.v6Usable && target == s.net.own.ipv6 && s.net.own.ipv6 != 0 then done (s.send (.neighbourAdv sender)) else done s

/-- DUPLICATE_ADDRESS_DETECTION (R433). -/
def execDuplicateAddressDetection (unique : Bool) (s : State) : Outc :=
  done { s with net := { s.net with v6Usable := unique && s.net.own.ipv6 != 0 } }

/-- ICMP_ECHO_RECEIVED (R433): at most 100 answers in a second. -/
def execIcmpEchoReceived (v6 : Bool) (src : BitVec 128) (echo : List Byte) (t : Nat) (s : State) : Outc :=
  let s := s.at_ t
  let sec := t / refsPerSec
  let cnt := if s.net.icmpSec = sec then s.net.icmpCnt else 0
  let ours := if v6 then s.net.v6Usable else s.net.own.ipv4 != 0
  if !lampServes s || !ours || decide (100 ≤ cnt) || !onLink s src then done s
  else done ({ s with net := { s.net with icmpSec := sec, icmpCnt := cnt + 1 } }.send (.echoReply v6 src echo))

/-! ### Ring protection (R435 to R441) -/

/-- RING_HEALTH_SEND (R438): the guard's HEALTH out of both ring ports. -/
def execRingHealthSend (t : Nat) (s : State) : Outc :=
  let s := s.at_ t
  let r := s.net.ring
  if !r.configured || r.role ≠ 1 || !lampServes s then done s
  else done (sendRing 1 1 1 r.healthSeq (sendRing 0 1 0 r.healthSeq (onRing s fun r => { r with healthSeq := r.healthSeq + 1, out := r.out + 1 })))

/-- The guard declares a break (R438). -/
def declareBreak (s : State) : State :=
  let s := s.onNet s.net.ring.blockedPort fun n => { n with blocked := false }
  ringInfo 2 (onRing (sendFlush (clearTable s)) fun r => { r with broken := true })

/-- RING_HEALTH_LOSS (R438): three consecutive HEALTH frames have not returned. -/
def execRingHealthLoss (s : State) : Outc :=
  let r := s.net.ring
  if r.configured && r.role = 1 && !r.broken && decide (3 ≤ r.out) && lampServes s then done (declareBreak s) else done s

/-- RING_HEALTH_RECEIVED (R438, R440, R441): the guard's own frame back on the opposite port, or another guard's. -/
def execRingHealthReceived (port : Fin 2) (f : RingFrame) (t : Nat) (s : State) : Outc :=
  let s := s.at_ t
  let r := s.net.ring
  if !r.configured || r.role ≠ 1 || (netOf s port.val).holding || !lampServes s then done s
  else if f.hub = hubNo s then
    if f.port = port.val then done s
    else
      let s := onRing s fun r => { r with out := 0 }
      if r.broken then
        let s := s.onNet r.blockedPort fun n => { n with blocked := true }
        done (ringInfo 1 (onRing (sendFlush (clearTable s)) fun r => { r with broken := false }))
      else done s
  else if f.hub < hubNo s then
    let s := s.onNet r.blockedPort fun n => { n with blocked := false }
    done (ringInfo 5 (onRing s fun r => { r with role := 0, broken := false, out := 0 }))
  else done s

/-- RING_LINK_DOWN_RECEIVED (R438). -/
def execRingLinkDownReceived (port : Fin 2) (f : RingFrame) (s : State) : Outc :=
  let r := s.net.ring
  if r.configured && r.role = 1 && !r.broken && !(netOf s port.val).holding && f.hub ≠ hubNo s && lampServes s then done (declareBreak s)
  else done s

/-- RING_LINK_DOWN_REPEAT (R439). -/
def execRingLinkDownRepeat (port : Fin 2) (s : State) : Outc :=
  if s.net.ring.configured && s.net.ring.role = 0 && (netOf s port.val).los then done (sendLinkDown port.val s) else done s

/-- Whether a ring port is held: its link is up and has stayed up, and it waits for the FLUSH (R440). -/
def heldPort (s : State) (p : Nat) : Bool := (netOf s p).blocked && (netOf s p).link && !(netOf s p).holding

/-- RING_FLUSH_RECEIVED (R439, R440): the table is cleared; a member unblocks its held ports. The other members see a break
and a restoration as FLUSH frames in turn. -/
def execRingFlushReceived (port : Fin 2) (f : RingFrame) (s : State) : Outc :=
  let r := s.net.ring
  if !r.configured || (netOf s port.val).holding || f.hub = hubNo s then done s
  else
    let s := clearTable s
    let again := r.lastFlush = some (f.hub, f.seq)
    let s := onRing s fun r => { r with lastFlush := some (f.hub, f.seq) }
    if r.role ≠ 0 then done s
    else
      let held := [0, 1].filter (heldPort s)
      let s := forAll held s fun s p => s.onNet p fun n => { n with blocked := false }
      if !held.isEmpty then done (if [0, 1].any fun p => (netOf s p).blocked then s else ringInfo 1 s)
      else if again || r.state = 3 || r.state = 4 then done s
      else done (onRing s fun r => { r with state := if r.state = 2 then 1 else 2 })

/-- RING_PORT_RESTORE_TIMER (R440): the link has stayed up for 1 000 ms; the port passes ring control frames again. -/
def execRingPortRestoreTimer (port : Fin 2) (s : State) : Outc :=
  if (netOf s port.val).link then done (s.onNet port.val fun n => { n with holding := false }) else done s

/-! ### Commands (R383) -/

/-- NET_PORT_CONFIG (R424). -/
def chkNetPortConfig (_s : State) (r : Req) : Ans := firstOf [(decide (3 < rd r.p 0 1), badAt 0), (decide (2 < rd r.p 1 1), badAt 1)] (.stage .ok 0)

def appNetPortConfig (r : Req) (s : State) : State :=
  s.onNet (rd r.p 0 1) fun n => if n.mode = rd r.p 1 1 then n else { n with mode := rd r.p 1 1, link := false }

def netCfgOf (p : List Byte) : NetCfg :=
  { mac := BitVec.ofNat 48 (rdB p 0 6), vlan := rd p 6 2, ipv4 := BitVec.ofNat 32 (rdB p 8 4), prefix4 := rd p 12 1, prefix6 := rd p 13 1,
    ipv6 := BitVec.ofNat 128 (rdB p 16 16) }

/-- NET_ADDR (R431). -/
def chkNetAddr (_s : State) (r : Req) : Ans :=
  let c := netCfgOf r.p
  firstOf [(groupBit c.mac, badAt 0), (decide (4094 < c.vlan), badAt 6), (decide (32 < c.prefix4), badAt 12), (decide (128 < c.prefix6), badAt 13),
    (bits c.ipv6.toNat 127 120 == 0xFF, badAt 16)] (.stage .ok 0)

def appNetAddr (r : Req) (s : State) : State :=
  let c := netCfgOf r.p
  { s with net := { s.net with own := c, v6Usable := s.net.v6Usable && c.ipv6 == s.net.own.ipv6 } }

/-- RING_CONFIG (R435). -/
def chkRingConfig (_s : State) (r : Req) : Ans :=
  firstOf [(decide (1 < rd r.p 0 1), badAt 0), (decide (1 < rd r.p 1 1), badAt 1), (decide (4094 < rd r.p 2 2), badAt 2)] (.stage .ok 0)

/-- The ring taken into use: the guard blocks its port; a port without signal stays blocked. -/
def setRing (role blk vlan : Nat) (s : State) : State :=
  let s := forAll [0, 1] s fun s p => s.onNet p fun n => { n with blocked := (role == 1 && p == blk) || (role == 0 && n.los), holding := false }
  onRing s fun r => { r with configured := true, role := role, blockedPort := blk, vlan := vlan, out := 0, broken := false,
                             state := if role = 0 && ((netOf s 0).los || (netOf s 1).los) then 3 else 1 }

def appRingConfig (r : Req) (s : State) : State := setRing (rd r.p 0 1) (rd r.p 1 1) (rd r.p 2 2) s

/-- COLLECTOR_SET (R432, R442). -/
def chkCollectorSet (s : State) (r : Req) : Ans :=
  let a := BitVec.ofNat 128 (rdB r.p 4 16)
  firstOf [(decide (1 < rd r.p 0 1), badAt 0), (decide (7 < rd r.p 1 1), badAt 1), (a != 0 && !onLink s a, badAt 4)] (.stage .ok 0)

def appCollectorSet (r : Req) (s : State) : State :=
  s.onColl (rd r.p 0 1) fun c => { c with cfg := { keyId := rd r.p 1 1, udpPort := rd r.p 2 2, addr := BitVec.ofNat 128 (rdB r.p 4 16) } }

/-- NET_STATUS (R425). -/
def chkNetStatus (s : State) (r : Req) : Ans :=
  let n := netOf s (rd r.p 0 1)
  firstOf [(decide (3 < rd r.p 0 1), badAt 0)]
    (.reply 0 (le 1 (b2n n.link) ++ le 1 s.net.ring.state ++ [0, 0] ++ le 8 n.rxFrames.toNat ++ le 8 n.txFrames.toNat
      ++ le 4 (n.rxDiscard + n.discard + n.dropped).toNat ++ le 4 n.authFail.toNat))

/-! ### The encapsulation on arrival (R443, R444) -/

/-- A datagram at port 47 600 checked in the order of R444: its role where it is accepted, and what is left behind. -/
def encapCheck (d : Dgram) (s : State) : Option Nat × State :=
  let b := d.body
  let p := d.port.val
  let len := rd b 6 2
  let key := rd b 2 1
  let role := rd b 3 1
  let c := collOf s role
  let reject (why : Nat) (s : State) : State :=
    let t := takeCounter role (discardAt p s)
    sendUdp d.src d.srcPort 5 (encap s 0x34 role t.1 (le 1 why ++ zeros 7 ++ le 8 c.rxCnt)) t.2
  if b.length ≠ 40 + len || 7 < key || hmacTag (keyOf s key) (b.take (24 + len)) != b.drop (24 + len) then (none, authFailAt p s)
  else if 1 < role || rd b 1 1 ≠ 4 || key ≠ c.cfg.keyId then (none, discardAt p s)
  else if c.cfg.addr != 0 && d.src != c.cfg.addr then (none, discardAt p s)
  else if rd b 4 2 ≠ hubNo s then (none, discardAt p s)
  else if rd b 8 4 ≠ s.pwr.bootCount.toNat then (none, reject 1 s)
  else if rd b 16 8 ≤ c.rxCnt then (none, reject 2 s)
  else (some role, s.onColl role fun c => { c with rxCnt := rd b 16 8, lastSrc := d.src, lastPrt := d.srcPort })

/-- The body of an encapsulated datagram. -/
def encapBody (d : Dgram) : List Byte := (d.body.drop 24).take (rd d.body 6 2)

/-! ### Notices to the collectors (R387, R446) -/

/-- A NOTICE datagram of up to eight notices in read order, if none is outstanding and the role has an address. -/
def sendNotices (role : Nat) (s : State) : State :=
  let q := ntqOf s (role + 2)
  let items := if q.hidden then [] else readOrder 8 q.chain
  match collDest s role with
  | none => s
  | some (a, port) =>
    if items.isEmpty || (collOf s role).outst.isSome then s
    else
      let c := takeCounter role s
      let bytes := encap s 0x32 role c.1 (items.map noticeBytes).flatten
      let s := c.2.onColl role fun c' => { c' with outst := some { counter := c.1, bytes := bytes, items := items, sent := s.now } }
      let s := forAll items s fun s n => if n.seen then s else monValue s 0x5 (role + 2) ((s.now - n.at_ : Nat))
      s.send (.udp a port 5 bytes)

/-- NOTICE_DATAGRAM_SEND (R446). -/
def execNoticeDatagramSend (role : Fin 2) (t : Nat) (s : State) : Outc :=
  let s := s.at_ t
  if lampServes s then done (sendNotices role.val s) else done s

/-- NOTICE_RESEND_TIMEOUT (R446): unchanged, every 20 ms. -/
def execNoticeResendTimeout (role : Fin 2) (t : Nat) (s : State) : Outc :=
  let s := s.at_ t
  match (collOf s role.val).outst, collDest s role.val with
  | some o, some (a, port) =>
    if lampServes s && decide (o.sent + 4096000 ≤ t) then
      done ((s.onColl role.val fun c => { c with outst := some { o with sent := t } }).send (.udp a port 5 o.bytes))
    else done s
  | _, _ => done s

/-- The same notice, whether or not it has been presented since. -/
def sameNotice (a b : Notice) : Bool := { a with seen := true } == { b with seen := true }

/-- The notices of an acknowledged datagram leave their queue (R387). -/
def popItems (items : List Notice) (x : Ntq) : Ntq :=
  items.foldl (fun x n => if x.chain.any (sameNotice n) then { x with chain := x.chain.eraseP (sameNotice n), popped := x.popped + 1 } else x) x

/-- NOTICE_ACK_DATAGRAM (R444, R446). -/
def execNoticeAckDatagram (d : Dgram) (s : State) : Outc :=
  if !lampServes s then done s
  else
    let r := encapCheck d s
    match r.1 with
    | none => done r.2
    | some role =>
      match (collOf r.2 role).outst with
      | some o =>
        if rd d.body 0 1 = 0x33 && rd (encapBody d) 0 8 = o.counter then
          done ((r.2.onNtq (role + 2) (popItems o.items)).onColl role fun c => { c with outst := none })
        else done r.2
      | none => done r.2

end Sys2Proof.Machine
end

