-- ==== Sys2Proof/Machine/Power.lean ====
section
/-! DEFINITION. Power-up, the boot code and firmware start (R448 to R459), the power-fail warning (R450 to R452), the PCI
Express reset (R484), and firmware images with their live update (R458, R469, R470). -/
namespace Sys2Proof.Machine

/-! ### Power-on reset (R449, R452, R457) -/

/-- The hub as a rise of PORN leaves it: what flash and fuses hold stays, the commands that wait stay, and the log of what
the hub has sent stays. -/
def powerOn (porn : Bool) (s : State) : State :=
  { State.reset with
    pending := s.pending, freeCtr := s.freeCtr, sent := s.sent,
    pwr := { State.reset.pwr with porn := porn, flash := s.pwr.flash, fuses := s.pwr.fuses, fwState := s.pwr.fwState.filter fun e => e.2 != 3 } }

/-- PORN_RISE (R449). -/
def execPornRise (s : State) : Outc := if s.pwr.porn then done s else done (powerOn true s)

/-- PORN_FALL (R457): everything but flash and fuses is lost; `prog` is what an external programmer writes to the flash. -/
def execPornFall (prog : List (Nat × Byte)) (s : State) : Outc :=
  done (prog.foldl (fun s w => flashWrite w.1 [w.2] s) (powerOn false s))

/-- INTERNAL_POWER_ON_RESET (R452). -/
def execInternalPowerOnReset (s : State) : Outc := if s.pwr.pwrWait.isSome && s.pwr.porn then done (powerOn true s) else done s

/-- MEM_FILL_COMPLETE (R250): record memory and Lamplighter memory are zero. -/
def execMemFillComplete (s : State) : Outc :=
  if s.pwr.memReady || !s.pwr.porn then done s
  else done ((s.onRm fun m => { m with mem := [], poison := {}, llPoison := {} }).onPwr fun p => { p with memReady := true })

/-! ### The boot block (R453 to R456) -/

/-- Whether 4 096 bytes are a valid boot block under the fuses' owner key hash (R456). -/
def bootValid (f : Fuses) (b : List Byte) : Bool :=
  let pub := (b.drop 3968).take 64
  rd b 0 2 == 0xB0B1 && rd b 2 1 == 4 && rd b 8 4 == 4096 && rd b 12 2 != 0 && beNat (sha256 pub) == f.ownerHash.toNat
    && ecdsaOk pub ((b.drop 4032).take 64) (b.take 4032)

/-- A protection entry (R455). -/
def protOfBytes (b : List Byte) : Prot :=
  { classes := BitVec.ofNat 8 (rd b 0 1), windows := (List.range (min (rd b 1 1) 8)).map fun i => (rd b (4 + 8 * i) 4, rd b (8 + 8 * i) 4),
    frs := BitVec.ofNat 1024 (leNat ((b.drop 68).take 128)) }

def bootOfBytes (b : List Byte) : BootBlk :=
  { prefSlot := rd b 3 1, seq := BitVec.ofNat 32 (rd b 4 4), station := rd b 12 2, hubIndex := rd b 14 1, fwOfs := (rd b 16 4, rd b 20 4),
    fwMax := rd b 24 4, calOfs := rd b 28 4, recOfs := rd b 32 4, minFw := rd b 36 4, memPlan := (List.range 5).map fun i => rd b (40 + 4 * i) 4,
    net := netCfgOf ((b.drop 64).take 32), ringVlan := rd b 96 2, ringRole := rd b 98 1, ringBlk := rd b 99 1,
    coll := (List.range 2).map fun i => { keyId := rd b (100 + 20 * i) 1, udpPort := rd b (102 + 20 * i) 2, addr := BitVec.ofNat 128 (rdB b (104 + 20 * i) 16) },
    keys := (List.range 8).map fun i => (b.drop (256 + 32 * i)).take 32,
    prot := (List.range 10).map fun e => protOfBytes ((b.drop (512 + 196 * e)).take 196) }

/-- The valid copy with the greater `BLOCK_SEQ` (R456). -/
def chooseBoot (s : State) : Option BootBlk :=
  let a := flashRead s 0 4096
  let b := flashRead s 0x10000 4096
  match bootValid s.pwr.fuses a, bootValid s.pwr.fuses b with
  | true, true => some (bootOfBytes (if rd a 4 4 < rd b 4 4 then b else a))
  | true, false => some (bootOfBytes a)
  | false, true => some (bootOfBytes b)
  | false, false => none

/-! ### Firmware images and boot records (R458, R459) -/

/-- Flash offset of a firmware slot, its size limit, and the lowest version accepted. -/
def fwBase (s : State) (slot : Nat) : Nat := match s.pwr.boot with | some b => if slot = 0 then b.fwOfs.1 else b.fwOfs.2 | none => 0
def fwMaxOf (s : State) : Nat := (s.pwr.boot.map (·.fwMax)).getD 0

/-- The header of a slot's image. -/
def fwHeader (s : State) (slot : Nat) : List Byte := flashRead s (fwBase s slot) 64

/-- Whether a slot holds a valid image (R458). -/
def imageOk (s : State) (slot : Nat) : Bool :=
  let h := fwHeader s slot
  let n := rd h 8 4
  rd h 0 2 == 0xF1F1 && rd h 2 2 == 4 && decide ((s.pwr.boot.map (·.minFw)).getD 0 ≤ rd h 4 4) && decide (128 + n ≤ fwMaxOf s)
    && ecdsaOk Config.firmwareKey (flashRead s (fwBase s slot + 64 + n) 64) (flashRead s (fwBase s slot) (64 + n))

def recSector (s : State) (k : Nat) : Nat := (s.pwr.boot.map (·.recOfs)).getD 0 + 65536 * k

/-- The valid boot records of a sector, with their places. -/
def bootRecs (s : State) (k : Nat) : List (Nat × List Byte) :=
  ((List.range 4096).map fun i => (i, flashRead s (recSector s k + 16 * i) 16)).filter fun r =>
    rd r.2 0 2 == 0xB0C0 && rd r.2 12 4 == (crc32 (r.2.take 12)).toNat

/-- The record with the greatest `BOOT_COUNT`, the later one among equals. -/
def newestRec (rs : List (Nat × List Byte)) : Option (Nat × List Byte) :=
  rs.foldl (fun best r => match best with | none => some r | some b => if rd b.2 4 4 ≤ rd r.2 4 4 then some r else some b) none

def recCount (s : State) : Nat := ((bootRecs s 0 ++ bootRecs s 1).map fun r => rd r.2 4 4).foldl max 0

/-- The slot of the newest record with the proven bit (R459). -/
def provenSlot (s : State) : Option Nat :=
  (newestRec ((bootRecs s 0 ++ bootRecs s 1).filter fun r => bit (rd r.2 3 1) 0)).map fun r => rd r.2 2 1

/-- BOOT_RECORD_WRITE (R459): appended to the current sector; when that is full, the other one is erased and taken. -/
def writeBootRec (slot : Nat) (proven : Bool) (s : State) : State :=
  let h := le 2 0xB0C0 ++ le 1 slot ++ le 1 (b2n proven) ++ le 4 s.pwr.bootCount.toNat ++ le 4 (rd (fwHeader s slot) 4 4)
  let r := h ++ le 4 (crc32 h).toNat
  let k := s.pwr.bootRecSector
  let s := s.onIo fun i => { i with qPrograms := i.qPrograms + 1 }
  match (List.range 4096).find? fun i => (flashRead s (recSector s k + 16 * i) 16).all (· == 0xFF) with
  | some i => flashWrite (recSector s k + 16 * i) r s
  | none =>
    let s := (s.onPwr fun p => { p with flash := memErase 0xFF p.flash (recSector s (1 - k)) 65536, bootRecSector := 1 - k }).onIo
      fun i => { i with qErases := i.qErases + 1 }
    flashWrite (recSector s (1 - k)) r s

/-- The sector that the newest record is in. -/
def recCurrent (s : State) : Nat :=
  match newestRec (bootRecs s 0), newestRec (bootRecs s 1) with
  | some a, some b => if rd a.2 4 4 < rd b.2 4 4 then 1 else 0
  | none, some _ => 1
  | _, none => 0

/-- The boot block's configuration taken into use (R244, R431, R435, R442, R449). -/
def useBoot (b : BootBlk) (s : State) : State :=
  let s := s.onPwr fun p => { p with boot := some b, hub := BitVec.ofNat 16 (b.station * 2 + b.hubIndex),
                                     prot := (List.range 10).map fun e => (e, b.prot.getD e {}) }
  let s := { s with net := { s.net with own := b.net, coll := [(0, { cfg := b.coll.getD 0 {} }), (1, { cfg := b.coll.getD 1 {} })] } }
  -- a plan that breaks R243 is none (R244)
  let s := (s.onRm fun m => { m with plan := if planOk b.memPlan then b.memPlan else [0, 0, 0, 0, 0] }).onWick fun k => { k with station := b.station }
  if b.ringVlan = 0 then s else setRing b.ringRole b.ringBlk b.ringVlan s

/-- The firmware chosen, and its boot record (R459). -/
def startFirmware (s : State) : State :=
  let s := s.onPwr fun p => { p with bootRecSector := recCurrent s, bootCount := BitVec.ofNat 32 (recCount s + 1) }
  let first := (provenSlot s).getD ((s.pwr.boot.map (·.prefSlot)).getD 0 % 2)
  let pick := if imageOk s first then some first else if imageOk s (1 - first) then some (1 - first) else none
  match pick with
  | none => s
  | some k =>
    let other := if rd (fwHeader s (1 - k)) 0 2 = 0xF1F1 then 1 else 0
    let s := s.onPwr fun p => { p with handed := true, fwRun := some k, fwState := tset (tset p.fwState k 3) (1 - k) (if tget p.fwState (1 - k) 0 = 2 then 2 else other) }
    writeBootRec k (provenSlot s == some k) s

/-- BOOT_CODE_RUN (R449, R454 to R459): Lamplighter A, or B if A fails its self-test. -/
def execBootCodeRun (aFails bFails : Bool) (s : State) : Outc :=
  if s.pwr.protLocked || !s.pwr.porn || !s.pwr.memReady then done s
  else
    let fail (l : Nat) (s : State) : State :=
      (s.onPwr fun p => { p with llFenced := tset p.llFenced l true }).onFn (fnLl l) fun f => { f with state := .fault }
    let s := if aFails then fail 0 s else s
    if aFails && bFails then done (fail 1 s)
    else
      let l := if aFails then 1 else 0
      let s := s.onPwr fun p => { p with llActive := l, llUp := tset p.llUp l true, protLocked := true }
      match chooseBoot s with
      | none => done (s.onPwr fun p => { p with prot := [] })
      | some b => done (startFirmware (useBoot b s))

/-- FIRMWARE_START (R348, R449). -/
def execFirmwareStart (s : State) : Outc :=
  if !s.pwr.handed || s.pwr.fwUp then done s
  else done (loadStore (s.onPwr fun p => { p with fwLevel := 4, fwUp := true }))

/-! ### The power-fail warning (R21, R450 to R452) -/

/-- Every word in M of a stream becomes F with cause `POWER`. -/
def powerLoss (st : Stream) : Stream :=
  let mark (b : Block) : Block := { b with body := b.body.map fun w => if w.st = .inM then { w := badWord, st := .inF } else w }
  let n := st.cnt.m
  let st := { st with asm := st.asm.map mark, blocks := st.blocks.map mark }
  (st.book fun c => { c with m := 0 }).bookF 6 n.toNat

/-- The stored bytes of a block whose words are F now and that no destination has been sent (R20): its body is formed and
coded anew. A block that was sent keeps its bytes, which R14 repeats (log 132). -/
def restoreBlock (i : Nat) (b : Block) (s : State) : State :=
  let st := strOf s i
  if !b.coded || b.dst.any (fun e => e.2.sent.isSome) then s
  else
    let words := bodyWords st.cfg b
    let lay := bodyLayout st.cfg
    let cb := codeBody lay.1 lay.2 words
    let raw := wordsBytes words
    let asRaw := !st.cfg.compressed || cb.2 || decide (b.creds.length * 1024 < 64 + cb.1.length)
    let body := if asRaw then (if st.cfg.compressed then rawMarker raw.length else []) ++ raw else cb.1
    let bytes := blockHeader s i b asRaw body.length ++ body
    if b.creds.length * 1024 < bytes.length then dropBlock i (some (6, true)) b (sendGone i b s)
    else (blockStore st b.creds 0 bytes s).onStr i fun st => { st with blocks := st.blocks.map fun x => if x == b then { b with bytes } else x }

/-- A stream at the power-fail warning: its M is booked F, and what is still to be sent carries it so. -/
def powerStream (s : State) (i : Nat) : State :=
  let s := s.onStr i powerLoss
  forAll (strOf s i).blocks s fun s b => restoreBlock i b s

/-- The final ledger: 64 entries (R389). -/
def powerPayload (s : State) : List Byte :=
  zeros 16 ++ ((List.range 64).map fun i => le 1 i ++ [0] ++ le 6 (strOf s i).cnt.p.toNat ++ le 4 (strOf s i).cnt.f.toNat).flatten

/-- Notices in groups of up to eight. -/
def groups8 : Nat → List Notice → List (List Notice)
  | 0, _ => []
  | n + 1, xs => if xs.isEmpty then [] else xs.take 8 :: groups8 n (xs.drop 8)

/-- The notices of a packet sent to a collector at once (R446). -/
def sendNow (role : Nat) (ns : List Notice) (s : State) : State :=
  match collDest s role with
  | none => s
  | some (a, port) => forAll (groups8 8 ns) s fun s g =>
      let c := takeCounter role s
      c.2.send (.udp a port 5 (encap s 0x32 role c.1 (g.map noticeBytes).flatten))

/-- PWRFAILN_ASSERT (R451): latched; the active Lamplighter books and reports. -/
def execPwrfailnAssert (t : Nat) (s : State) : Outc :=
  let s := (s.at_ t).onPwr fun p => { p with pwrfail := true, pwrWait := none }
  if !s.pwr.fwUp then done s
  else
    let s := forN 64 s powerStream
    let pay := powerPayload s
    let pkts := (List.range 2).map fun r => mkPacket (ntqOf s (r + 2)).packet s.tb.tick s.now 0x02 0 0 64 pay
    let s := post 0x02 0 0 64 pay s
    done (sendNow 1 (pkts.getD 1 []) (sendNow 0 (pkts.getD 0 []) s))

/-- PWRFAILN_RELEASE (R452): 10 ms later the hub performs its own power-on reset. -/
def execPwrfailnRelease (t : Nat) (s : State) : Outc :=
  let s := s.at_ t
  if s.pwr.pwrfail then done (s.onPwr fun p => { p with pwrWait := some (t + 2048000) }) else done s

/-! ### The PCI Express endpoint (R484) -/

/-- PERSTN_ASSERT: the endpoint in reset; the rest of the hub is not affected. -/
def execPerstnAssert (s : State) : Outc :=
  done ((s.onPwr fun p => { p with perstLow := true }).onIo fun i => { i with pLinkUp := false, pGen := 0, pWidth := 0 })

/-- PERSTN_DEASSERT: the link trains to a generation of at most 3 and a width of 4, 2 or 1. -/
def execPerstnDeassert (gen width : Nat) (s : State) : Outc :=
  if 1 ≤ gen && decide (gen ≤ 3) && (width == 4 || width == 2 || width == 1) then
    done ((s.onPwr fun p => { p with perstLow := false }).onIo fun i => { i with pLinkUp := true, pGen := gen, pWidth := width })
  else done (s.onPwr fun p => { p with perstLow := false })

/-! ### Firmware commands (R383, R458, R469, R470) -/

def fwStateOf (s : State) (slot : Nat) : Nat := tget s.pwr.fwState slot 0

/-- FW_INFO. -/
def chkFwInfo (s : State) (_r : Req) : Ans :=
  .reply 0 ((List.range 2).map fun k =>
    let h := fwHeader s k
    let st := fwStateOf s k
    le 1 st ++ [0] ++ (if st = 0 then zeros 10 else le 2 (rd h 2 2) ++ le 4 (rd h 4 4) ++ le 4 (rd h 8 4))).flatten

/-- A slot that runs, or that a fence on probation returns to (R469). -/
def slotHeld (s : State) (slot : Nat) : Bool :=
  s.pwr.fwRun == some slot || (match s.pwr.fwUpdate with | some u => u.probation && u.prev == slot | none => false)

/-- FW_WRITE. -/
def chkFwWrite (s : State) (r : Req) : Ans :=
  let n := rd r.p 2 2
  firstOf [(decide (1 < rd r.p 0 1), badAt 0), (decide (n = 0) || decide (232 < n), badAt 2), (decide (r.p.length ≠ 8 + n), .refuse .badArgument 4),
    (decide (fwMaxOf s < rd r.p 4 4 + n), badAt 4), (slotHeld s (rd r.p 0 1), .refuse .functionState 0)] (.stage .ok 0)

def appFwWrite (r : Req) (s : State) : State :=
  let k := rd r.p 0 1
  let a := fwBase s k + rd r.p 4 4
  let n := rd r.p 2 2
  if s.pwr.pwrfail then s
  else
    let s := s.onIo fun i => { i with qPrograms := i.qPrograms + BitVec.ofNat 32 ((a + n - 1) / 256 - a / 256 + 1) }
    (flashWrite a (r.p.drop 8) s).onPwr fun p => { p with fwState := tset p.fwState k 1 }

/-- FW_VERIFY. -/
def chkFwVerify (_s : State) (r : Req) : Ans := firstOf [(decide (1 < rd r.p 0 1), badAt 0)] (.stage .accepted 0)

def appFwVerify (o : Owed) (r : Req) (s : State) : State := s.onPwr fun p => { p with fwVerify := p.fwVerify ++ [(rd r.p 0 1, o)] }

/-- FW_VERIFY_COMPLETE (R458): the first verification of the slot ends. -/
def execFwVerifyComplete (slot : Fin 2) (s : State) : Outc :=
  match s.pwr.fwVerify.find? fun v => v.1 == slot.val with
  | none => done s
  | some v =>
    let ok := imageOk s slot.val
    let s := s.onPwr fun p => { p with fwVerify := p.fwVerify.erase v,
                                       fwState := if ok && tget p.fwState slot.val 0 != 3 then tset p.fwState slot.val 2 else p.fwState }
    done (complete v.2 (if ok then .ok else .signature) 0 s.tb.tick s)

/-- FW_ACTIVATE (R469). -/
def chkFwActivate (s : State) (r : Req) : Ans :=
  firstOf [(decide (1 < rd r.p 0 1), badAt 0), (s.pwr.fwUpdate.isSome, .refuse .busy 0),
    (fwStateOf s (rd r.p 0 1) != 2, .refuse .functionState 0)] (.stage .accepted 0)

def appFwActivate (o : Owed) (r : Req) (s : State) : State :=
  let k := rd r.p 0 1
  let run := s.pwr.fwRun.getD 0
  if rd (fwHeader s k) 12 4 ≠ rd (fwHeader s run) 12 4 then complete o .mismatch 0 s.tb.tick s
  else s.onPwr fun p => { p with fwUpdate := some { slot := k, prev := run, owed := o } }

/-- The cold Lamplighter takes over cold from the active one (R469, R467). -/
def swapLamps (s : State) : State :=
  let a := s.pwr.llActive
  let s := (s.onFn (fnLl a) fun f => { f with standIn := fnLl (1 - a) }).onFn (fnLl (1 - a)) fun f => { f with standIn := 0xFFFF }
  let s := s.onPwr fun p => { p with llActive := 1 - a, llUp := tset (tset p.llUp a false) (1 - a) true }
  handOver (fnLl a) (fnLl (1 - a)) false [] s

/-- FW_HANDOVER (R469): at the boundary after the load; `pass` is the outcome of its verification and self-test. -/
def execFwHandover (pass : Bool) (s : State) : Outc :=
  match s.pwr.fwUpdate with
  | none => done s
  | some u =>
    if u.probation || !s.pwr.fwUp || s.pwr.llTakeover then done s
    else if !pass || !lampReady s (1 - s.pwr.llActive) then
      done (complete u.owed .mismatch 0 s.tb.tick (s.onPwr fun p => { p with fwUpdate := none }))
    else
      let s := swapLamps s
      done (s.onPwr fun p => { p with fwRun := some u.slot, fwState := tset (tset p.fwState u.prev 2) u.slot 3,
                                      fwUpdate := some { u with probation := true, since := s.tb.tick } })

/-- FW_PROBATION_PASS (R459, R469): 11 719 ticks after the hand-over. -/
def execFwProbationPass (s : State) : Outc :=
  match s.pwr.fwUpdate with
  | none => done s
  | some u =>
    if !u.probation || decide (s.tb.tick < u.since + 11719) then done s
    else
      let s := if s.pwr.pwrfail then s else writeBootRec u.slot true s
      done (complete u.owed .ok 0 s.tb.tick (s.onPwr fun p => { p with fwUpdate := none }))

end Sys2Proof.Machine
end

