-- ==== Sys2Proof/Machine/Functions.lean ====
section
/-! DEFINITION. Functions: their states (R461 to R465), renewal (R466, R467), FRS writes (R409 to R411), stand-ins
(R471), the legacy substitution (R354, R382), and the start and stop of the data plane (R382, R460). -/
namespace Sys2Proof.Machine

/-! ### What a function carries (R408, R463) -/

/-- The slots of which a lane does work. -/
def laneSlots (s : State) (l : Nat) : List Nat := (List.range 544).filter fun n => (lanesOf s n).contains l

/-- The enabled streams that carry slots of a lane, with the indices on both sides of the tick boundary at which lane 48
takes the lane's entries (R29, R137): it makes the outputs whose last CIC period ends after the boundary. -/
def laneEntries (s : State) (l : Nat) : List (Nat × Nat × Nat) :=
  let first (n : Nat) : Nat := max 1 (applyT s / rateRefs (if isWb n then 15 else (chanOf s n).rate) + 1 - slotHalf s n)
  ((s.str.s.filter (·.2.enabled)).map fun e => ((e.2.cfg.slots.filter (laneSlots s l).contains).map fun n => (e.1, first n - 1, first n))).flatten.eraseDups

/-- The channel slots that a function carries. -/
def slotsOfFn (s : State) (id : Nat) : List Nat :=
  if id < 512 || (decide (528 ≤ id) && decide (id < 608)) then [id]
  else if id < 528 then (match (bankSt s (id - 512)).deliver with | some (k, _) => [32 * (id - 512) + k] | none => [])
  else if decide (0x260 ≤ id) && decide (id < 0x270) then (List.range 32).map (32 * (id - 0x260) + ·) ++ [528 + (id - 0x260)]
  else if decide (0x270 ≤ id) && decide (id < 0x274) then
    (List.range 128).map (128 * (id - 0x270) + ·) ++ (List.range 4).map (528 + 4 * (id - 0x270) + ·) ++ (List.range 16).map (544 + 16 * (id - 0x270) + ·)
  else if decide (0x274 ≤ id) && decide (id < 0x278) then (List.range 16).map (544 + 16 * (id - 0x274) + ·)
  else if decide (0x280 ≤ id) && decide (id < 0x2B0) then
    if s.chd.laneOut = some (id - 0x280) then [] else laneSlots s (id - 0x280)
  else if id = 0x2B0 then (match s.chd.laneOut with | some l => laneSlots s l | none => [])
  else if id = fnChandler then List.range 544
  else []

/-- A loop in service at a tick, counting its staged mode (R493), whose inputs include a slot. -/
def loopUses (s : State) (tick : Nat) (modes : List LoopMode) (n : Nat) : Bool :=
  s.wick.loop.any fun e => e.2.defd && !modes.contains (modeAt e.2 tick) && (e.2.cfg.fb == n || e.2.cfg.vbus == n || e.2.cfg.acc == n)

/-- Whether a slot's words are in use: by an enabled stream, as a record slot of an armed group, or by a loop. -/
def slotInUse (s : State) (n : Nat) : Bool :=
  streamCarries s n || s.trg.grp.any (fun e => e.2.armed && e.2.cfg.slots.any fun r => r.slot == n) || loopUses s s.tb.tick [.off] n

/-- Whether a loop is not `OFF` at a tick, counting its staged mode (R493). -/
def anyLoop (s : State) (tick : Nat) : Bool := s.wick.loop.any fun e => e.2.defd && decide (modeAt e.2 tick ≠ .off)

/-- Whether a function carries work that a disable must hand on first (R463). -/
def carriesWork (s : State) (id : Nat) : Bool :=
  if id = fnLin then s.str.s.any fun e => e.2.enabled && e.2.cfg.skind == 1
  else if id = fnRed then s.str.s.any fun e => e.2.enabled && decide (1 ≤ e.2.cfg.kind) && decide (e.2.cfg.kind ≤ 5)
  else if id = fnWick 0 || id = fnWick 1 then s.wick.active == some (id - fnWick 0) && anyLoop s s.tb.tick
  else if id = fnLl 0 || id = fnLl 1 then s.pwr.fwUp && s.pwr.llActive == id - fnLl 0
  else if decide (0x300 ≤ id) && decide (id ≤ 0x31F) then s.str.s.any (·.2.enabled) || s.trg.grp.any (·.2.armed)
  else if decide (0x370 ≤ id) && decide (id ≤ 0x38F) then
    (loopOf s (id - 0x370)).defd && decide (modeAt (loopOf s (id - 0x370)) s.tb.tick ≠ .off)
  else (slotsOfFn s id).any (slotInUse s)

/-- The instant of the last commit deadline of the words that a function has taken by t (R17, R462). -/
def drainEndAt (s : State) (id t : Nat) : Nat := (slotsOfFn s id).foldl (fun m n => max m (t + latency s n)) t

/-! ### Sessions of functions (R337, R351, R353) -/

/-- A session that ends early: one still on its way out, or back on its pins, parks the spare; any other leaves the
spare delivering and the channel parked. -/
def cutSession (k : Nat) (x : Session) (s : State) : State :=
  match x.phase with
  | .overlapOut | .switchOut | .parkBack => dropSess k (setRoute (512 + k / 32) .parked 0 s.now s)
  | _ =>
    let s := dropSess k (setRoute k .parked 0 s.now s)
    match (bankSt s (k / 32)).deliver with
    | some (p, _) => if p = k % 32 then s.onFn k fun f => { f with standIn := 512 + k / 32 } else s
    | none => s

/-- The session that a function's renewal, disable or substitution runs. -/
def fnSession (s : State) (id : Nat) : Option (Nat × Session) := s.cal.sess.find? fun e => e.2.forFunc == some id

/-- A renewal ends early: its session, and its request with a status and `DETAIL` (R410, R464). -/
def endRenew (id : Nat) (st : Status) (detail : Nat) (s : State) : State :=
  let s := match fnSession s id with | some (k, x) => (cutSession k x s).onFn k fun f => { f with testing := false } | none => s
  let f := fnOf s id
  let s := s.onFn id fun f => { f with renOwed := none, renew := none, testOnly := none, todo := [], testing := false }
  completeOpt f.renOwed st detail s.tb.tick s

/-- The work of a channel whose spare keeps it starts to return (R351, R471; log 37). -/
def returnChannel (k : Nat) (forFunc : Option Nat) (t : Nat) (s : State) : State :=
  let s := startReturn k false none t (putSess k { target := k, phase := .out, forFunc } s)
  if (sessOf s k).isNone then
    let s := s.onFn k fun f => { f with standIn := 0xFFFF, consumed := false }
    match forFunc with | some id => s.onFn id fun f => { f with renew := some .returning } | none => s
  else s

/-- Whether a precision slot's spare delivers for it. -/
def spareKeeps (s : State) (k : Nat) : Bool :=
  isPrec k && (match (bankSt s (k / 32)).deliver with | some (p, _) => p == k % 32 | none => false)

/-! ### Starting a function (R410, R462, R465) -/

/-- The slots of a function start again with their start window (R123); the count of their tile-link words is taken up
anew (R117). -/
def startSlots (id t : Nat) (s : State) : State :=
  forAll (slotsOfFn s id) s fun s n =>
    let s := if n < 528 then s.onChan n fun c => { c with seqNext := none, seqIn := none } else s
    if isAux n || !(chanOf s n).enabled || !(chanOf s n).chains.all (·.hi.isSome) then s else enableChan s n t

/-- A lane's work returns from lane 48. -/
def laneBack (l : Nat) (s : State) : State :=
  if s.chd.laneOut = some l then
    handOver (fnLane l) 0x2B0 true (laneEntries s l) ((s.onChd fun c => { c with laneOut := none }).onFn (fnLane l) fun f => { f with standIn := 0xFFFF, consumed := false })
  else s

/-- A function becomes `RUNNING`. -/
def startFn (id : Nat) (s : State) : State :=
  let t := s.tb.tick * tickRefs
  let o := (fnOf s id).enOwed
  let s := s.onFn id fun f => { f with state := .running, starting := false, testing := false, enOwed := none,
                                       loss := f.loss.map fun l => if l.2.2.isNone then (l.1, l.2.1, some t) else l }
  let s := startSlots id t s
  let s := if isPrec id && spareKeeps s id then
      (match sessOf s id with
       | none => returnChannel id none t s
       | some x => if x.phase = .out then startReturn id false x.owed t s else s)
    else if decide (0x280 ≤ id) && decide (id < 0x2B0) then laneBack (id - 0x280) s
    else if id = fnWick 0 || id = fnWick 1 then
      (if s.wick.home = id - fnWick 0 && s.wick.active.isSome && s.wick.active != some (id - fnWick 0) then
        s.onWick fun k => { k with takeback := some (id - fnWick 0) } else s)
    else if decide (0x274 ≤ id) && decide (id < 0x278) then s.onAux (id - 0x274) (auxAgain t)
    else if decide (0x2E0 ≤ id) && decide (id ≤ 0x2E3) then s.onNtq (id - 0x2E0) fun q => { q with hidden := false }
    else s
  completeOpt o .ok 0 s.tb.tick s

/-! ### What a reset or a disable stops (R19, R241, R280, R306, R353, R370, R408, R468) -/

/-- Precision, spare and wideband slots stop: their chains end and what is on its way to the commit stage is lost. -/
def stopSlots (id : Nat) (s : State) : State :=
  let ns := (slotsOfFn s id).filter (decide <| · < 544)
  let ns := if decide (512 ≤ id) && decide (id < 528) then [id] else ns
  let s := forAll ns s fun s n => s.onChan n (stopChain s.now)
  s.onChd fun c => { c with linQ := c.linQ.filter fun o => !ns.contains o.fe, comQ := c.comQ.filter fun o => !ns.contains o.fe }

/-- A spare that is reset or disabled: a channel for which it delivers returns to its pins at the next boundary and
delivers from the tick after, and a session in its bank ends (R353). -/
def stopSpare (b : Nat) (s : State) : State :=
  let t := (s.tb.tick + 1) * tickRefs
  let s := match bankSess s b with
    | some (k, x) =>
      let s := match x.forFunc with
        | some id => (endOwed id .functionState (fnCode .running) s).onFn id fun f => { f with state := .running }
        | none => s
      completeOpt x.owed .functionState (fnCode .off) s.tb.tick (dropPoints .off x (dropSess k s))
    | none => s
  match (bankSt s b).deliver with
  | none => s
  | some (k, _) =>
    let n := 32 * b + k
    let n1 := n0 (s.tb.tick + 2) (rateRefs (chanOf s n).rate)
    let s := handOver (fnSlot n) (512 + b) true (slotEntries s n n1) s
    let s := (setRoute n .pins 0 t s).onBank b fun x => { x with deliver := none, back := some (k, n1), legacyHeld := false }
    let s := s.onFn n fun f => { f with standIn := 0xFFFF, consumed := false }
    -- its start window lies at the start of its delivery
    if (chanOf s n).enabled then
      (enableChan s n t).onChan n fun c => { c with wins := winAdd c.wins fSettle .start (t + tickRefs) 8192 }
    else s

/-- The state that a command's outcome holds. -/
def nextOf (s : State) : Outc → State
  | .next t => t
  | _ => s

/-- What stops at once when a function is reset or disabled by an FRS write. -/
def kindStop (id : Nat) (s : State) : State :=
  let s := stopSlots id s
  if id < 512 then
    -- a session of the slot loses its points and results (R353)
    (match sessOf s id with
     | some x => onSess (dropPoints .off x s) id fun y => { y with points := [], results := [] }
     | none => s)
  else if id < 528 then stopSpare (id - 512) s
  else if decide (0x260 ≤ id) && decide (id < 0x270) then
    forN 8 s fun s g => let e := excOf s (8 * (id - 0x260) + g); setExc (8 * (id - 0x260) + g) 0 e.level e.imin e.sense (applyT s) s
  else if decide (0x274 ≤ id) && decide (id < 0x278) then s.onAux (id - 0x274) auxHalt
  else if decide (0x2C8 ≤ id) && decide (id ≤ 0x2CF) then s.onSeqr (id - 0x2C8) fun q => { q with state := 0, cnt := [], tmr := [] }
  else if id = fnLin then s.onChd fun c => { c with comQ := c.comQ.map fun o => { o with eng := badWord, noEng := decide (o.fe < 528) } }
  else if id = fnCooper then cutCoding (failJobs .functionState s)
  else if id = fnWick 0 || id = fnWick 1 then (if s.wick.active = some (id - fnWick 0) then wickFence 5 s else s)
  else if id = fnLl 0 || id = fnLl 1 then (if s.pwr.llActive = id - fnLl 0 then fenceLamp s else s.onPwr fun p => { p with llUp := tset p.llUp (id - fnLl 0) false })
  else if decide (0x2E0 ≤ id) && decide (id ≤ 0x2E3) then s.onNtq (id - 0x2E0) fun q => { q with hidden := true }
  else if h : 0x2E8 ≤ id ∧ id ≤ 0x2EB then nextOf s (execLossOfSignal ⟨id - 0x2E8, by omega⟩ s.now s)
  else if id = 0x2F0 then s.onIo fun i => { i with pLinkUp := false }
  else if decide (0x330 ≤ id) && decide (id ≤ 0x34F) then s.onMon (id - 0x330) fun m => { m with running := false }
  else if decide (0x350 ≤ id) && decide (id ≤ 0x36F) then
    s.onVout (id - 0x350) fun v => { v with cfg := none, next := none, stopping := false, running := false, level := (v.cfg.map fun c => voutLevel c false).getD v.level }
  else if decide (0x3A0 ≤ id) && decide (id ≤ 0x3AF) then
    s.onBeacon (id - 0x3A0) fun b =>
      { b with cfg := none, next := none, stopping := false, inPulse := false, level := (b.cfg.map (·.activeLow)).getD b.level, edge := none }
  else s

/-- Staged changes for a function are discarded (R370): those answered `ACCEPTED` or `DEFERRED` complete, the others are
listed in one notice (its type is a DESIGN CHOICE, log 39). -/
def discardStaged (id : Nat) (s : State) : State :=
  let xs := s.mbx.staged.filter fun g => g.func == id
  let s := { s with mbx := { s.mbx with staged := s.mbx.staged.filter fun g => g.func != id } }
  let s := forAll (xs.filter (·.owed)) s fun s g => complete { mbx := g.hdr.mbx.val, opcode := g.opcode, seq := g.hdr.seq } .functionState (fnCode .off) s.tb.tick s
  let held := s.chd.held.filter fun h => h.slot == id
  let s := forAll held (s.onChd fun c => { c with held := c.held.filter fun h => h.slot != id }) fun s h => complete h.owed .functionState (fnCode .off) s.tb.tick s
  let s := match s.chd.deferred with
    | some w => if id = fnChandler then complete w.owed .functionState (fnCode .off) s.tb.tick (s.onChd fun c => { c with deferred := none }) else s
    | none => s
  let ok := xs.filter fun g => !g.owed
  if ok.isEmpty then s
  else post 0x33 3 id ok.length (zeros 16 ++ (ok.map fun g => le 2 g.opcode ++ le 2 g.hdr.seq.toNat).flatten) s

/-- The part common to an FRS reset and an FRS disable: `cause` 0 or 1 (R19, R410). -/
def frsStop (id cause : Nat) (s : State) : State :=
  let f := fnOf s id
  let s := endRenew id .functionState (fnCode .off) s
  let s := completeOpt f.enOwed .functionState (fnCode .off) s.tb.tick s
  let s := forAll f.disOwed (s.onFn id fun f => { f with disOwed := [] }) fun s o => complete o .ok 0 s.tb.tick s
  let s := if decide (0x274 ≤ id) && decide (id < 0x278) then auxLose (id - 0x274) cause s else s
  let s := discardStaged id (kindStop id s)
  -- a Wick or Lamplighter that stops is fenced, and its tokens are reclaimed there
  let s := if id = fnWick 0 || id = fnWick 1 || id = fnLl 0 || id = fnLl 1 then s else fabReclaim id s
  sourceSweep (s.onFn id fun f => { f with state := .off, starting := false, testing := false, enOwed := none, disOwed := [],
                                           loss := f.loss ++ [(cause, s.now, none)] })

/-! ### FRS writes (R409 to R411) -/

/-- Whether a requester may write a function's entry. -/
def mayWrite (s : State) (r : Requester) (id : Nat) : Bool :=
  fnExists id && (match r with | .pcie => (protOf s 0).frs.getLsbD id | .spi => (protOf s 1).frs.getLsbD id | _ => false)

/-- FRS_RESET_ASSERT (R410). -/
def execFrsResetAssert (r : Requester) (id : Nat) (s : State) : Outc :=
  if !mayWrite s r id then done (badAccess s)
  else if (fnOf s id).held then done s
  else
    let was := fnState s id
    done ((frsStop id 0 s).onFn id fun f => { f with held := true, prior := was })

/-- FRS_RESET_RELEASE (R410): the self-test starts. -/
def execFrsResetRelease (r : Requester) (id : Nat) (s : State) : Outc :=
  if !mayWrite s r id then done (badAccess s)
  else if !(fnOf s id).held then done s
  else done (s.onFn id fun f => { f with held := false, testing := true, testOnly := none })

/-- FRS_DISABLE (R410). -/
def execFrsDisable (r : Requester) (id : Nat) (s : State) : Outc :=
  if !mayWrite s r id then done (badAccess s)
  else if (fnOf s id).held then done s
  else match fnState s id with
    | .off | .quiescent | .fault => done s
    | _ => done (frsStop id 1 s)

/-- FRS_ENABLE (R410). -/
def execFrsEnable (r : Requester) (id : Nat) (s : State) : Outc :=
  if !mayWrite s r id then done (badAccess s)
  else if (fnOf s id).held then done s
  else match fnState s id with
    | .off => done (if (fnOf s id).testing then s else s.onFn id fun f => { f with starting := true })
    | .draining => done (s.onFn id fun f => { f with state := .enablePending })
    | .fault => done (if (fnOf s id).testing then s else s.onFn id fun f => { f with testing := true, testOnly := none, prior := .running })
    | _ => done s

/-! ### FUNC_ENABLE and FUNC_DISABLE (R463, R464, R465) -/

def fnRefuse (s : State) (id : Nat) : Ans := .refuse .functionState (fnCode (fnState s id))

/-- `FUNC` names no function: `BAD_ARGUMENT` at its offset in the header. -/
def noFn (id : Nat) : Bool × Ans := (!fnExists id, .refuse .badArgument 12)

def chkFuncEnable (s : State) (r : Req) : Ans :=
  let id := r.h.func.toNat
  let f := fnOf s id
  firstOf [noFn id, (f.held || f.testing || f.starting, fnRefuse s id)]
    (match f.state with | .off => .stage .ok 0 | .draining => .stage .deferred 1 | _ => fnRefuse s id)

def appFuncEnable (o : Owed) (r : Req) (s : State) : State :=
  let id := r.h.func.toNat
  match fnState s id with
  | .off => startFn id s
  | .draining => s.onFn id fun f => { f with state := .enablePending, enOwed := some o }
  | _ => s

def chkFuncDisable (_s : State) (r : Req) : Ans := firstOf [noFn r.h.func.toNat] (.stage .accepted 0)

/-- A function starts to drain (R461, R462): its slots take no sample from here on. -/
def startDrain (id : Nat) (o : Owed) (s : State) : State :=
  let t := applyT s
  let own := if decide (512 ≤ id) && decide (id < 528) then [id] else slotsOfFn s id
  let s' := forAll (own.filter (decide <| · < 544)) s fun s n => s.onChan n (stopChain t)
  s'.onFn id fun f => { f with state := .draining, drainTo := drainEndAt s id (applyT s), disOwed := f.disOwed ++ [o] }

/-- A session with the default test for a function's own use (R333, R336). -/
def fnSess (k id : Nat) (legacy : Bool) : Session := { target := k, phase := .overlapOut, forFunc := some id, legacy }

/-- A carrying function whose stand-in takes its work for a disable (R463): the state after, or none. -/
def handOff (id : Nat) (o : Owed) (s : State) : Option State :=
  if isPrec id then
    if (chanOf s id).enabled && (bankFree s id).all (!·.1) then
      some ((openSess id (fnSess id id true) (applyT s) s).onFn id fun f => { f with disOwed := f.disOwed ++ [o] })
    else none
  else if decide (0x280 ≤ id) && decide (id < 0x2B0) then
    if s.chd.laneOut.isNone && fnState s 0x2B0 == .running then
      let s := (s.onChd fun c => { c with laneOut := some (id - 0x280) }).onFn id fun f => { f with standIn := 0x2B0 }
      some (startDrain id o (handOver id 0x2B0 false (laneEntries s (id - 0x280)) s))
    else none
  else if id = fnWick 0 || id = fnWick 1 then
    if wickReady s (1 - (id - fnWick 0)) then some (startDrain id o (s.onWick fun k => { k with takeback := some (1 - (id - fnWick 0)) })) else none
  else if id = fnLl 0 || id = fnLl 1 then
    if lampReady s (1 - (id - fnLl 0)) then some (startDrain id o (swapLamps s)) else none
  else if decide (0x300 ≤ id) && decide (id ≤ 0x31F) then
    if s.rm.sparePhys.isSome && s.rm.mig.isNone && s.rm.wantMig.isEmpty then
      some ((s.onRm fun m => { m with wantMig := m.wantMig ++ [(id - 0x300, none)] }).onFn id fun f => { f with disOwed := f.disOwed ++ [o] })
    else none
  else none

def appFuncDisable (o : Owed) (r : Req) (s : State) : State :=
  let id := r.h.func.toNat
  match fnState s id with
  | .running =>
    if !carriesWork s id then startDrain id o s
    else (match handOff id o s with | some t => t | none => complete o .functionState 0 s.tb.tick s)
  | .draining | .quiescent => s.onFn id fun f => { f with disOwed := f.disOwed ++ [o] }
  | .off => complete o .ok 0 s.tb.tick (s.onFn id fun f => { f with starting := false })
  | .fault => complete o .ok 0 s.tb.tick (s.onFn id fun f => { f with state := .off })
  | .renewing =>
    if s.rm.mig.any (fun m => fnMemBank m.bank == id) || s.rm.wantMig.any (fun w => fnMemBank w.1 == id) then s.onFn id fun f => { f with disOwed := f.disOwed ++ [o] }
    else complete o .ok 0 s.tb.tick ((endRenew id .functionState (fnCode .off) s).onFn id fun f => { f with state := .off })
  | .enablePending =>
    let e := (fnOf s id).enOwed
    (completeOpt e .functionState 1 s.tb.tick s).onFn id fun f => { f with state := .draining, enOwed := none, disOwed := f.disOwed ++ [o] }

/-- DRAIN_END (R462): at the first boundary after the last commit deadline, or after the last job or frame; the function's
tokens are back (R23). -/
def execDrainEnd (id : Nat) (s : State) : Outc :=
  let f := fnOf s id
  let busy := (id == fnCooper && s.cop.any (·.running)) || (decide (fnWick 0 ≤ id) && decide (id ≤ fnWick 1) && s.wick.active == some (id - fnWick 0))
  if f.held || !(f.state == .draining || f.state == .enablePending) || decide (applyT s < f.drainTo) || busy then done s
  else done ((fabReclaim id s).onFn id fun g => { g with state := .quiescent, starting := decide (f.state = .enablePending), drainTo := (s.tb.tick + 1) * tickRefs })

/-- FUNCTION_OFF (R462, R465): the next boundary; a pending enable restarts the function there. -/
def execFunctionOff (id : Nat) (s : State) : Outc :=
  let f := fnOf s id
  if f.state != .quiescent || f.held || decide (applyT s < f.drainTo) then done s
  else
    let s := forAll f.disOwed (s.onFn id fun g => { g with disOwed := [] }) fun s o => complete o .ok 0 s.tb.tick s
    done (if f.starting then startFn id s
      else (stopSlots id s).onFn id fun g => { g with state := .off })

/-! ### FUNC_RENEW (R464, R466, R467) -/

/-- A refused renewal of a memory bank with no spare free posts NO_SPARE_BANK (R258). -/
def renewRefused (id : Nat) (s : State) : State :=
  if decide (0x300 ≤ id) && decide (id ≤ 0x31F) && fnState s id == .running && s.rm.sparePhys.isNone then noSpare (id - 0x300) s else s

/-- The mailboxes of the port that a function is: a requester may not renew its own port. -/
def ownPort (m id : Nat) : Bool := (id == 0x2F0 && decide (m < 4)) || (id == 0x2F1 && (m == 4 || m == 5))

/-- The refusals of a running function's renewal at a tick (R467). -/
def renewRefusals (s : State) (m id tick : Nat) : List (Bool × Ans) :=
  let no := fnRefuse s id
  let busy : Ans := .refuse .busy 0
  if isPrec id then bankFree s id
  else if id < 528 then [(bankInSession s (id - 512), busy), (decide ((chanOf s id).route ≠ .parked), no)]
  else if decide (0x260 ≤ id) && decide (id < 0x270) then bankFree s (32 * (id - 0x260))
  else if decide (id < 0x260) || (decide (0x274 ≤ id) && decide (id < 0x278)) then
    [((slotsOfFn s id).any fun n => streamCarries s n || armedUses condSlotsOf s n || loopUses s tick [.off, .forced] n, no)]
  else if decide (0x280 ≤ id) && decide (id < 0x2B0) then [(s.chd.laneOut.isSome, busy), (decide (fnState s 0x2B0 ≠ .running), no)]
  else if id = 0x2B0 || id = fnChandler then [(s.chd.laneOut.isSome, busy)]
  else if id = fnWick 0 || id = fnWick 1 then [(!wickReady s (1 - (id - fnWick 0)), no)]
  else if decide (0x2F0 ≤ id) && decide (id ≤ 0x2F2) then [(ownPort m id, no)]
  else if id = fnLl 0 || id = fnLl 1 then [(!lampReady s (1 - (id - fnLl 0)), no)]
  else if decide (0x300 ≤ id) && decide (id ≤ 0x31F) then [(s.rm.mig.isSome || !s.rm.wantMig.isEmpty, busy), (s.rm.sparePhys.isNone, no)]
  else if id = fnSpareBank then [(s.rm.sparePhys.isNone, no)]
  else []

def chkFuncRenew (s : State) (r : Req) : Ans :=
  let id := r.h.func.toNat
  let f := fnOf s id
  match f.state with
  | .running => firstOf (noFn id :: (f.renew.isSome || f.testing || (fnSession s id).isSome, .refuse .busy 0) :: renewRefusals s r.h.mbx.val id r.tick) (.stage .accepted 0)
  | .off | .fault => firstOf [noFn id, (f.held || f.testing || f.starting, .refuse .busy 0)] (.stage .accepted 0)
  | _ => firstOf [noFn id] (.refuse .busy 0)

/-- The next member of a bank's renewal (R467): an enabled channel goes out, then the spare is tested in place. -/
def bankNext (id : Nat) (s : State) : State :=
  match (fnOf s id).todo with
  | [] => s.onFn id fun f => { f with renew := some .returning }
  | k :: _ => if k < 512 then openSess k (fnSess k id false) s.now s else s.onFn id fun f => { f with renew := some .going }

def appFuncRenew (o : Owed) (r : Req) (s : State) : State :=
  let id := r.h.func.toNat
  match fnState s id with
  | .off | .fault => s.onFn id fun f => { f with testing := true, testOnly := some .off, renOwed := some o }
  | .running =>
    let s := s.onFn id fun f => { f with state := .renewing, renOwed := some o, renew := some .going }
    if isPrec id then
      let s := openSess id (fnSess id id false) (applyT s) s
      if (sessOf s id).any fun x => x.phase == .out then s.onFn id fun f => { f with testing := true } else s
    else if decide (0x260 ≤ id) && decide (id < 0x270) then
      let b := id - 0x260
      bankNext id (s.onFn id fun f => { f with todo := ((bankSlots b).filter fun n => isPrec n && (chanOf s n).enabled) ++ [512 + b] })
    else if id = fnCooper then cutCoding s
    else if id = fnChandler then s.onFn id fun f => { f with todo := List.range 49 }
    else if id = fnWick 0 || id = fnWick 1 then
      if s.wick.active = some (id - fnWick 0) then s.onWick fun k => { k with takeback := some (1 - (id - fnWick 0)) } else s
    else if decide (0x300 ≤ id) && decide (id ≤ 0x31F) then
      (s.onRm fun m => { m with wantMig := m.wantMig ++ [(id - 0x300, some o)] }).onFn id fun f => { f with renOwed := none, renew := none }
    else s
  | st => complete o .functionState (fnCode st) s.tb.tick s

/-- A lane goes out to lane 48. -/
def laneGoes (l : Nat) (s : State) : State :=
  if l < 48 then
    handOver (fnLane l) 0x2B0 false (laneEntries s l) ((s.onChd fun c => { c with laneOut := some l }).onFn (fnLane l) fun f => { f with standIn := 0x2B0 })
  else s

/-- RENEWAL_HANDOVER (R466): the function's work goes out and its self-test starts. A precision slot goes out by its
session instead. -/
def execRenewalHandover (id : Nat) (s : State) : Outc :=
  let f := fnOf s id
  if f.state != .renewing || f.renew != some .going || (fnSession s id).isSome then done s
  else
    let go (s : State) : Outc := done (s.onFn id fun f => { f with renew := some .testing, testing := true })
    if id = fnCooper && s.cop.any (·.running) then done s
    else if (id = fnWick 0 || id = fnWick 1) && s.wick.active == some (id - fnWick 0) then done s
    else if id = 0x2F2 && s.io.qBusy then done s
    else if decide (0x280 ≤ id) && decide (id < 0x2B0) then go (laneGoes (id - 0x280) s)
    else if id = fnChandler then go (laneGoes (f.todo.headD 48) s)
    else if decide (0x2E0 ≤ id) && decide (id ≤ 0x2E3) then go (s.onNtq (id - 0x2E0) fun q => { q with hidden := true })
    else if h : 0x2E8 ≤ id ∧ id ≤ 0x2EB then go (nextOf s (execLossOfSignal ⟨id - 0x2E8, by omega⟩ s.now s))
    else if decide (0x274 ≤ id) && decide (id < 0x278) then go (s.onAux (id - 0x274) auxHalt)
    else if id = 0x2F0 then go (s.onIo fun i => { i with pLinkUp := false })
    else if (id = fnLl 0 || id = fnLl 1) && s.pwr.llActive == id - fnLl 0 && s.pwr.fwUp then go (swapLamps s)
    else go s

/-- A failed self-test: `FAULT` with a cause that the spec does not number by kind (a free value), and a stand-in that
keeps the work is consumed (R466, R471). -/
def testFailed (id : Nat) (s : State) : State :=
  let v := s.free
  let s := (endOwed id .mismatch 0 v.2).onFn id fun f => { f with state := .fault, cause := v.1.toNat % 256 }
  let s := if id = fnCooper then cutCoding s else s
  let si := if decide (0x300 ≤ id) && decide (id ≤ 0x31F) then fnSpareBank else (fnOf s id).standIn
  if si = 0xFFFF then s else consumeStandIn id si s

/-- The self-test of a precision slot that a session holds off its pins (R466, R467). -/
def slotTested (k owner : Nat) (pass : Bool) (s : State) : State :=
  if pass then
    let s := startReturn k false none s.now s
    if (sessOf s k).isNone then s.onFn owner fun f => { f with renew := some .returning } else s
  else
    let s := dropSess k s
    let s := if owner = k then s else funcFail owner s
    let s := testFailed k s
    if spareKeeps s k then consumeStandIn k (512 + k / 32) s else s

/-- A self-test after a release from reset, an enable from `FAULT`, or a renewal that only tests (R410, R464). -/
def plainTested (id : Nat) (pass : Bool) (s : State) : State :=
  let f := fnOf s id
  if !pass then testFailed id s
  else match f.testOnly with
    | none =>
      let again := match f.prior with | .running | .renewing | .enablePending => true | _ => false
      s.onFn id fun f => { f with state := .off, starting := again }
    | some st =>
      let s := if id = fnLl 0 || id = fnLl 1 then s.onPwr fun p => { p with llFenced := tset p.llFenced (id - fnLl 0) false } else s
      -- a renewal of the spare's identifier tests a bank that left service, and makes it the spare (R259; log 151)
      if id = fnSpareBank && s.rm.sparePhys.isNone && !s.rm.retired.isEmpty then
        completeOpt f.renOwed .ok 0 s.tb.tick ((s.onRm fun m => { m with sparePhys := m.retired.getLast?, retired := m.retired.dropLast }).onFn id fun f =>
          { f with state := .running, testOnly := none, renOwed := none })
      else
      let kept := decide (f.state = .fault) && (spareKeeps s id || (decide (0x280 ≤ id) && s.chd.laneOut == some (id - 0x280))
        || (decide (0x300 ≤ id) && decide (id ≤ 0x31F) && !s.rm.retired.isEmpty))
      if kept then
        -- the stand-in is recovered and the work returns (R471; log 37)
        let s := s.onFn id fun f => { f with state := .renewing, testOnly := none, renew := some .returning }
        if isPrec id then returnChannel id (some id) s.now (s.onFn id fun f => { f with renew := some .testing }) else s
      else completeOpt f.renOwed .ok 0 s.tb.tick (s.onFn id fun f => { f with state := st, testOnly := none, renOwed := none })

/-- FUNCTION_SELF_TEST_DONE (R410, R466). -/
def execFunctionSelfTestDone (id : Nat) (pass : Bool) (s : State) : Outc :=
  if id = fnWick 0 then execWickSelfTestDone 0 pass s
  else if id = fnWick 1 then execWickSelfTestDone 1 pass s
  else if !(fnOf s id).testing then done s
  else
    let s := s.onFn id fun f => { f with testing := false }
    match sessOf s id with
    | some x =>
      (match x.forFunc with
       | some owner => done (slotTested id owner pass s)
       | none => done (plainTested id pass s))
    | none =>
      if (fnOf s id).renew = some .testing then
        if pass then done (s.onFn id fun f => { f with renew := some .returning })
        else
          let l := (fnOf s id).todo.headD 48
          if id = fnChandler && l < 48 then done (testFailed (fnLane l) (funcFail id s))
          else if decide (0x260 ≤ id) && decide (id < 0x270) then done (testFailed (512 + (id - 0x260)) (funcFail id s))
          else done (testFailed id s)
      else done (plainTested id pass s)

/-- A renewal is complete. -/
def renewed (id : Nat) (s : State) : State :=
  (endOwed id .ok 0 s).onFn id fun f => { f with state := .running, loss := f.loss.map fun l => if l.2.2.isNone then (l.1, l.2.1, some s.now) else l }

/-- RENEWAL_RETURN (R466): the work is back, and the stand-in is free. -/
def execRenewalReturn (id : Nat) (s : State) : Outc :=
  let f := fnOf s id
  if f.state != .renewing || f.renew != some .returning then done s
  else if decide (0x260 ≤ id) && decide (id < 0x270) then
    let s := s.onFn id fun f => { f with todo := f.todo.tail }
    done (if (fnOf s id).todo.isEmpty then renewed id s else bankNext id s)
  else if id = fnChandler then
    let s := laneBack (f.todo.headD 48) s
    let s := s.onFn id fun f => { f with todo := f.todo.tail }
    done (if (fnOf s id).todo.isEmpty then renewed id s else s.onFn id fun f => { f with renew := some .going })
  else
    if (id = fnWick 0 || id = fnWick 1) && s.wick.home == id - fnWick 0 && s.wick.active.isSome && s.wick.active != some (id - fnWick 0) then done s
    else
    let s := renewed id s
    if decide (0x280 ≤ id) && decide (id < 0x2B0) then done (laneBack (id - 0x280) s)
    else if decide (0x2C8 ≤ id) && decide (id ≤ 0x2CF) then done (s.onSeqr (id - 0x2C8) fun q => { q with state := 0, cnt := [], tmr := [] })
    else if decide (0x274 ≤ id) && decide (id < 0x278) then done (s.onAux (id - 0x274) (auxAgain s.now))
    else if decide (0x2E0 ≤ id) && decide (id ≤ 0x2E3) then done (s.onNtq (id - 0x2E0) fun q => { q with hidden := false })
    else if id = 0x2F0 then done (s.onIo fun i => { i with pLinkUp := decide (0 < i.pWidth) })
    else if id = fnLl 0 || id = fnLl 1 then done (s.onPwr fun p => { p with llFenced := tset p.llFenced (id - fnLl 0) false })
    else if decide (0x300 ≤ id) && decide (id ≤ 0x31F) then
      -- the former bank, tested, is the spare (R259)
      done (((s.onFn id fun f => { f with standIn := 0xFFFF }).onRm fun m => match m.retired.getLast?, m.sparePhys with
        | some p, none => { m with sparePhys := some p, retired := m.retired.dropLast }
        | _, _ => m).onFn fnSpareBank fun f => { f with state := .running })
    else done s

/-! ### FUNC_STATE, LEGACY_SUBSTITUTE, LEGACY_RELEASE (R354, R382) -/

def fnStateBytes (s : State) (id : Nat) : List Byte :=
  if fnExists id then le 1 (fnCode (fnState s id)) ++ le 1 (fnOf s id).cause ++ le 2 (fnOf s id).standIn else zeros 4

def chkFuncState (s : State) (r : Req) : Ans :=
  let n := rd r.p 0 2
  let id := r.h.func.toNat
  firstOf [noFn id, (n == 0 || decide (60 < n), badAt 0)] (.reply 0 ((List.range n).map fun i => fnStateBytes s (id + i)).flatten)

/-- `LEGACY` clear, and a function that is no channel slot. -/
def legacyBad (r : Req) : List (Bool × Ans) :=
  [(!bit r.h.flags.toNat 1, .refuse .badArgument 6), (decide (511 < r.h.func.toNat), .refuse .badArgument 12)]

def chkLegacySubstitute (s : State) (r : Req) : Ans := firstOf (legacyBad r ++ bankFree s r.h.func.toNat) (.stage .accepted 0)

def appLegacySubstitute (o : Owed) (r : Req) (s : State) : State :=
  let k := r.h.func.toNat
  let t := applyT s
  let x : Session := { target := k, phase := .overlapOut, legacy := true, owed := some o }
  if (chanOf s k).enabled then openSess k x t s
  else
    -- a slot that is not enabled has no outputs to compare: the spare takes its place at once
    let s := setGain (512 + k / 32) (chanOf s k).gain t (setRoute (512 + k / 32) .channel (k % 32) t s)
    let s := setRoute k .parked 0 t (switchDelivery k false s)
    complete o .ok 0 s.tb.tick (consumeStandIn k (512 + k / 32) (s.onBank (k / 32) fun y => { y with legacyHeld := true }))

def chkLegacyRelease (s : State) (r : Req) : Ans :=
  let k := r.h.func.toNat
  firstOf (legacyBad r ++ [(bankInSession s (k / 32), .refuse .busy 0), (!((bankSt s (k / 32)).legacyHeld && spareKeeps s k), fnRefuse s k)]) (.stage .accepted 0)

/-- LEGACY_RELEASE: the return of R351. -/
def appLegacyRelease (o : Owed) (r : Req) (s : State) : State :=
  let k := r.h.func.toNat
  let t := applyT s
  startReturn k false (some o) t (putSess k { target := k, phase := .out } s)

/-! ### PLANE_START, PLANE_STOP (R382, R460) -/

def chkPlaneStart (s : State) (_r : Req) : Ans := firstOf [(decide (s.tb.state = .unset), .refuse .functionState 0)] (.stage .ok 0)

/-- An enabled stream whose words are counted from the start of the data plane. -/
def rebaseStream (i : Nat) (s : State) : State :=
  let n := s.tb.tick
  let s := forAll (strOf s i).asm s fun s b => dropBlock i none b s
  let c := (strOf s i).cfg
  let start := if c.kind = 6 then n else outAt c n
  let s := s.onStr i fun st =>
    let st := { st with gaps := st.gaps ++ [(st.due.foldl min start, start)] }
    { st with due := st.due.map (nextOut st), nextM := nextOut st (min st.nextM start) }
  let s := forAll (instIdx s c) s fun s j =>
    match redAt s j with
    | some x => (match x.runs.getLast? with
      | some (_, none) => s.onRed j fun x => startInst n { x with runs := x.runs.dropLast }
      | _ => s)
    | none => s
  if c.kind = 6 || c.recordsOnly then s else openBlock i (nextOut (strOf s i) (strOf s i).nextM) s

def appPlaneStart (_r : Req) (s : State) : State :=
  if s.pwr.plane then s
  else
    let t := applyT s
    -- Chandler's rounds follow the grid of the instants (R69, R141)
    let s := (s.onPwr fun p => { p with plane := true }).onChd fun c => { c with round := t / 512 }
    let s := forN 528 s fun s n => s.onChan n fun c => { c with seqNext := none, seqIn := none }
    let s := forN 544 s fun s n => if (chanOf s n).enabled then enableChan s n t else s
    forN 64 s fun s i => if (strOf s i).enabled then rebaseStream i s else s

def chkPlaneStop (s : State) (r : Req) : Ans :=
  firstOf [(s.str.s.any (·.2.enabled) || s.trg.grp.any (·.2.armed) || anyLoop s r.tick, .refuse .functionState 0)] (.stage .ok 0)

def appPlaneStop (_r : Req) (s : State) : State :=
  if !s.pwr.plane then s
  else
    let t := applyT s
    let s := s.onPwr fun p => { p with plane := false }
    -- a slew ends with the data plane (R48), and the time base is stepped to the master instead (R72; log 139)
    let s := if s.tb.state == .slewing then s.onTb fun b => { b with slewTerm := 0, act := .master } else s
    let s := forN 544 s fun s n => if (chanOf s n).enabled || isSpare n then s.onChan n (stopChain t) else s
    forN 16 s fun s b => s.onBank b fun x => { x with cicBuf := [], sarBuf := [] }

end Sys2Proof.Machine
end

