-- ==== Sys2Proof/Machine/Commands.lean ====
section
/-! DEFINITION. The command set of firmware interface level 4 (R372 to R385): each opcode's class, payload size and
reserved bytes, and for each command its validation, its effect at the apply tick, and its function (R370). -/
namespace Sys2Proof.Machine

/-! ### The catalogue's sizes and classes -/

/-- A row of the catalogue: opcode, class (R368), least and greatest payload, whether it is multi-part, and the payload
offsets of its reserved bytes. -/
structure OpInfo where
  op    : Nat
  cls   : Nat
  lo    : Nat
  hi    : Nat
  multi : Bool := false
  res   : List Nat := []
deriving DecidableEq, Repr

/-- Class 0x01xx. -/
def ops01 : List OpInfo :=
  [{ op := 0x0101, cls := 0, lo := 0, hi := 0 },
   { op := 0x0102, cls := 0, lo := 0, hi := 0 },
   { op := 0x0103, cls := 0, lo := 0, hi := 0 }]

/-- Class 0x02xx. -/
def ops02 : List OpInfo :=
  [{ op := 0x0201, cls := 2, lo := 6, hi := 6, res := [5] },
   { op := 0x0204, cls := 2, lo := 4, hi := 4, res := [3] },
   { op := 0x0205, cls := 2, lo := 8, hi := 8, res := [6, 7] },
   { op := 0x0208, cls := 2, lo := 12, hi := 12, res := [3] },
   { op := 0x020C, cls := 4, lo := 4, hi := 4 },
   { op := 0x0210, cls := 2, lo := 16, hi := 232, multi := true, res := [3, 7] },
   { op := 0x0211, cls := 2, lo := 12, hi := 12, res := [2, 3] },
   { op := 0x0212, cls := 0, lo := 4, hi := 4, res := [2, 3] },
   { op := 0x0220, cls := 2, lo := 224, hi := 224 },
   { op := 0x0221, cls := 0, lo := 2, hi := 2 },
   { op := 0x0230, cls := 1, lo := 40, hi := 40, res := [7, 12, 13, 14, 15] },
   { op := 0x0231, cls := 1, lo := 4, hi := 4, res := [1, 2, 3] }]

/-- Class 0x03xx. -/
def ops03 : List OpInfo :=
  [{ op := 0x0310, cls := 3, lo := 16, hi := 16, res := [14, 15] },
   { op := 0x0312, cls := 3, lo := 16, hi := 16 },
   { op := 0x0313, cls := 3, lo := 2, hi := 2 },
   { op := 0x0314, cls := 3, lo := 4, hi := 4, res := [3] },
   { op := 0x0315, cls := 3, lo := 4, hi := 4, res := [3] },
   { op := 0x0316, cls := 3, lo := 4, hi := 4, res := [2, 3] },
   { op := 0x0317, cls := 0, lo := 4, hi := 4, res := [3] },
   { op := 0x0318, cls := 0, lo := 4, hi := 4, res := [1] }]

/-- Class 0x04xx. -/
def ops04 : List OpInfo :=
  [{ op := 0x0402, cls := 2, lo := 8, hi := 8, res := [5, 6, 7] },
   { op := 0x0408, cls := 2, lo := 16, hi := 56, multi := true, res := [3, 7] },
   { op := 0x0409, cls := 2, lo := 7, hi := 196, res := [3] },
   { op := 0x040A, cls := 0, lo := 8, hi := 8, res := [5, 6, 7] },
   { op := 0x0410, cls := 2, lo := 4, hi := 4, res := [1, 2, 3] }]

/-- Class 0x05xx. -/
def ops05 : List OpInfo :=
  [{ op := 0x0501, cls := 2, lo := 4, hi := 240, multi := true, res := [3] },
   { op := 0x0502, cls := 1, lo := 4, hi := 4, res := [1, 2, 3] },
   { op := 0x0503, cls := 1, lo := 4, hi := 4, res := [1, 2, 3] },
   { op := 0x0504, cls := 1, lo := 4, hi := 4, res := [1, 2, 3] },
   { op := 0x0505, cls := 0, lo := 4, hi := 4, res := [2, 3] },
   { op := 0x0531, cls := 1, lo := 4, hi := 4, res := [1, 2, 3] },
   { op := 0x0540, cls := 2, lo := 20, hi := 20 },
   { op := 0x0541, cls := 0, lo := 4, hi := 4, res := [1, 2, 3] },
   { op := 0x0542, cls := 4, lo := 8, hi := 8, res := [5, 6, 7] }]

/-- Class 0x06xx. -/
def ops06 : List OpInfo :=
  [{ op := 0x0601, cls := 2, lo := 40, hi := 232, multi := true, res := [3, 7] },
   { op := 0x0602, cls := 2, lo := 4, hi := 240, multi := true, res := [3] },
   { op := 0x0603, cls := 1, lo := 4, hi := 4, res := [2, 3] },
   { op := 0x0604, cls := 1, lo := 4, hi := 4, res := [2, 3] },
   { op := 0x0605, cls := 1, lo := 16, hi := 16 },
   { op := 0x0606, cls := 0, lo := 4, hi := 4, res := [2, 3] },
   { op := 0x0607, cls := 0, lo := 8, hi := 8, res := [1, 2, 3] },
   { op := 0x0608, cls := 1, lo := 8, hi := 8, res := [1] },
   { op := 0x0610, cls := 2, lo := 8, hi := 8, res := [3] }]

/-- Class 0x07xx. -/
def ops07 : List OpInfo :=
  [{ op := 0x0701, cls := 0, lo := 0, hi := 0 },
   { op := 0x0702, cls := 2, lo := 28, hi := 28, res := [10, 11] },
   { op := 0x0703, cls := 4, lo := 16, hi := 16, res := [4, 5, 6, 7] },
   { op := 0x0704, cls := 2, lo := 8, hi := 8, res := [6, 7] },
   { op := 0x0705, cls := 2, lo := 4, hi := 4, res := [2, 3] },
   { op := 0x0710, cls := 1, lo := 36, hi := 36, res := [3, 10, 11] },
   { op := 0x0711, cls := 1, lo := 4, hi := 4, res := [1, 2, 3] },
   { op := 0x0718, cls := 2, lo := 4, hi := 4, res := [2, 3] }]

/-- Class 0x08xx. -/
def ops08 : List OpInfo :=
  [{ op := 0x0801, cls := 2, lo := 16, hi := 16 },
   { op := 0x0802, cls := 1, lo := 4, hi := 4, res := [3] },
   { op := 0x0803, cls := 2, lo := 64, hi := 64, res := [3, 56, 57, 58, 59, 60, 61, 62, 63] },
   { op := 0x0804, cls := 1, lo := 164, hi := 164, res := [18, 19] },
   { op := 0x0805, cls := 0, lo := 4, hi := 4, res := [2, 3] },
   { op := 0x0806, cls := 0, lo := 4, hi := 4, res := [1, 2, 3] },
   { op := 0x0810, cls := 2, lo := 8, hi := 8, res := [1] },
   { op := 0x0811, cls := 0, lo := 0, hi := 0 },
   { op := 0x0812, cls := 2, lo := 4, hi := 68 },
   { op := 0x0813, cls := 0, lo := 4, hi := 4, res := [1, 2, 3] }]

/-- Class 0x09xx. -/
def ops09 : List OpInfo :=
  [{ op := 0x0901, cls := 1, lo := 24, hi := 24, res := [20, 21, 22, 23] },
   { op := 0x0902, cls := 1, lo := 4, hi := 4, res := [2, 3] },
   { op := 0x0903, cls := 1, lo := 4, hi := 4, res := [2, 3] },
   { op := 0x0904, cls := 0, lo := 0, hi := 0 }]

/-- Class 0x0Axx. -/
def ops0A : List OpInfo :=
  [{ op := 0x0A01, cls := 4, lo := 0, hi := 0 },
   { op := 0x0A02, cls := 4, lo := 0, hi := 0 },
   { op := 0x0A03, cls := 4, lo := 0, hi := 0 },
   { op := 0x0A04, cls := 0, lo := 4, hi := 4, res := [2, 3] },
   { op := 0x0A10, cls := 4, lo := 0, hi := 0 },
   { op := 0x0A11, cls := 4, lo := 0, hi := 0 },
   { op := 0x0A20, cls := 4, lo := 0, hi := 0 },
   { op := 0x0A21, cls := 4, lo := 0, hi := 0 }]

/-- Class 0x0Bxx. -/
def ops0B : List OpInfo :=
  [{ op := 0x0B01, cls := 0, lo := 0, hi := 0 },
   { op := 0x0B02, cls := 5, lo := 9, hi := 240, res := [1] },
   { op := 0x0B03, cls := 5, lo := 4, hi := 4, res := [1, 2, 3] },
   { op := 0x0B04, cls := 5, lo := 4, hi := 4, res := [1, 2, 3] }]

/-- Class 0x0Cxx. -/
def ops0C : List OpInfo :=
  [{ op := 0x0C01, cls := 2, lo := 12, hi := 12, res := [1] },
   { op := 0x0C02, cls := 0, lo := 4, hi := 4, res := [1, 2, 3] }]

/-- Class 0x0Dxx. -/
def ops0D : List OpInfo :=
  [{ op := 0x0D01, cls := 2, lo := 4, hi := 4, res := [2, 3] },
   { op := 0x0D02, cls := 2, lo := 32, hi := 32, res := [14, 15] },
   { op := 0x0D03, cls := 2, lo := 4, hi := 4 },
   { op := 0x0D04, cls := 2, lo := 20, hi := 20 },
   { op := 0x0D05, cls := 0, lo := 4, hi := 4, res := [1, 2, 3] }]

/-- Class 0x0Fxx. -/
def ops0F : List OpInfo :=
  [{ op := 0x0F01, cls := 0, lo := 0, hi := 0 },
   { op := 0x0F02, cls := 2, lo := 4, hi := 4, res := [3] },
   { op := 0x0F10, cls := 4, lo := 0, hi := 0 },
   { op := 0x0F11, cls := 4, lo := 0, hi := 0 },
   { op := 0x0F20, cls := 0, lo := 0, hi := 0 }]

def opTable : List OpInfo := ops01 ++ ops02 ++ ops03 ++ ops04 ++ ops05 ++ ops06 ++ ops07 ++ ops08 ++ ops09 ++ ops0A ++ ops0B ++ ops0C ++ ops0D ++ ops0F

/-- The row of an opcode; none for an opcode that is unknown at level 4. -/
def opInfo (op : Nat) : Option OpInfo := opTable.find? fun i => i.op == op

/-- The reserved payload bytes of a request (R363, R376, R378): those of STREAM_DEFINE's part 0 and of the slot entries of
TRIG_GROUP_DEFINE besides the catalogue's. -/
def resAt (i : OpInfo) (p : List Byte) : List Nat :=
  if i.op = 0x0501 then (if rd p 0 2 = 0 then [3, 26, 27, 44, 45, 46, 47] else [3])
  else if i.op = 0x0602 then
    let o := if rd p 0 2 = 0 then 52 else 4
    3 :: (List.range ((p.length - o) / 8)).map fun j => o + 8 * j + 3
  else i.res

/-- Whether `FUNC` is a field of an opcode's request (R359). -/
def takesFunc (op : Nat) : Bool := op / 256 == 0xA || op / 256 == 0xF

/-- The header checks of R363 in the order of their offsets: the offset of the first field that fails. -/
def headBad (i : OpInfo) (h : ReqHdr) (p : List Byte) : Option Nat :=
  let fl := h.flags.toNat
  let n := h.length.toNat
  if n < i.lo || i.hi < n then some 4
  else if bits fl 15 3 != 0 || (bit fl 1 && !takesFunc i.op) then some 6
  else if h.applyTick != 0 && !bit fl 0 then some 8
  else if h.func != 0 && !takesFunc i.op then some 12
  else if h.res != 0 then some 14
  else if i.multi && 1 < rd p 2 1 then some 18
  else ((resAt i p).find? fun o => p.getD o 0 != 0).map (16 + ·)

/-! ### Information (R372), the ledger (R377) and the level-2 aliases (R384) -/

/-- The response of HUB_INFO; the chip is stepping B1. -/
def hubInfo (s : State) : List Byte :=
  le 1 0x11 ++ le 1 s.pwr.fwLevel ++ le 2 ((s.pwr.boot.map (·.station)).getD 0) ++ le 1 ((s.pwr.boot.map (·.hubIndex)).getD 0)
    ++ le 1 s.pwr.llActive ++ le 1 (b2n s.pwr.plane) ++ zeros 1
    ++ le 4 (match s.pwr.fwRun with | some k => rd (fwHeader s k) 4 4 | none => 0) ++ le 4 s.pwr.bootCount.toNat ++ le 8 s.tb.tick

/-- The protection entry of a mailbox's requester (R455). -/
def protEntry (s : State) (m : Nat) : Nat := if m < 4 then 0 else if m < 6 then 1 else 2 + (collOf s (m - 6)).cfg.keyId

/-- The response of PERM_READ. -/
def permInfo (s : State) (m : Nat) : List Byte :=
  let e := protOf s (protEntry s m)
  le 1 e.classes.toNat ++ le 1 e.windows.length ++ zeros 2
    ++ ((List.range 8).map fun k => let w := e.windows.getD k (0, 0); le 4 w.1 ++ le 4 w.2).flatten

/-- LEDGER_CLEAR: the check at a tick boundary decides. -/
def chkLedgerClear (r : Req) : Ans :=
  firstOf [(decide (63 < rd r.p 0 1 ∧ rd r.p 0 1 ≠ 0x80), badAt 0)] (if bit r.h.flags.toNat 0 then .stage .accepted 0 else .wait)

/-- A level-2 substitution as the level-4 command that it runs. -/
def asLegacy (r : Req) : Req := { r with h := { r.h with flags := r.h.flags ||| 2 } }

/-- A level-2 channel is 0 to 127. -/
def onL2 (r : Req) (a : Ans) : Ans := firstOf [(decide (127 < r.h.func.toNat), .refuse .badArgument 12)] a

def chkL2Chan (s : State) (r : Req) : Ans :=
  firstOf [(decide (127 < rd r.p 0 1), badAt 0)] (chkChan usesSlot (rd r.p 0 1) (rd r.p 1 1) (rd r.p 2 1) 0 1 2 3 s)

/-- CHAN_CONFIG at its tick; what follows a slot that it disables loses its source (R170, R176). -/
def appChan (slot en gain : Nat) (bias : Option Nat) (s : State) : State :=
  let was := (chanOf s slot).enabled
  let s := setChan slot en gain bias s
  if was && en == 0 then sourceSweep s else s

/-- FILT_SWAP_COMPLETE (R150). -/
def execFiltSwapComplete (s : State) : Outc := done (relane (swapComplete usesSlot s))

/-! ### Validation, effect and function of each command -/

/-- The validation of a command against a configuration; `sw` says whether a FILT_SWAP is staged (R154). -/
def chkCmd (sw : Bool) (c : Instr) (s : State) (r : Req) : Ans :=
  match c with
  | .hubInfo _ _ => .reply 0 (hubInfo s)
  | .permRead _ _ => .reply 0 (permInfo s r.h.mbx.val)
  | .nop _ _ => .reply 0 []
  | .chanConfig _ _ => chkChan usesSlot (rd r.p 0 2) (rd r.p 2 1) (rd r.p 3 1) (rd r.p 4 1) 2 3 4 s
  | .wbConfig _ _ => chkWbConfig s r
  | .wbComparator _ _ => chkWbComparator s r
  | .excConfig _ _ => chkExcConfig s r
  | .feRoute _ _ => chkFeRoute s r
  | .auxScanLoad _ _ => chkAuxScanLoad s r
  | .auxTimer _ _ => chkAuxTimer s r
  | .auxScanInfo _ _ => chkAuxScanInfo s r
  | .linSet _ _ => chkLinSet s r
  | .linRead _ _ => chkLinRead s r
  | .voutSet _ _ => chkVoutSet s r
  | .voutStop _ _ => chkVoutStop s r
  | .calBegin _ _ => chkCalBegin s r
  | .calPoint _ _ => chkCalPoint s r
  | .calCompute _ _ => chkCalCompute s r
  | .calCommit _ _ => chkCalCommit s r
  | .calEnd _ _ => chkCalEnd s r
  | .calAbort _ _ => chkCalAbort s r
  | .calStatus _ _ => chkCalStatus s r
  | .calRead _ _ => chkCalRead s r
  | .filtSelect _ _ => chkFiltSelect usesSlot sw s r
  | .filtSetDefine _ _ => chkFiltSetDefine sw s r
  | .filtCoefWrite _ _ => chkFiltCoefWrite sw s r
  | .filtCoefRead _ _ => chkFiltCoefRead s r
  | .filtSwap _ _ => chkFiltSwap sw s r
  | .streamDefine _ _ => chkStreamDefine s r
  | .streamEnable _ _ => chkStreamEnable s r
  | .streamDisable _ _ => chkStreamDisable s r
  | .streamRelease _ _ => chkStreamRelease s r
  | .streamDescribe _ _ => chkStreamDescribe s r
  | .ledgerClear _ _ => chkLedgerClear r
  | .memPlan _ _ => chkMemPlan s r
  | .memStatus _ _ => chkMemStatus s r
  | .scrubConfig _ _ => chkScrubConfig s r
  | .trigSeqLoad _ _ => chkTrigSeqLoad s r
  | .trigGroupDefine _ _ => chkTrigGroupDefine s r
  | .trigArm _ _ => chkTrigArm s r
  | .trigDisarm _ _ => chkTrigDisarm s r
  | .trigForce _ _ => chkTrigForce s r
  | .trigStatus _ _ => chkTrigStatus s r
  | .recList _ _ => chkRecList s r
  | .recRelease _ _ => chkRecRelease s r
  | .histDefine _ _ => chkHistDefine s r
  | .timeStatus _ _ => chkTimeStatus s r
  | .ptpConfig _ _ => chkPtpConfig s r
  | .timeSet _ _ => chkTimeSet s r
  | .synceConfig _ _ => chkSynceConfig s r
  | .tsCorrection _ _ => chkTsCorrection s r
  | .beaconSet _ _ => chkBeaconSet s r
  | .beaconStop _ _ => chkBeaconStop s r
  | .eventConfig _ _ => chkEventConfig s r
  | .loopDefine _ _ => chkLoopDefine s r
  | .loopMode _ _ => chkLoopMode s r
  | .loopParam _ _ => chkLoopParam s r
  | .loopInject _ _ => chkLoopInject s r
  | .loopTuneRead _ _ => chkLoopTuneRead s r
  | .loopStatus _ _ => chkLoopStatus s r
  | .wickConfig _ _ => chkWickConfig s r
  | .wickStatus _ _ => chkWickStatus s r
  | .pairDefine _ _ => chkPairDefine s r
  | .driveStatus _ _ => chkDriveStatus s r
  | .cooperJob _ _ => chkCooperJob s r
  | .cooperFlush _ _ => chkCooperFlush s r
  | .cooperCancel _ _ => chkCooperCancel s r
  | .cooperStatus _ _ => chkCooperStatus s r
  | .funcEnable _ _ => chkFuncEnable s r
  | .funcDisable _ _ => chkFuncDisable s r
  | .funcRenew _ _ => chkFuncRenew s r
  | .funcState _ _ => chkFuncState s r
  | .legacySubstitute _ _ => chkLegacySubstitute s r
  | .legacyRelease _ _ => chkLegacyRelease s r
  | .planeStart _ _ => chkPlaneStart s r
  | .planeStop _ _ => chkPlaneStop s r
  | .fwInfo _ _ => chkFwInfo s r
  | .fwWrite _ _ => chkFwWrite s r
  | .fwVerify _ _ => chkFwVerify s r
  | .fwActivate _ _ => chkFwActivate s r
  | .monConfig _ _ => chkMonConfig s r
  | .monRead _ _ => chkMonRead s r
  | .netPortConfig _ _ => chkNetPortConfig s r
  | .netAddr _ _ => chkNetAddr s r
  | .ringConfig _ _ => chkRingConfig s r
  | .collectorSet _ _ => chkCollectorSet s r
  | .netStatus _ _ => chkNetStatus s r
  | .l2Ident _ _ => .reply 0 ((hubInfo s).take 16)
  | .l2Chan _ _ => chkL2Chan s r
  | .l2Subst _ _ => onL2 r (chkLegacySubstitute s (asLegacy r))
  | .l2Unsubst _ _ => onL2 r (chkLegacyRelease s (asLegacy r))
  | .l2Status _ _ => firstOf [noFn r.h.func.toNat] (.reply 0 (fnStateBytes s r.h.func.toNat))
  | _ => .refuse .badOpcode 0

/-- The effect of a staged command at its apply tick; `o` names who is owed a completion. -/
def appCmd (o : Owed) (c : Instr) (r : Req) (s : State) : State :=
  match c with
  | .chanConfig _ _ => appChan (rd r.p 0 2) (rd r.p 2 1) (rd r.p 3 1) (some (rd r.p 4 1)) s
  | .wbConfig _ _ => appWbConfig r s
  | .wbComparator _ _ => appWbComparator r s
  | .excConfig _ _ => appExcConfig r s
  | .feRoute _ _ => appFeRoute r s
  | .auxScanLoad _ _ => appAuxScanLoad r s
  | .auxTimer _ _ => appAuxTimer r s
  | .linSet _ _ => appLinSet r s
  | .voutSet _ _ => appVoutSet r s
  | .voutStop _ _ => appVoutStop r s
  | .calBegin _ _ => appCalBegin o r s
  | .calPoint _ _ => appCalPoint o r s
  | .calEnd _ _ => appCalEnd o r s
  | .calAbort _ _ => appCalAbort o r s
  | .filtSelect _ _ => appFiltSelect o r s
  | .filtSetDefine _ _ => appFiltSetDefine r s
  | .filtCoefWrite _ _ => appFiltCoefWrite r s
  | .filtSwap _ _ => appFiltSwap o r s
  | .streamDefine _ _ => appStreamDefine r s
  | .streamEnable _ _ => appStreamEnable r s
  | .streamDisable _ _ => appStreamDisable r s
  | .streamRelease _ _ => appStreamRelease r s
  | .memPlan _ _ => appMemPlan r s
  | .scrubConfig _ _ => appScrubConfig r s
  | .trigSeqLoad _ _ => appTrigSeqLoad r s
  | .trigGroupDefine _ _ => appTrigGroupDefine r s
  | .trigArm _ _ => appTrigArm r s
  | .trigDisarm _ _ => appTrigDisarm r s
  | .trigForce _ _ => appTrigForce o r s
  | .recRelease _ _ => appRecRelease r s
  | .histDefine _ _ => appHistDefine r s
  | .ptpConfig _ _ => appPtpConfig r s
  | .timeSet _ _ => appTimeSet r s
  | .synceConfig _ _ => appSynceConfig r s
  | .tsCorrection _ _ => appTsCorrection r s
  | .beaconSet _ _ => appBeaconSet r s
  | .beaconStop _ _ => appBeaconStop r s
  | .eventConfig _ _ => appEventConfig r s
  | .loopDefine _ _ => appLoopDefine r s
  | .wickConfig _ _ => appWickConfig r s
  | .pairDefine _ _ => appPairDefine r s
  | .cooperJob _ _ => appCooperJob o r s
  | .cooperCancel _ _ => appCooperCancel r s
  | .funcEnable _ _ => appFuncEnable o r s
  | .funcDisable _ _ => appFuncDisable o r s
  | .funcRenew _ _ => appFuncRenew o r s
  | .legacySubstitute _ _ => appLegacySubstitute o r s
  | .legacyRelease _ _ => appLegacyRelease o r s
  | .planeStart _ _ => appPlaneStart r s
  | .planeStop _ _ => appPlaneStop r s
  | .fwWrite _ _ => appFwWrite r s
  | .fwVerify _ _ => appFwVerify o r s
  | .fwActivate _ _ => appFwActivate o r s
  | .monConfig _ _ => appMonConfig r s
  | .netPortConfig _ _ => appNetPortConfig r s
  | .netAddr _ _ => appNetAddr r s
  | .ringConfig _ _ => appRingConfig r s
  | .collectorSet _ _ => appCollectorSet r s
  | .l2Chan _ _ => appChan (rd r.p 0 1) (rd r.p 1 1) (rd r.p 2 1) none s
  | .l2Subst _ _ => appLegacySubstitute o (asLegacy r) s
  | .l2Unsubst _ _ => appLegacyRelease o (asLegacy r) s
  | _ => s

/-- What a validated command does at once, beside what it stages. -/
def actCmd (o : Owed) (c : Instr) (a : Ans) (r : Req) (s : State) : State :=
  match c, a with
  | .calCompute _ _, .reply _ _ => actCalCompute r s
  | .calCommit _ _, .act _ _ => actCalCommit o r s
  | .cooperFlush _ _, .act _ _ => actCooperFlush r s
  | .loopMode _ _, .act _ _ => actLoopMode o r s
  | .loopParam _ _, .act _ _ => actLoopParam r s
  | .loopInject _ _, .act _ _ => actLoopInject o r s
  | .filtSelect _ _, .act _ _ => holdSelect (rd r.p 0 2) (rd r.p 2 1) (rd r.p 3 1) (rd r.p 4 1) r.tick o s
  | .filtSwap _ _, .act _ _ => s.onChd fun x => { x with deferred := some { k := rd r.p 0 1, tick := r.tick, owed := o, since := s.tb.tick } }
  | .trigArm _ _, _ => propagate true r s
  | .trigDisarm _ _, _ => propagate false r s
  | _, _ => s

/-- What the refusal of a command does beside its answer (R258). -/
def refuseCmd (c : Instr) (st : Status) (r : Req) (s : State) : State :=
  match c with
  | .funcRenew _ _ => if st = .functionState then renewRefused r.h.func.toNat s else s
  | _ => s

/-- The function that a staged change is for (R370); 0xFFFF for none. -/
def cmdFunc (c : Instr) (r : Req) : Nat :=
  match c with
  | .chanConfig _ _ => rd r.p 0 2
  | .wbConfig _ _ => 528 + rd r.p 0 1
  | .wbComparator _ _ => 528 + rd r.p 0 1
  | .excConfig _ _ => fnBank (rd r.p 0 1 / 8)
  | .feRoute _ _ => (if rd r.p 1 1 = 32 then 512 + rd r.p 0 1 else 32 * rd r.p 0 1 + rd r.p 1 1)
  | .auxScanLoad _ _ => fnAuxConv (rd r.p 4 1)
  | .auxTimer _ _ => fnAuxConv (rd r.p 0 1)
  | .linSet _ _ => rd r.p 0 2
  | .voutSet _ _ => fnVout (rd r.p 0 1)
  | .voutStop _ _ => fnVout (rd r.p 0 1)
  | .calBegin _ _ => rd r.p 0 2
  | .calPoint _ _ => rd r.p 0 2
  | .calCommit _ _ => rd r.p 0 2
  | .calEnd _ _ => rd r.p 0 2
  | .calAbort _ _ => rd r.p 0 2
  | .filtSelect _ _ => rd r.p 0 2
  | .filtSetDefine _ _ => fnChandler
  | .filtCoefWrite _ _ => fnChandler
  | .filtSwap _ _ => fnChandler
  | .scrubConfig _ _ => 0x328
  | .trigSeqLoad _ _ => fnSeqr (rd r.p 4 1)
  | .histDefine _ _ => rd r.p 0 2
  | .ptpConfig _ _ => fnServo
  | .timeSet _ _ => fnServo
  | .synceConfig _ _ => fnServo
  | .tsCorrection _ _ => fnPort (rd r.p 0 1)
  | .beaconSet _ _ => fnBeacon (rd r.p 0 1)
  | .beaconStop _ _ => fnBeacon (rd r.p 0 1)
  | .eventConfig _ _ => fnEvent (rd r.p 0 1)
  | .cooperJob _ _ => fnCooper
  | .cooperCancel _ _ => fnCooper
  | .funcEnable _ _ => r.h.func.toNat
  | .funcDisable _ _ => r.h.func.toNat
  | .funcRenew _ _ => r.h.func.toNat
  | .legacySubstitute _ _ => r.h.func.toNat
  | .legacyRelease _ _ => r.h.func.toNat
  | .monConfig _ _ => fnMon (rd r.p 0 1)
  | .netPortConfig _ _ => fnPort (rd r.p 0 1)
  | .l2Chan _ _ => rd r.p 0 1
  | .l2Subst _ _ => r.h.func.toNat
  | .l2Unsubst _ _ => r.h.func.toNat
  | _ => 0xFFFF

/-- The validation of one part of a multi-part command as it arrives (R371). -/
def chkPart (op k : Nat) (p : List Byte) : Ans :=
  match op with
  | 0x0210 => chkScanPart k p
  | 0x0408 => chkSetPart k p
  | 0x0501 => chkStreamPart k p
  | 0x0601 => chkSeqPart k p
  | 0x0602 => chkGroupPart k p
  | _ => .reply 0 []

/-- The target that a staged change of R494, R95, R109 or R166 holds: a class of commands and a number in it. -/
def cmdTarget (c : Instr) (r : Req) : Option (Nat × Nat) :=
  match c with
  | .streamDefine _ _ => some (0, rd r.p 4 1)
  | .streamEnable _ _ | .streamDisable _ _ | .streamRelease _ _ => some (0, rd r.p 0 1)
  | .histDefine _ _ => some (1, 256 * rd r.p 0 2 + rd r.p 2 1)
  | .trigSeqLoad _ _ => some (2, rd r.p 4 1)
  | .trigGroupDefine _ _ => some (3, rd r.p 4 1)
  | .trigArm _ _ | .trigDisarm _ _ => some (3, rd r.p 0 1)
  | .loopDefine _ _ => some (4, rd r.p 0 1)
  | .excConfig _ _ => some (5, rd r.p 0 1)
  | .feRoute _ _ => some (6, 64 * rd r.p 0 1 + rd r.p 1 1)
  | .linSet _ _ => some (7, rd r.p 0 2)
  | _ => none

/-- The bank whose spare a command needs, for which no FE_ROUTE may be staged (R334, R354, R467). -/
def cmdBank (c : Instr) (r : Req) : Option Nat :=
  let of (n : Nat) : Option Nat := if n < 528 then some (bankOf n) else if 0x260 ≤ n ∧ n < 0x270 then some (n - 0x260) else none
  match c with
  | .calBegin _ _ => of (rd r.p 0 2)
  | .funcRenew _ _ => of r.h.func.toNat
  | .legacySubstitute _ _ | .legacyRelease _ _ | .l2Subst _ _ | .l2Unsubst _ _ => of r.h.func.toNat
  | _ => none

end Sys2Proof.Machine
end

