-- ==== Sys2Proof/Machine/RegMap.lean ====
section
/-! DEFINITION. What a read of BAR0 returns: the register map of R399 and its blocks (R41, R304, R356, R397, R405 to R407,
R412 to R416, R423). Every word is given as a number below 2^32 for a requester, 0 PCI Express and 1 SPI. -/
namespace Sys2Proof.Machine

/-- The number under which the hub keeps a requester's RC values (R401). -/
def rcIdx : Requester → Nat
  | .pcie => 0 | .spi => 1 | .collA => 2 | .collB => 3

def lo32 (v : Nat) : Nat := v % 2 ^ 32
def hi32 (v : Nat) : Nat := v / 2 ^ 32 % 2 ^ 32

/-! ### GLB and TMB (R405, R406) -/

def tempWord (s : State) (d : Nat) : Nat := unsgn 16 (tget s.glb.dieTemp d 0)

def glbStatus (s : State) : Nat :=
  let p := s.pwr
  b2n p.pwrfail * 128 + b2n p.plane * 64 + p.llActive * 32 + b2n (tget p.llUp 1 false) * 16 + b2n (tget p.llUp 0 false) * 8 + b2n p.fwUp * 4
    + b2n p.protLocked * 2 + b2n p.memReady

def regGlb (s : State) (o : Nat) : Nat :=
  match o with
  | 0x00 => 0x05121100 + (if s.pwr.fwUp then s.pwr.fwLevel % 256 else 0)
  | 0x04 => s.pwr.hub.toNat
  | 0x08 => s.pwr.bootCount.toNat
  | 0x0C => glbStatus s
  | 0x10 => tempWord s 0
  | 0x14 => tempWord s 1
  | 0x18 => tempWord s 2
  | 0x1C => tempWord s 3
  | 0x20 => tempWord s 4
  | 0x24 => s.glb.vcore % 65536
  | 0x30 => s.glb.bar2Denied.toNat
  | 0x34 => s.glb.bar2Writes.toNat
  | 0x38 => s.glb.badAccess.toNat
  | 0x40 => lo32 s.pwr.fuses.serial.toNat
  | 0x44 => hi32 s.pwr.fuses.serial.toNat
  | _ => 0

/-- The 48-bit hardware time of an instant in refs (R406). -/
def hwTime (t : Nat) : BitVec 48 := BitVec.ofNat 48 (t * fuPerRef)

def regTmb (s : State) (o : Nat) : Nat :=
  let b := s.tb
  if 0x100 ≤ o ∧ o < 0x300 then
    let d := tdcOf s ((o - 0x100) / 16)
    (match o % 16 with | 0 => lo32 d.last.toNat | 4 => hi32 d.latched.toNat | 8 => d.edges.toNat | _ => d.misses.toNat)
  else match o with
    | 0x00 => b.markSeq.toNat
    | 0x04 => timeCode b.state
    | 0x08 => unsgn 16 b.utcOffset
    | 0x10 => lo32 b.tickNum.toNat
    | 0x14 => hi32 b.tickNum.toNat
    | 0x18 => lo32 b.tickSec.toNat
    | 0x1C => hi32 b.tickSec.toNat
    | 0x20 => b.tickNsec.toNat
    | 0x24 => b.tickHw.toNat
    | 0x28 => lo32 (unsgn 64 b.offset)
    | 0x2C => hi32 (unsgn 64 b.offset)
    | 0x30 => unsgn 32 b.freq
    | 0x34 => b.servoUpd.toNat
    | 0x40 => (hwTime s.now).toNat / 65536
    | 0x44 => b.nowLatch.toNat % 65536
    | _ => 0

/-! ### FRS, MBX, NTQ (R356, R397, R407) -/

def regFrs (s : State) (r : Requester) (id o : Nat) : Nat :=
  let f := fnOf s id
  if !fnExists id then 0
  else if o = 0 then b2n f.held
  else f.standIn % 65536 * 65536 + f.cause % 256 * 256 + b2n (mayWrite s r id) * 16 + b2n f.held * 8 + fnCode f.state

def regMbx (s : State) (r : Requester) (m o : Nat) : Nat :=
  let b := boxOf s m
  let k := rcIdx r
  if o < 0x100 then rd b.req o 4
  else if o < 0x200 then rd b.resp (o - 0x100) 4
  else match o with
    | 0x200 => b2n b.respIrq * 4
    | 0x204 => b.lastSeq.toNat * 65536 + b2n (tget b.foreign k false) * 128 + b2n (tget b.takeover k false) * 64 + b2n (!s.pwr.fwUp) * 32
        + b2n (tget b.overrun k false) * 16 + b2n (!b.asm.isEmpty) * 8 + b2n b.respReady * 2 + b2n b.busy
    | 0x208 => b.count.toNat
    | 0x20C => b.replayed.toNat
    | 0x210 => b.restarts.toNat
    | _ => 0

def regNtq (s : State) (r : Requester) (q o : Nat) : Nat :=
  let x := ntqOf s q
  let k := rcIdx r
  if o < 0x20 then (x.head.getD (o / 4) 0).toNat
  else match o with
    | 0x24 => x.level % 128
    | 0x28 => b2n x.p0Pend * 8 + b2n x.lvlPend * 4 + b2n x.p0En * 2 + b2n x.lvlEn
    | 0x2C => min x.backlog.length 1024 * 65536 + b2n (tget x.backlogFull k false) * 1024 + b2n x.damaged * 512 + b2n x.latch.isSome * 256 + min x.chain.length 64
    | 0x30 => x.posted.toNat
    | 0x34 => x.popped.toNat
    | 0x38 => x.dropped.toNat
    | 0x3C => x.coalesced.toNat
    | 0x40 => x.lost.toNat
    | 0x44 => (tget x.corrected k 0).toNat
    | 0x48 => (tget x.uncorr k 0).toNat
    | _ => 0

/-! ### LDG (R412) -/

def regLdgStream (s : State) (i o : Nat) : Nat :=
  let x := tget s.str.snap i {}
  match o with
  | 0x00 => lo32 x.cnt.p.toNat
  | 0x04 => hi32 x.cnt.p.toNat
  | 0x08 => lo32 x.cnt.m.toNat
  | 0x0C => hi32 x.cnt.m.toNat
  | 0x10 => lo32 x.cnt.a.toNat
  | 0x14 => hi32 x.cnt.a.toNat
  | 0x18 => lo32 x.cnt.d.toNat
  | 0x1C => hi32 x.cnt.d.toNat
  | 0x20 => lo32 x.cnt.f.toNat
  | 0x24 => hi32 x.cnt.f.toNat
  | 0x28 => b2n x.retained * 4 + b2n x.enabled * 2 + b2n x.brk
  | 0x2C => x.late.toNat
  | 0x30 => lo32 x.pool.cap
  | 0x34 => lo32 x.pool.free
  | 0x38 => lo32 x.pool.held
  | 0x3C => lo32 x.pool.reclaimed
  | _ => 0

def regLdg (s : State) (o : Nat) : Nat :=
  let t := s.str
  if o < 0x1000 then regLdgStream s (o / 0x40) (o % 0x40)
  else if 0x2000 ≤ o ∧ o < 0x2800 then (tget (tget t.snap ((o - 0x2000) / 32) {}).cause (o % 32 / 4) 0).toNat
  else if 0x1020 ≤ o ∧ o < 0x103C then lo32 (tget t.snapHeldR ((o - 0x1020) / 4) 0)
  else match o with
    | 0x1000 => t.checkSeq.toNat
    | 0x1004 => lo32 t.checkTick
    | 0x1008 => hi32 t.checkTick
    | 0x100C => b2n t.snapBreak
    | 0x1010 => lo32 t.snapFab.cap
    | 0x1014 => lo32 t.snapFab.free
    | 0x1018 => lo32 t.snapFab.held
    | 0x101C => lo32 t.snapFab.reclaimed
    | _ => 0

/-! ### MON and PACE (R41, R423) -/

def regMon (s : State) (m o : Nat) : Nat :=
  let x := monOf s m
  if 0x80 ≤ o then
    let i := (o - 0x80) / 4
    min (tget x.snap.bins (2 * i + 1) 0) 0xFFFF * 65536 + min (tget x.snap.bins (2 * i) 0) 0xFFFF
  else match o with
    | 0x00 => x.owner % 256 * 256 + b2n x.running * 16 + b2n x.auto * 8
    | 0x04 => x.winTicks % 65536
    | 0x08 => x.source % 65536
    | 0x0C => unsgn 32 x.binLo
    | 0x10 => lo32 x.binW
    | 0x14 => x.snapSeq.toNat
    | 0x18 => lo32 x.snapTick
    | 0x1C => hi32 x.snapTick
    | 0x20 => lo32 x.snap.count
    | 0x24 => hi32 x.snap.count
    | 0x28 => unsgn 32 x.snap.min
    | 0x2C => unsgn 32 x.snap.max
    | 0x30 => min x.live.count 0xFFFFFFFF
    | _ => 0

def regPace (s : State) (r : Requester) (n o : Nat) : Nat :=
  let p := paceOf s n
  let k := rcIdx r
  match o with
  | 0x00 => p.cycle.toNat
  | 0x04 => paceBudget n % 65536
  | 0x08 => unsgn 16 p.margin
  | 0x0C => unsgn 16 (tget p.minMargin k 0x7FFF)
  | 0x10 => unsgn 16 p.floor
  | 0x14 => unsgn 16 p.alarmLvl
  | 0x18 => b2n (tget p.overflow k false) * 8 + b2n p.valid * 4 + b2n (tget p.belowFloor k false) * 2 + b2n p.alarm
  | 0x1C => (tget s.pwr.fuses.paceBase n 0).toNat
  | _ => 0

/-! ### PRT (R413) -/

def regNet (s : State) (p o : Nat) : Nat :=
  let n := netOf s p
  match o with
  | 0x00 => (tget s.tb.ql p 0).toNat * 256 + b2n (s.tb.synceSel == some p) * 16 + b2n n.blocked * 8 + b2n n.link * 4 + n.mode % 4
  | 0x04 => unsgn 32 (txConst s p)
  | 0x08 => unsgn 32 (rxConst s p 0)
  | 0x0C => n.rxDiscard.toNat
  | 0x10 => n.discard.toNat
  | 0x14 => n.authFail.toNat
  | 0x18 => lo32 n.rxFrames.toNat
  | 0x1C => hi32 n.rxFrames.toNat
  | 0x20 => lo32 n.txFrames.toNat
  | 0x24 => hi32 n.txFrames.toNat
  | 0x28 => n.blockAlign.toNat
  | _ => 0

/-- The frequency of a value output in mHz, to the nearest (log 12): its setting, or the carrier of a pulse-width output. -/
def voutMilliHz (v : Vout) : Nat :=
  match v.cfg with
  | none => 0
  | some c =>
    if c.pwm then (if c.pc = 0 then 0 else refsPerSec * 1000 / c.pc)
    else if v.halted || !v.running then 0
    else ((F64.toInt (F64.mul v.f (F64.ofInt 1000))).getD 0).toNat

def regVout (s : State) (n o : Nat) : Nat :=
  let v := voutOf s n
  match o with
  | 0x00 => b2n v.onBad * 8 + b2n v.clamped * 4 + b2n ((v.cfg.map (·.pwm)).getD false) * 2 + b2n v.running
  | 0x04 => lo32 (voutMilliHz v)
  | 0x08 => lo32 v.high
  | 0x0C => v.badCnt.toNat
  | _ => 0

/-- The next leading edge of a beacon in 1/16 ref. -/
def nextPulse (b : Beacon) : Option Nat :=
  match b.cfg, b.edge with
  | some c, some e => if !b.inPulse then some e else if c.periodic then some (e - c.width + c.period) else none
  | _, _ => none

def regBeacon (s : State) (n o : Nat) : Nat :=
  let b := beaconOf s n
  match o with
  | 0x00 => b2n b.level * 4 + b2n ((b.cfg.map (·.periodic)).getD false) * 2 + b2n b.edge.isSome
  | 0x04 => b.pulses.toNat
  | 0x08 => (match nextPulse b with | some e => nsOf (e / 16) | none => 0)
  | _ => 0

def regDrive (s : State) (n o : Nat) : Nat :=
  let p := portOf s n
  match o with
  | 0x00 => lo32 p.last.toNat
  | 0x04 => hi32 p.latched.toNat
  | 0x08 => p.age.toNat
  | 0x0C => p.missing.toNat
  | 0x10 => p.crcErr.toNat
  | 0x14 => p.refused.toNat
  | 0x18 => b2n p.linkDown
  | _ => 0

def regIo (s : State) (o : Nat) : Nat :=
  let i := s.io
  match o with
  | 0x400 => b2n i.pLinkUp * 256 + i.pGen % 16 * 16 + i.pWidth % 16
  | 0x404 => i.pCorr.toNat
  | 0x408 => i.pUncorr.toNat
  | 0x440 => i.sCmdErr.toNat
  | 0x444 => i.sAborted.toNat
  | 0x448 => i.sWords.toNat
  | 0x480 => b2n i.qBusy
  | 0x484 => i.qErases.toNat
  | 0x488 => i.qPrograms.toNat
  | 0x48C => i.qVerify.toNat
  | 0x4C0 => b2n i.jActive
  | _ => 0

/-- The calibration reference of tile t. -/
def regCalRef (s : State) (t o : Nat) : Nat :=
  let x := tileOf s t
  match o with
  | 0x00 => b2n (busBusy s (4 * t + 3)) * 16 + b2n (busBusy s (4 * t + 2)) * 8 + b2n (busBusy s (4 * t + 1)) * 4 + b2n (busBusy s (4 * t)) * 2 + b2n x.refClamp
  | 0x04 => x.refEvents.toNat
  | _ => 0

def regPrt (s : State) (o : Nat) : Nat :=
  if o < 0x100 then regNet s (o / 0x40) (o % 0x40)
  else if o < 0x1000 then regIo s o
  else if o < 0x1800 then regDrive s ((o - 0x1000) / 0x40) (o % 0x40)
  else if 0x2000 ≤ o ∧ o < 0x2800 then regVout s ((o - 0x2000) / 0x40) (o % 0x40)
  else if 0x3000 ≤ o ∧ o < 0x3400 then
    (if o % 0x40 = 0 then b2n (tget s.tb.evtLevel ((o - 0x3000) / 0x40) false) * 4 + tget s.tb.evtEdges ((o - 0x3000) / 0x40) 0 % 4 else 0)
  else if 0x3400 ≤ o ∧ o < 0x3800 then regBeacon s ((o - 0x3400) / 0x40) (o % 0x40)
  else if 0x3800 ≤ o ∧ o < 0x3900 then regCalRef s ((o - 0x3800) / 0x40) (o % 0x40)
  else 0

/-! ### LOOP, BNK, CHN, DIAG (R304, R414 to R416) -/

def regLoop (s : State) (r : Requester) (n o : Nat) : Nat :=
  if o < 0x50 then ((loopImage s n (rcIdx r)).getD (o / 4) 0).toNat else 0

/-- Whether a change of a kind is staged. -/
def stagedFor (s : State) (f : Instr → Bool) : Bool := s.mbx.staged.any fun g => f g.cmd

/-- A group's status word (R414). -/
def excStatus (s : State) (g : Nat) : Nat :=
  let e := excOf s g
  b2n (stagedFor s fun c => match c with | .excConfig _ p => rd p 0 1 == g | _ => false) * 512 + b2n e.shutOff * 256 + b2n (decide (s.now < e.settleEnd)) * 128
    + b2n (groupWire s g) * 64 + b2n e.limit * 32 + b2n e.dropout * 16 + b2n e.sense * 8 + excMode s g % 8

def vinWord (e : Exc) (k : Nat) : Nat := unsgn 16 (e.vin.getD (2 * k + 1) 0) * 65536 + unsgn 16 (e.vin.getD (2 * k) 0)

def regExc (s : State) (g o : Nat) : Nat :=
  let e := excOf s g
  match o with
  | 0x00 => excStatus s g
  | 0x04 => lo32 e.iMean
  | 0x08 => unsgn 32 e.vMean
  | 0x0C => vinWord e 0
  | 0x10 => vinWord e 1
  | 0x14 => lo32 (milliW e.pG)
  | _ => 0

/-- The present clamp flags of a bank: `DIST`, a wideband pin, the spare. -/
def bankFlags (s : State) (b : Nat) : Nat :=
  let ps := bankClamps s b
  let dist := (bankSlots b).any fun n => ps.any fun p => !pinConnected s n p
  b2n dist * 4 + b2n (ps.any fun p => match p with | .wb _ _ => true | _ => false) * 2 + b2n (ps.any (pinConnected s (512 + b)))

/-- The front-end routes of 16 positions, 2 bits each. -/
def routesWord (s : State) (b k : Nat) : Nat :=
  (List.range 16).foldl (fun a i => a + routeCode (chanOf s (32 * b + 16 * k + i)).route % 4 * 4 ^ i) 0

def clampMask (s : State) (b : Nat) : Nat :=
  (List.range 32).foldl (fun a i => a + b2n ((bankSt s b).clampPins.any fun p => match p with | .ain n _ => n.val == 32 * b + i | _ => false) * 2 ^ i) 0

def regTile (s : State) (t o : Nat) : Nat :=
  match o with
  | 0x200 => lo32 (milliW (tileOf s t).power)
  | 0x204 => lo32 (tileOf s t).overTicks
  | 0x208 => (auxOf s t).late.toNat
  | 0x20C => (auxOf s t).missed.toNat
  | 0x210 => lo32 (tileOf s t).vexc
  | _ => 0

def regBnk (s : State) (b o : Nat) : Nat :=
  let x := bankSt s b
  let sp := chanOf s (512 + b)
  if 0x20 ≤ o ∧ o < 0x120 then regExc s (8 * b + (o - 0x20) / 32) (o % 32)
  else if 0x200 ≤ o then (if b % 4 = 0 then regTile s (b / 4) o else 0)
  else match o with
    | 0x00 => b2n (busBusy s b) * 2048 + b2n (routeStaged s b) * 1024 + b2n (bankSess s b).isSome * 512 + b2n x.legacyHeld * 256
        + (if sp.route = .channel then x.spareK % 64 else 0) * 4 + routeCode sp.route % 4
    | 0x04 => routesWord s b 0
    | 0x08 => routesWord s b 1
    | 0x0C => clampMask s b
    | 0x10 => bankFlags s b
    | _ => 0

/-- The quality of a slot's correction in force (R346, R415). -/
def calQ (s : State) (n : Nat) : Nat :=
  if n < 528 then (tget s.lin.corr (corrKey n (chanOf s n).gain) {}).q
  else if isAux n then
    (match auxNewest s n with
     | a :: _ => (tget s.lin.corr (auxCorrKey ((n - 544) / 16) a.mode a.gain) {}).q
     | [] => 0)
  else 0

def regChn (s : State) (r : Requester) (n o : Nat) : Nat :=
  let c := chanOf s n
  let k := rcIdx r
  match o with
  | 0x00 => c.raw.toNat
  | 0x04 => if 528 ≤ n then 0 else c.eng.toNat
  | 0x08 => lo32 c.index
  | 0x0C => hi32 c.index
  | 0x10 => b2n ((sessOf s n).isSome || (isAux n && (sessOf s (0x274 + (n - 544) / 16)).isSome)) * 32768 + b2n (spareKeeps s n) * 16384
      + routeCode c.route % 4 * 4096 + (if isWb n then 15 else c.rate % 16) * 256 + c.set % 8 * 32 + b2n c.bias * 16 + c.gain % 8 * 2 + b2n c.enabled
  | 0x14 => (tget c.flagOr k 0).toNat
  | 0x18 => c.staleEvals.toNat
  | 0x1C => c.wireEvents.toNat
  | 0x20 => c.clampEv.toNat
  | 0x24 => (tget c.ovrCnt k 0).toNat
  | 0x28 => calQ s n % 65536
  | 0x2C => min (s.str.red.filter fun x => x.slot == n).length 4
  | 0x3C => c.mirrorSeq.toNat
  | _ => 0

def regDiag (s : State) (o : Nat) : Nat :=
  let m := s.rm
  if o < 0x220 then
    let c := tget m.bankCnt (o / 16) {}
    (match o % 16 with | 0 => c.lastSweep.toNat | 4 => lo32 c.total.toNat | 8 => hi32 c.total.toNat | _ => c.uncorr.toNat)
  else if 0x410 ≤ o ∧ o < 0x490 then physOf s ((o - 0x410) / 4) % 256
  else match o with
    | 0x400 => m.sweeps.toNat * 256 + ((m.mig.map (·.bank)).getD 0) % 64 * 2 + b2n (match m.mig with | some g => g.phase == .copying | none => false)
    | 0x404 => lo32 m.pos
    | 0x408 => lo32 (m.poison.words.length + m.llPoison.words.length)
    | 0x40C => (m.sparePhys.getD 0xFF) % 256
    | _ => 0

/-! ### The map (R399) -/

/-- The block at an address of BAR0, with its instance and the offset in it. -/
inductive Blk where
  | glb (o : Nat) | tmb (o : Nat) | frs (id o : Nat) | mbx (m o : Nat) | ntq (q o : Nat) | ldg (o : Nat) | mon (m o : Nat) | pace (n o : Nat)
  | prt (o : Nat) | loop (n o : Nat) | bnk (b o : Nat) | chn (n o : Nat) | diag (o : Nat) | none
deriving DecidableEq, Repr

def blkOf (a : Nat) : Blk :=
  if a < 0x1000 then .glb a
  else if a < 0x2000 then .tmb (a - 0x1000)
  else if a < 0x4000 then .frs ((a - 0x2000) / 8) (a % 8)
  else if a < 0x8000 then .mbx ((a - 0x4000) / 0x800) (a % 0x800)
  else if a < 0x9000 then .ntq ((a - 0x8000) / 0x400) (a % 0x400)
  else if 0x10000 ≤ a ∧ a < 0x12800 then .ldg (a - 0x10000)
  else if 0x20000 ≤ a ∧ a < 0x22000 then .mon ((a - 0x20000) / 0x100) (a % 0x100)
  else if 0x30000 ≤ a ∧ a < 0x30300 then .pace ((a - 0x30000) / 0x20) (a % 0x20)
  else if 0x40000 ≤ a ∧ a < 0x44000 then .prt (a - 0x40000)
  else if 0x80000 ≤ a ∧ a < 0x82000 then .loop ((a - 0x80000) / 0x100) (a % 0x100)
  else if 0x100000 ≤ a ∧ a < 0x104000 then .bnk ((a - 0x100000) / 0x400) (a % 0x400)
  else if 0x200000 ≤ a ∧ a < 0x200000 + 608 * 0x40 then .chn ((a - 0x200000) / 0x40) (a % 0x40)
  else if 0x400000 ≤ a ∧ a < 0x401000 then .diag (a - 0x400000)
  else .none

/-- The value of the 32-bit register at an aligned address, before any effect of the read. -/
def regVal (s : State) (r : Requester) (a : Nat) : Nat :=
  match blkOf a with
  | .glb o => regGlb s o
  | .tmb o => regTmb s o
  | .frs id o => regFrs s r id o
  | .mbx m o => regMbx s r m o
  | .ntq q o => regNtq s r q o
  | .ldg o => regLdg s o
  | .mon m o => regMon s m o
  | .pace n o => regPace s r n o
  | .prt o => regPrt s o
  | .loop n o => regLoop s r n o
  | .bnk b o => regBnk s b o
  | .chn n o => regChn s r n o
  | .diag o => regDiag s o
  | .none => 0

/-! ### Reads with side effects (R401) -/

/-- An RC field cleared for one requester. -/
def rcClear (s : State) (r : Requester) (a : Nat) : State :=
  let k := rcIdx r
  match blkOf a with
  | .mbx m 0x204 => s.onBox m fun b => { b with foreign := tdel b.foreign k, takeover := tdel b.takeover k, overrun := tdel b.overrun k }
  | .ntq q 0x2C => s.onNtq q fun x => { x with backlogFull := tdel x.backlogFull k }
  | .ntq q 0x44 => s.onNtq q fun x => { x with corrected := tdel x.corrected k }
  | .ntq q 0x48 => s.onNtq q fun x => { x with uncorr := tdel x.uncorr k }
  | .pace n 0x0C => s.onPace n fun p => { p with minMargin := tdel p.minMargin k }
  | .pace n 0x18 => s.onPace n fun p => { p with overflow := tdel p.overflow k, belowFloor := tdel p.belowFloor k }
  | .loop n 0x34 => s.onLoop n fun l => { l with reg := { l.reg with staleCnt := tdel l.reg.staleCnt k } }
  | .loop n 0x38 => s.onLoop n fun l => { l with reg := { l.reg with minHolds := tdel l.reg.minHolds k } }
  | .chn n 0x14 => s.onChan n fun c => { c with flagOr := tdel c.flagOr k }
  | .chn n 0x24 => s.onChan n fun c => { c with ovrCnt := tdel c.ovrCnt k }
  | _ => s

def latchNow (t : Nat) (s : State) : State := s.onTb fun b => { b with nowLatch := hwTime t }

def latchStamp (i : Nat) (s : State) : State := s.onTdc i fun d => { d with latched := d.last }

/-- The port's last status frame and its age latched (R413). -/
def latchDrive (n t : Nat) (s : State) : State := s.onPort n fun p => { p with latched := p.last, age := BitVec.ofNat 32 (t - p.lastEnd) }

/-- A read of one 32-bit register: its value, and the state after its side effect. -/
def readReg (r : Requester) (a : Nat) (s : State) : Nat × State :=
  match blkOf a with
  | .ntq q 0x00 =>
    if h : q < 4 then
      let s := nextOf s (execNtqHeadRead ⟨q, h⟩ [] s)
      (regVal s r a, s)
    else (0, s)
  | .tmb 0x40 => (regVal s r a, latchNow s.now s)
  | .tmb o => (regVal s r a, if 0x100 ≤ o ∧ o < 0x300 ∧ o % 16 = 0 then latchStamp ((o - 0x100) / 16) s else s)
  | .prt o => (regVal s r a, if 0x1000 ≤ o ∧ o < 0x1800 ∧ o % 0x40 = 0 then latchDrive ((o - 0x1000) / 0x40) s.now s else s)
  | _ => (regVal s r a, rcClear s r a)

end Sys2Proof.Machine
end

