-- ==== Sys2Proof/Machine/Mailbox.lean ====
section
/-! DEFINITION. Mailboxes: taking a request (R355 to R358), replay and takeover (R364, R366), validation against the
configuration in force at the apply tick (R362, R493, R494), multi-part assemblies (R371), and the command rows. -/
namespace Sys2Proof.Machine

/-- The requester that owns a mailbox (R355). -/
def ownerOf (m : Nat) : Requester := if m < 4 then .pcie else if m < 6 then .spi else if m = 6 then .collA else .collB

/-- A flag that each reader clears for itself (R401), set for both. -/
def bothSet : Tab Bool := [(0, true), (1, true)]

/-- A write of another requester discarded (R355). -/
def foreignWrite (m : Nat) (s : State) : State := s.onBox m fun b => { b with foreign := bothSet }

/-- `RING` while `BUSY` (R357). -/
def overrunBox (m : Nat) (s : State) : State := s.onBox m fun b => { b with overrun := bothSet }

/-- Whether mailboxes take requests: firmware runs, and power has not failed (R356, R451). -/
def takesRequests (s : State) : Bool := s.pwr.fwUp && !s.pwr.pwrfail

/-- A request taken (R357). -/
def takeReq (m : Nat) (t : Taken) (s : State) : State :=
  s.onBox m fun b => { b with respReady := false, busy := true, count := b.count + 1, taken := some t, rungAt := s.now }

/-- The request that a buffer's bytes spell (R359). -/
def takenOf (m : Fin 8) (q : List Byte) : Taken :=
  { opcode := rd q 0 2, pay := (q.drop 16).take (min 240 (rd q 4 2)),
    hdr := { mbx := m, seq := BitVec.ofNat 16 (rd q 2 2), length := BitVec.ofNat 16 (rd q 4 2), flags := BitVec.ofNat 16 (rd q 6 2),
             applyTick := BitVec.ofNat 32 (rd q 8 4), func := BitVec.ofNat 16 (rd q 12 2), res := BitVec.ofNat 16 (rd q 14 2) } }

/-! ### What is answered before validation (R363, R364, R368) -/

/-- A refusal's or an answer's response at the present tick. -/
def respNow (t : Taken) (st : Status) (detail : Nat) (pay : List Byte) (s : State) : Resp :=
  { opcode := t.opcode, seq := t.hdr.seq, status := st, tick := s.tb.tick % 2 ^ 32, detail := detail, payload := pay }

/-- `PART` in the upper half of a DETAIL of a multi-part command (R371). -/
def partDetail (i : OpInfo) (p : List Byte) : Nat := if i.multi then 65536 * rd p 0 2 else 0

/-- A request of the log, an unknown opcode, a header that fails, or a missing class: the state with its answer. -/
def preAnswer (m : Nat) (t : Taken) (s : State) : Option State :=
  let b := boxOf s m
  match b.log.find? fun e => e.req.hdr.seq == t.hdr.seq with
  | some e =>
    if takenBytes e.req = takenBytes t then
      some ((writeResp m e.resp s).onBox m fun b => { b with replayed := b.replayed + 1 })
    else some (answer m t (respNow t .staleSequence 0 [] s) s)
  | none =>
    match opInfo t.opcode with
    | none => some (answer m t (respNow t .badOpcode 0 [] s) s)
    | some i =>
      match headBad i t.hdr t.pay with
      | some o => some (answer m t (respNow t .badArgument (partDetail i t.pay + o) [] s) s)
      | none =>
        if bit (protOf s (protEntry s m)).classes.toNat i.cls then none
        else some (answer m t (respNow t .notPermitted i.cls [] s) s)

/-! ### Apply tick, projection and validation (R362, R369, R493, R494) -/

/-- The apply tick of a request (R362); none where it is refused at offset 8. -/
def applyTickOf (h : ReqHdr) (cur : Nat) : Option Nat :=
  if !bit h.flags.toNat 0 then some (cur + 1)
  else
    let d := (h.applyTick.toNat + 2 ^ 32 - cur % 2 ^ 32) % 2 ^ 32
    if 0 < d && d < 2 ^ 31 then (if 2 ^ 24 < d then none else some (cur + d))
    else if bit h.flags.toNat 2 then some (cur + 1) else none

/-- The request of a staged change. -/
def reqOf (g : Staged) : Req := { h := g.hdr, op := g.opcode, parts := g.parts, tick := g.tick }

def owedOf (g : Staged) : Owed := { mbx := g.hdr.mbx.val, opcode := g.opcode, seq := g.hdr.seq }

/-- A staged change takes effect at its tick. -/
def applyStaged (s : State) (g : Staged) : State := appCmd (owedOf g) g.cmd (reqOf g) s

/-- A staged change put into a list by its tick, behind those of the same tick (R369). -/
def insStaged (g : Staged) : List Staged → List Staged
  | [] => [g]
  | x :: t => if g.tick < x.tick then g :: x :: t else x :: insStaged g t

/-- Staged changes in the order in which they apply. -/
def inOrder (xs : List Staged) : List Staged := xs.foldl (fun l g => insStaged g l) []

def isSelect (c : Instr) : Bool := match c with | .filtSelect _ _ => true | _ => false
def isSwap (c : Instr) : Bool := match c with | .filtSwap _ _ => true | _ => false

/-- A change of a list applied: a FILT_SELECT for the tick of a FILT_SWAP of the list waits behind it (R154). -/
def applyOne (due : List Staged) (s : State) (g : Staged) : State :=
  if isSelect g.cmd && due.any (fun x => isSwap x.cmd && x.tick == g.tick) then
    let p := (reqOf g).p
    holdSelect (rd p 0 2) (rd p 2 1) (rd p 3 1) (rd p 4 1) g.tick (owedOf g) s
  else applyStaged s g

/-- A staged change applied at its own tick in a projection. -/
def applyAhead (due : List Staged) (s : State) (g : Staged) : State :=
  applyOne due ({ s with now := max s.now (g.tick * tickRefs) }.onTb fun b => { b with tick := g.tick }) g

/-- The configuration in force at a tick (R493): every change staged for it or earlier applied in order. -/
def project (tk : Nat) (s : State) : State :=
  let due := inOrder (s.mbx.staged.filter fun g => decide (g.tick ≤ tk))
  let p := due.foldl (applyAhead due) { s with mbx := { s.mbx with staged := s.mbx.staged.filter fun g => decide (tk < g.tick) } }
  { p with now := s.now, tb := { p.tb with tick := s.tb.tick } }

/-- Whether an answer refuses a command at its apply tick. A FILT_SWAP or FILT_SELECT is held back there, not refused, where
another comes before it (R154, R156). -/
def meets (c : Instr) (a : Ans) : Bool :=
  match a with
  | .refuse .busy _ => !(isSwap c || isSelect c)
  | a => a.refused

/-- The refusal that a change staged for a later tick would meet after a new one, and would not meet without it (R493). -/
def laterRefusal : List Staged → State → State → Option Ans
  | [], _, _ => none
  | g :: t, without, with_ =>
    let a := chkCmd false g.cmd without (reqOf g)
    let b := chkCmd false g.cmd with_ (reqOf g)
    if meets g.cmd b && !meets g.cmd a then some b else laterRefusal t (applyAhead [] without g) (applyAhead [] with_ g)

/-- The refusal that a held FILT_SELECT would meet after a new request, and would not meet without it (R154, R493). -/
def heldRefusal (without with_ : State) : Option Ans :=
  (without.chd.held.find? fun h =>
    !(selectCheck usesSlot h.slot h.rate h.set without).refused && (selectCheck usesSlot h.slot h.rate h.set with_).refused).map fun h =>
      selectCheck usesSlot h.slot h.rate h.set with_

/-- Whether a FILT_SWAP is staged (R154). -/
def swapStaged (s : State) : Bool := s.mbx.staged.any fun g => isSwap g.cmd

/-- Whether a staged change holds a command's target, or an FE_ROUTE its bank. -/
def conflicts (c : Instr) (r : Req) (s : State) : Bool :=
  (match cmdTarget c r with | some t => s.mbx.staged.any fun g => cmdTarget g.cmd (reqOf g) == some t | none => false)
  || (match cmdBank c r with | some b => routeStaged s b | none => false)

def isBadArg : Ans → Bool
  | .refuse .badArgument _ => true
  | _ => false

/-- A loop's staged parameters, mode and injection. -/
def loopStaged (l : Loop) : Nat := b2n l.stgPar.isSome + b2n l.stgMode.isSome + b2n l.stgInj.isSome

/-- The staged changes of R369: those of the list, the held FILT_SELECT and the deferred FILT_SWAP of Chandler, and those
that the loops hold. -/
def stagedCount (s : State) : Nat :=
  s.mbx.staged.length + s.chd.held.length + b2n s.chd.deferred.isSome + ((List.range 32).map fun n => loopStaged (loopOf s n)).sum

/-- Whether the unit that takes a command at its validation holds it as a staged change. -/
def actStages (c : Instr) : Bool :=
  match c with
  | .loopMode _ _ | .loopParam _ _ | .loopInject _ _ | .filtSelect _ _ | .filtSwap _ _ => true
  | _ => false

/-- Validation (R493, R494). A command that only observes is checked against the present state. -/
def validate (o : Owed) (observe : Bool) (c : Instr) (r : Req) (s : State) : Ans :=
  if observe then chkCmd (swapStaged s) c s r
  else
    let base := project r.tick s
    let a := chkCmd (swapStaged s) c base r
    if isBadArg a then a
    else if conflicts c r s then .refuse .busy 0
    else match a with
      | .reply d p => .reply d p
      | _ =>
          let later := inOrder (s.mbx.staged.filter fun g => decide (r.tick < g.tick))
          let with_ (f : State → State) : State :=
            let n := f (base.onTb fun b => { b with tick := r.tick })
            { n with tb := { n.tb with tick := s.tb.tick } }
          match a with
          | .stage _ _ =>
            if 512 ≤ stagedCount s then .refuse .noSpace 0
            else (laterRefusal later base (with_ (appCmd o c r)) <|> heldRefusal base (with_ (appCmd o c r))).getD a
          | .act _ _ =>
            if 512 ≤ stagedCount s && actStages c then .refuse .noSpace 0
            else (laterRefusal later base (with_ (actCmd o c a r))).getD a
          | _ => a

/-- The tick that an answer names (R360). -/
def answerTick (op : Nat) (st : Status) (r : Req) (s : State) : Nat :=
  (if st = .ok ∧ op ≠ 0x0902 then r.tick else s.tb.tick) % 2 ^ 32

/-- A validated or refused request answered, staged or run. -/
def finish (m : Nat) (t : Taken) (c : Instr) (a : Ans) (r : Req) (s : State) : State :=
  let o : Owed := { mbx := m, opcode := t.opcode, seq := t.hdr.seq }
  let resp (st : Status) (d : Nat) : Resp := { opcode := t.opcode, seq := t.hdr.seq, status := st, tick := answerTick t.opcode st r s, detail := d }
  match a with
  | .refuse st d => answer m t (respNow t st d [] s) (refuseCmd c st r s)
  | .reply d p => answer m t (respNow t .ok d p s) (actCmd o c a r s)
  | .act st d => answer m t (resp st d) (actCmd o c a r s)
  | .stage st d =>
    let g : Staged := { tick := r.tick, opcode := t.opcode, hdr := t.hdr, cmd := c, parts := r.parts,
                        owed := st = .accepted ∨ st = .deferred, func := cmdFunc c r }
    let s := actCmd o c a r s
    answer m t (resp st d) { s with mbx := { s.mbx with staged := s.mbx.staged ++ [g] } }
  | .wait => { s with mbx := { s.mbx with waitLedger := s.mbx.waitLedger ++ [(m, t)] } }

/-- A request of one part. -/
def runSingle (m : Nat) (t : Taken) (i : OpInfo) (c : Instr) (s : State) : State :=
  match applyTickOf t.hdr s.tb.tick with
  | none => answer m t (respNow t .badArgument 8 [] s) s
  | some n =>
    let r : Req := { h := t.hdr, op := t.opcode, parts := [t.pay], tick := n }
    finish m t c (validate { mbx := m, opcode := t.opcode, seq := t.hdr.seq } (i.cls == 0) c r s) r s

/-! ### Multi-part assemblies (R371) -/

/-- Assemblies without a part for 1 000 ticks are discarded. -/
def dropOld (m : Nat) (s : State) : State :=
  s.onBox m fun b => { b with asm := b.asm.filter fun a => decide (s.tb.tick < a.last + 1000) }

/-- The target that a part names: in its own field, or, for later parts that carry none, that of the assembly of the
opcode that had a part last. -/
def partTarget (b : Mailbox) (t : Taken) : Nat :=
  if (t.opcode = 0x0501 ∨ t.opcode = 0x0602) ∧ rd t.pay 0 2 ≠ 0 then
    match b.asm.find? fun a => a.opcode == t.opcode with
    | some a => a.target
    | none => 0
  else rd t.pay 4 1

/-- Whether another mailbox has an assembly open for a target. -/
def openElsewhere (m op tgt : Nat) (s : State) : Bool :=
  (List.range 8).any fun k => k != m && (boxOf (dropOld k s) k).asm.any fun a => a.opcode == op && a.target == tgt

/-- One part of a multi-part command. -/
def runPart (m : Nat) (t : Taken) (c : Instr) (s : State) : State :=
  let s := dropOld m s
  let b := boxOf s m
  let k := rd t.pay 0 2
  let tgt := partTarget b t
  let isIt (a : Assembly) : Bool := a.opcode == t.opcode && a.target == tgt
  let parts := match b.asm.find? isIt with | some a => a.parts | none => []
  let rest := b.asm.filter fun a => !isIt a
  if k ≠ parts.length then
    answer m t (respNow t .badArgument (65536 * k + 16) [] s) (s.onBox m fun b => { b with asm := rest })
  else match chkPart t.opcode k t.pay with
    | .refuse st d => answer m t (respNow t st d [] s) s
    | _ =>
      if k = 0 && openElsewhere m t.opcode tgt s then answer m t (respNow t .busy 0 [] s) s
      else if !bit (rd t.pay 2 1) 0 then
        answer m t (respNow t .ok 0 [] s)
          (s.onBox m fun b => { b with asm := { opcode := t.opcode, target := tgt, parts := parts ++ [t.pay], last := s.tb.tick } :: rest })
      else match applyTickOf t.hdr s.tb.tick with
        | none => answer m t (respNow t .badArgument (65536 * k + 8) [] s) s
        | some n =>
          let r : Req := { h := t.hdr, op := t.opcode, parts := parts ++ [t.pay], tick := n }
          let a := validate { mbx := m, opcode := t.opcode, seq := t.hdr.seq } false c r s
          finish m t c a r (if a.refused then s else s.onBox m fun b => { b with asm := rest })

/-! ### A request served -/

/-- The active Lamplighter serves a taken request. -/
def runRequest (m : Nat) (t : Taken) (c : Instr) (s : State) : State :=
  match preAnswer m t s with
  | some s => s
  | none => match opInfo t.opcode with
    | some i => if i.multi then runPart m t c s else runSingle m t i c s
    | none => s

/-- A command row: its request is rung in its mailbox, or is the one that waits there, and it is served. -/
def serve (op : Nat) (c : Instr) (h : ReqHdr) (p : List Byte) (s : State) : Outc :=
  let m := h.mbx.val
  let t : Taken := { opcode := op, hdr := h, pay := padTo (min 240 h.length.toNat) p }
  if !takesRequests s then done s
  else
    let b := boxOf s m
    if b.busy && (b.taken != some t || s.mbx.waitLedger.any fun w => w.1 == m) then done (overrunBox m s)
    else
      let s := if b.busy then s else takeReq m t (s.onBox m fun b => { b with req := splice b.req 0 (takenBytes t ++ t.pay) })
      if s.pwr.llTakeover then done s else done (runRequest m t c s)

/-! ### MBX_RING, MBX_ACK, MULTIPART_TIMEOUT, MBX_REQ_DATAGRAM -/

/-- A taken request that needs no validation is answered at once; any other waits for its command row. -/
def ringTaken (m : Nat) (t : Taken) (s : State) : State :=
  let s := takeReq m t s
  if s.pwr.llTakeover then s else (preAnswer m t s).getD s

/-- MBX_RING (R355, R357). -/
def execMbxRing (r : Requester) (m : Fin 8) (s : State) : Outc :=
  if r ≠ ownerOf m.val then done (foreignWrite m.val s)
  else if !takesRequests s then done s
  else if (boxOf s m.val).busy then done (overrunBox m.val s)
  else done (ringTaken m.val (takenOf m (boxOf s m.val).req) s)

/-- MBX_ACK (R356): `RESP_READY` clears, and with it the response interrupt. -/
def execMbxAck (r : Requester) (m : Fin 8) (s : State) : Outc :=
  if r ≠ ownerOf m.val then done (foreignWrite m.val s) else done (s.onBox m.val fun b => { b with respReady := false })

/-- MULTIPART_TIMEOUT (R371). -/
def execMultipartTimeout (m : Fin 8) (s : State) : Outc := done (dropOld m.val s)

/-- A request datagram taken into its role's mailbox (R355, R444). -/
def reqDatagram (s : State) (d : Dgram) : State :=
  let r := encapCheck d s
  match r.1 with
  | none => r.2
  | some role =>
    let m : Fin 8 := if role = 0 then 6 else 7
    let q := padTo 256 (encapBody d)
    if (boxOf r.2 m.val).busy then overrunBox m.val r.2
    else ringTaken m.val (takenOf m q) (r.2.onBox m.val fun b => { b with req := q })

/-- MBX_REQ_DATAGRAM (R444): while a takeover runs, requests wait (R366). -/
def execMbxReqDatagram (d : Dgram) (s : State) : Outc :=
  if !takesRequests s || rd d.body 0 1 ≠ 0x30 then done s
  else if s.pwr.llTakeover then done { s with net := { s.net with keptReqs := s.net.keptReqs ++ [d] } }
  else done (reqDatagram s d)

/-- LAMPLIGHTER_TAKEOVER_COMPLETE (R366, R468): the partner serves from shared memory. -/
def execLamplighterTakeoverComplete (s : State) : Outc :=
  if !s.pwr.llTakeover then done s
  else
    let a := s.pwr.llActive
    let s := s.onPwr fun p => { p with llTakeover := false, llActive := 1 - a, llUp := tset p.llUp (1 - a) true }
    let s := handOver (fnLl a) (fnLl (1 - a)) false [] (s.onFn (fnLl a) fun f => { f with standIn := fnLl (1 - a) })
    let s := ackKept (forN 8 (probationFallback s) takeoverBox)
    let kept := s.net.keptReqs
    done (kept.foldl reqDatagram { s with net := { s.net with keptReqs := [] } })

/-! ### The command rows -/

def execHubInfo (h : ReqHdr) (p : List Byte) (s : State) : Outc := serve 0x0101 (.hubInfo h p) h p s
def execPermRead (h : ReqHdr) (p : List Byte) (s : State) : Outc := serve 0x0102 (.permRead h p) h p s
def execNop (h : ReqHdr) (p : List Byte) (s : State) : Outc := serve 0x0103 (.nop h p) h p s
def execChanConfig (h : ReqHdr) (p : List Byte) (s : State) : Outc := serve 0x0201 (.chanConfig h p) h p s
def execWbConfig (h : ReqHdr) (p : List Byte) (s : State) : Outc := serve 0x0204 (.wbConfig h p) h p s
def execWbComparator (h : ReqHdr) (p : List Byte) (s : State) : Outc := serve 0x0205 (.wbComparator h p) h p s
def execExcConfig (h : ReqHdr) (p : List Byte) (s : State) : Outc := serve 0x0208 (.excConfig h p) h p s
def execFeRoute (h : ReqHdr) (p : List Byte) (s : State) : Outc := serve 0x020C (.feRoute h p) h p s
def execAuxScanLoad (h : ReqHdr) (p : List Byte) (s : State) : Outc := serve 0x0210 (.auxScanLoad h p) h p s
def execAuxTimer (h : ReqHdr) (p : List Byte) (s : State) : Outc := serve 0x0211 (.auxTimer h p) h p s
def execAuxScanInfo (h : ReqHdr) (p : List Byte) (s : State) : Outc := serve 0x0212 (.auxScanInfo h p) h p s
def execLinSet (h : ReqHdr) (p : List Byte) (s : State) : Outc := serve 0x0220 (.linSet h p) h p s
def execLinRead (h : ReqHdr) (p : List Byte) (s : State) : Outc := serve 0x0221 (.linRead h p) h p s
def execVoutSet (h : ReqHdr) (p : List Byte) (s : State) : Outc := serve 0x0230 (.voutSet h p) h p s
def execVoutStop (h : ReqHdr) (p : List Byte) (s : State) : Outc := serve 0x0231 (.voutStop h p) h p s
def execCalBegin (h : ReqHdr) (p : List Byte) (s : State) : Outc := serve 0x0310 (.calBegin h p) h p s
def execCalPoint (h : ReqHdr) (p : List Byte) (s : State) : Outc := serve 0x0312 (.calPoint h p) h p s
def execCalCompute (h : ReqHdr) (p : List Byte) (s : State) : Outc := serve 0x0313 (.calCompute h p) h p s
def execCalCommit (h : ReqHdr) (p : List Byte) (s : State) : Outc := serve 0x0314 (.calCommit h p) h p s
def execCalEnd (h : ReqHdr) (p : List Byte) (s : State) : Outc := serve 0x0315 (.calEnd h p) h p s
def execCalAbort (h : ReqHdr) (p : List Byte) (s : State) : Outc := serve 0x0316 (.calAbort h p) h p s
def execCalStatus (h : ReqHdr) (p : List Byte) (s : State) : Outc := serve 0x0317 (.calStatus h p) h p s
def execCalRead (h : ReqHdr) (p : List Byte) (s : State) : Outc := serve 0x0318 (.calRead h p) h p s
def execFiltSelect (h : ReqHdr) (p : List Byte) (s : State) : Outc := serve 0x0402 (.filtSelect h p) h p s
def execFiltSetDefine (h : ReqHdr) (p : List Byte) (s : State) : Outc := serve 0x0408 (.filtSetDefine h p) h p s
def execFiltCoefWrite (h : ReqHdr) (p : List Byte) (s : State) : Outc := serve 0x0409 (.filtCoefWrite h p) h p s
def execFiltCoefRead (h : ReqHdr) (p : List Byte) (s : State) : Outc := serve 0x040A (.filtCoefRead h p) h p s
def execFiltSwap (h : ReqHdr) (p : List Byte) (s : State) : Outc := serve 0x0410 (.filtSwap h p) h p s
def execStreamDefine (h : ReqHdr) (p : List Byte) (s : State) : Outc := serve 0x0501 (.streamDefine h p) h p s
def execStreamEnable (h : ReqHdr) (p : List Byte) (s : State) : Outc := serve 0x0502 (.streamEnable h p) h p s
def execStreamDisable (h : ReqHdr) (p : List Byte) (s : State) : Outc := serve 0x0503 (.streamDisable h p) h p s
def execStreamRelease (h : ReqHdr) (p : List Byte) (s : State) : Outc := serve 0x0504 (.streamRelease h p) h p s
def execStreamDescribe (h : ReqHdr) (p : List Byte) (s : State) : Outc := serve 0x0505 (.streamDescribe h p) h p s
def execLedgerClear (h : ReqHdr) (p : List Byte) (s : State) : Outc := serve 0x0531 (.ledgerClear h p) h p s
def execMemPlan (h : ReqHdr) (p : List Byte) (s : State) : Outc := serve 0x0540 (.memPlan h p) h p s
def execMemStatus (h : ReqHdr) (p : List Byte) (s : State) : Outc := serve 0x0541 (.memStatus h p) h p s
def execScrubConfig (h : ReqHdr) (p : List Byte) (s : State) : Outc := serve 0x0542 (.scrubConfig h p) h p s
def execTrigSeqLoad (h : ReqHdr) (p : List Byte) (s : State) : Outc := serve 0x0601 (.trigSeqLoad h p) h p s
def execTrigGroupDefine (h : ReqHdr) (p : List Byte) (s : State) : Outc := serve 0x0602 (.trigGroupDefine h p) h p s
def execTrigArm (h : ReqHdr) (p : List Byte) (s : State) : Outc := serve 0x0603 (.trigArm h p) h p s
def execTrigDisarm (h : ReqHdr) (p : List Byte) (s : State) : Outc := serve 0x0604 (.trigDisarm h p) h p s
def execTrigForce (h : ReqHdr) (p : List Byte) (s : State) : Outc := serve 0x0605 (.trigForce h p) h p s
def execTrigStatus (h : ReqHdr) (p : List Byte) (s : State) : Outc := serve 0x0606 (.trigStatus h p) h p s
def execRecList (h : ReqHdr) (p : List Byte) (s : State) : Outc := serve 0x0607 (.recList h p) h p s
def execRecRelease (h : ReqHdr) (p : List Byte) (s : State) : Outc := serve 0x0608 (.recRelease h p) h p s
def execHistDefine (h : ReqHdr) (p : List Byte) (s : State) : Outc := serve 0x0610 (.histDefine h p) h p s
def execTimeStatus (h : ReqHdr) (p : List Byte) (s : State) : Outc := serve 0x0701 (.timeStatus h p) h p s
def execPtpConfig (h : ReqHdr) (p : List Byte) (s : State) : Outc := serve 0x0702 (.ptpConfig h p) h p s
def execTimeSet (h : ReqHdr) (p : List Byte) (s : State) : Outc := serve 0x0703 (.timeSet h p) h p s
def execSynceConfig (h : ReqHdr) (p : List Byte) (s : State) : Outc := serve 0x0704 (.synceConfig h p) h p s
def execTsCorrection (h : ReqHdr) (p : List Byte) (s : State) : Outc := serve 0x0705 (.tsCorrection h p) h p s
def execBeaconSet (h : ReqHdr) (p : List Byte) (s : State) : Outc := serve 0x0710 (.beaconSet h p) h p s
def execBeaconStop (h : ReqHdr) (p : List Byte) (s : State) : Outc := serve 0x0711 (.beaconStop h p) h p s
def execEventConfig (h : ReqHdr) (p : List Byte) (s : State) : Outc := serve 0x0718 (.eventConfig h p) h p s
def execLoopDefine (h : ReqHdr) (p : List Byte) (s : State) : Outc := serve 0x0801 (.loopDefine h p) h p s
def execLoopMode (h : ReqHdr) (p : List Byte) (s : State) : Outc := serve 0x0802 (.loopMode h p) h p s
def execLoopParam (h : ReqHdr) (p : List Byte) (s : State) : Outc := serve 0x0803 (.loopParam h p) h p s
def execLoopInject (h : ReqHdr) (p : List Byte) (s : State) : Outc := serve 0x0804 (.loopInject h p) h p s
def execLoopTuneRead (h : ReqHdr) (p : List Byte) (s : State) : Outc := serve 0x0805 (.loopTuneRead h p) h p s
def execLoopStatus (h : ReqHdr) (p : List Byte) (s : State) : Outc := serve 0x0806 (.loopStatus h p) h p s
def execWickConfig (h : ReqHdr) (p : List Byte) (s : State) : Outc := serve 0x0810 (.wickConfig h p) h p s
def execWickStatus (h : ReqHdr) (p : List Byte) (s : State) : Outc := serve 0x0811 (.wickStatus h p) h p s
def execPairDefine (h : ReqHdr) (p : List Byte) (s : State) : Outc := serve 0x0812 (.pairDefine h p) h p s
def execDriveStatus (h : ReqHdr) (p : List Byte) (s : State) : Outc := serve 0x0813 (.driveStatus h p) h p s
def execCooperJob (h : ReqHdr) (p : List Byte) (s : State) : Outc := serve 0x0901 (.cooperJob h p) h p s
def execCooperFlush (h : ReqHdr) (p : List Byte) (s : State) : Outc := serve 0x0902 (.cooperFlush h p) h p s
def execCooperCancel (h : ReqHdr) (p : List Byte) (s : State) : Outc := serve 0x0903 (.cooperCancel h p) h p s
def execCooperStatus (h : ReqHdr) (p : List Byte) (s : State) : Outc := serve 0x0904 (.cooperStatus h p) h p s
def execFuncEnable (h : ReqHdr) (p : List Byte) (s : State) : Outc := serve 0x0A01 (.funcEnable h p) h p s
def execFuncDisable (h : ReqHdr) (p : List Byte) (s : State) : Outc := serve 0x0A02 (.funcDisable h p) h p s
def execFuncRenew (h : ReqHdr) (p : List Byte) (s : State) : Outc := serve 0x0A03 (.funcRenew h p) h p s
def execFuncState (h : ReqHdr) (p : List Byte) (s : State) : Outc := serve 0x0A04 (.funcState h p) h p s
def execLegacySubstitute (h : ReqHdr) (p : List Byte) (s : State) : Outc := serve 0x0A10 (.legacySubstitute h p) h p s
def execLegacyRelease (h : ReqHdr) (p : List Byte) (s : State) : Outc := serve 0x0A11 (.legacyRelease h p) h p s
def execPlaneStart (h : ReqHdr) (p : List Byte) (s : State) : Outc := serve 0x0A20 (.planeStart h p) h p s
def execPlaneStop (h : ReqHdr) (p : List Byte) (s : State) : Outc := serve 0x0A21 (.planeStop h p) h p s
def execFwInfo (h : ReqHdr) (p : List Byte) (s : State) : Outc := serve 0x0B01 (.fwInfo h p) h p s
def execFwWrite (h : ReqHdr) (p : List Byte) (s : State) : Outc := serve 0x0B02 (.fwWrite h p) h p s
def execFwVerify (h : ReqHdr) (p : List Byte) (s : State) : Outc := serve 0x0B03 (.fwVerify h p) h p s
def execFwActivate (h : ReqHdr) (p : List Byte) (s : State) : Outc := serve 0x0B04 (.fwActivate h p) h p s
def execMonConfig (h : ReqHdr) (p : List Byte) (s : State) : Outc := serve 0x0C01 (.monConfig h p) h p s
def execMonRead (h : ReqHdr) (p : List Byte) (s : State) : Outc := serve 0x0C02 (.monRead h p) h p s
def execNetPortConfig (h : ReqHdr) (p : List Byte) (s : State) : Outc := serve 0x0D01 (.netPortConfig h p) h p s
def execNetAddr (h : ReqHdr) (p : List Byte) (s : State) : Outc := serve 0x0D02 (.netAddr h p) h p s
def execRingConfig (h : ReqHdr) (p : List Byte) (s : State) : Outc := serve 0x0D03 (.ringConfig h p) h p s
def execCollectorSet (h : ReqHdr) (p : List Byte) (s : State) : Outc := serve 0x0D04 (.collectorSet h p) h p s
def execNetStatus (h : ReqHdr) (p : List Byte) (s : State) : Outc := serve 0x0D05 (.netStatus h p) h p s
def execL2Ident (h : ReqHdr) (p : List Byte) (s : State) : Outc := serve 0x0F01 (.l2Ident h p) h p s
def execL2Chan (h : ReqHdr) (p : List Byte) (s : State) : Outc := serve 0x0F02 (.l2Chan h p) h p s
def execL2Subst (h : ReqHdr) (p : List Byte) (s : State) : Outc := serve 0x0F10 (.l2Subst h p) h p s
def execL2Unsubst (h : ReqHdr) (p : List Byte) (s : State) : Outc := serve 0x0F11 (.l2Unsubst h p) h p s
def execL2Status (h : ReqHdr) (p : List Byte) (s : State) : Outc := serve 0x0F20 (.l2Status h p) h p s

end Sys2Proof.Machine
end

