-- ==== Sys2Proof/Machine/Registers.lean ====
section
/-! DEFINITION. Register writes (R400, R409, R422), reads with side effects (R401, R406, R413), the SPI host's commands
(R404), and the JTAG instructions (R489, R490). -/
namespace Sys2Proof.Machine

/-! ### Writes -/

/-- Whether a requester reaches BAR0: the two hosts do, through ports that are at work; network requesters do not (R409). -/
def reachesBar0 (s : State) (r : Requester) : Bool :=
  match r with
  | .pcie => !fnOut s 0x2F0
  | .spi => !fnOut s 0x2F1
  | _ => false

/-- A write to the first word of an FRS entry (R409, R410). -/
def frsWrite (r : Requester) (id v : Nat) (s : State) : State :=
  if !mayWrite s r id || (bit v 1 && bit v 2) then badAccess s
  else
    let s := nextOf s (if bit v 0 then execFrsResetAssert r id s else execFrsResetRelease r id s)
    let s := if bit v 1 then nextOf s (execFrsDisable r id s) else s
    if bit v 2 then nextOf s (execFrsEnable r id s) else s

/-- A write into a mailbox block (R355, R356). -/
def mbxWrite (r : Requester) (m : Fin 8) (o v : Nat) (s : State) : State :=
  if o < 0x100 then
    if r = ownerOf m.val then s.onBox m.val fun b => { b with req := splice b.req o (le 4 v) }
    else if 6 ≤ m.val then badAccess (foreignWrite m.val s) else foreignWrite m.val s
  else if o = 0x200 then
    if r ≠ ownerOf m.val then foreignWrite m.val s
    else
      let s := s.onBox m.val fun b => { b with respIrq := bit v 2 }
      let s := if bit v 1 then nextOf s (execMbxAck r m s) else s
      if bit v 0 then nextOf s (execMbxRing r m s) else s
  else badAccess s

/-- A write into a queue's block (R397); in queues 2 and 3 it is ignored. -/
def ntqWrite (r : Requester) (q : Fin 4) (o v : Nat) (s : State) : State :=
  if 2 ≤ q.val then (match o with | 0x20 | 0x24 | 0x28 => s | _ => badAccess s)
  else match o with
    | 0x20 =>
      let s := if bit v 0 then nextOf s (execNtqPop r q s) else s
      if bit v 1 then nextOf s (execNtqDropRest r q s) else s
    | 0x24 => if v % 128 = 0 ∨ 64 < v % 128 then badAccess s else s.onNtq q.val fun x => { x with level := v % 128 }
    | 0x28 => s.onNtq q.val fun x => { x with p0Pend := x.p0Pend && !bit v 3, lvlPend := x.lvlPend && !bit v 2, p0En := bit v 1, lvlEn := bit v 0 }
    | _ => badAccess s

/-- The window controls written as one word (R421, R422): `AUTO`, then `START`, `STOP` and `SNAP`. -/
def monWrite (r : Requester) (m v : Nat) (s : State) : State :=
  monControl r m (fun x =>
    let x := { x with auto := bit v 3 }
    let x := if bit v 0 then { x with live := {}, running := true } else x
    let x := if bit v 1 then { x with running := false } else x
    if bit v 2 then monSnap s.tb.tick x else x) s

/-- A 32-bit word written at an aligned address; what no rule lets take effect is discarded and counted (R400). -/
def regWrite (r : Requester) (a v : Nat) (s : State) : State :=
  match blkOf a with
  | .frs id 0 => frsWrite r id v s
  | .mbx m o => if h : m < 8 then mbxWrite r ⟨m, h⟩ o v s else badAccess s
  | .ntq q o => if h : q < 4 then ntqWrite r ⟨q, h⟩ o v s else badAccess s
  | .mon m 0x00 => monWrite r m v s
  | .mon m 0x04 => monControl r m (fun x => { x with winTicks := v % 65536 }) s
  | _ => badAccess s

/-- REGISTER_WRITE (R400): a whole aligned 32-bit or 64-bit word. -/
def execRegisterWrite (r : Requester) (addr size : Nat) (v : BitVec 64) (s : State) : Outc :=
  if !reachesBar0 s r then done s
  else if size = 4 ∧ addr % 4 = 0 then done (regWrite r addr (lo32 v.toNat) s)
  else if size = 8 ∧ addr % 8 = 0 then done (regWrite r (addr + 4) (hi32 v.toNat) (regWrite r addr (lo32 v.toNat) s))
  else done (badAccess s)

/-! ### Reads -/

/-- The bytes of a read given to its requester. -/
def giveOut (r : Requester) (bs : List Byte) (s : State) : State :=
  s.onIo fun i => if r = .pcie then { i with pOut := bs } else { i with sOut := bs }

/-- A 32-bit read of a requester, with its side effect. -/
def readOut (r : Requester) (a : Nat) (s : State) : State :=
  if reachesBar0 s r then
    let x := readReg r a s
    giveOut r (le 4 x.1) x.2
  else s

/-- RC_READ (R401): the field's value, cleared for this requester. -/
def execRcRead (r : Requester) (addr : Nat) (s : State) : Outc := done (readOut r (addr / 4 * 4) s)

/-- NOW_NS_READ (R406). -/
def execNowNsRead (r : Requester) (t : Nat) (s : State) : Outc := done (readOut r 0x1040 (s.at_ t))

/-- STAMP_LO_READ (R406). -/
def execStampLoRead (r : Requester) (i : Fin 32) (s : State) : Outc := done (readOut r (0x1100 + 16 * i.val) s)

/-- DRIVE_LAST_LO_READ (R413). -/
def execDriveLastLoRead (r : Requester) (port : Fin 32) (t : Nat) (s : State) : Outc :=
  done (readOut r (0x41000 + 0x40 * port.val) (s.at_ t))

/-! ### The SPI host (R404) -/

/-- Words read from an address on, most significant byte first. -/
def spiWords : Nat → Nat → State → List Byte × State
  | 0, _, s => ([], s)
  | n + 1, a, s =>
    let x := readReg .spi a s
    let y := spiWords n (a + 4) x.2
    (be 4 x.1 ++ y.1, y.2)

/-- SPI_REGISTER_READ: the marker and the words; the low address bits are taken as zero. -/
def execSpiRegisterRead (addr words : Nat) (s : State) : Outc :=
  if !reachesBar0 s .spi then done s
  else
    let x := spiWords words (addr / 4 * 4) s
    done (x.2.onIo fun i => { i with sOut := 0xA5 :: x.1, sWords := i.sWords + BitVec.ofNat 32 words })

/-- Words written from an address on. -/
def spiPut : List (BitVec 32) → Nat → State → State
  | [], _, s => s
  | w :: t, a, s => spiPut t (a + 4) (regWrite .spi a w.toNat s)

/-- SPI_REGISTER_WRITE; `cut` says that chip select rose inside a further word. -/
def execSpiRegisterWrite (addr : Nat) (data : List (BitVec 32)) (cut : Bool) (s : State) : Outc :=
  if !reachesBar0 s .spi then done s
  else
    let s := spiPut data (addr / 4 * 4) s
    done (s.onIo fun i => { i with sWords := i.sWords + BitVec.ofNat 32 data.length, sAborted := if cut then i.sAborted + 1 else i.sAborted })

/-- Bytes from an address on, with a marker before each further line of 64. -/
def spiLines : Nat → List Byte → List Byte
  | _, [] => []
  | a, b :: t => (if a % 64 = 0 then [0xA5, b] else [b]) ++ spiLines (a + 1) t

/-- SPI_MEMORY_READ: record memory within the SPI host's windows (R261); an address past it lies outside every window. -/
def execSpiMemoryRead (addr len : Nat) (errs : List SymErr) (s : State) : Outc :=
  if fnOut s 0x2F1 then done s
  else
    let x := hostMemRead 1 addr len errs s
    done (x.2.onIo fun i => { i with sOut := (if addr % 64 = 0 ∧ 0 < len then [] else [0xA5]) ++ spiLines addr x.1 })

/-- SPI_STATUS: IRQN asserted, `FW_UP`, `MEM_READY`. -/
def execSpiStatus (s : State) : Outc :=
  if fnOut s 0x2F1 then done s
  else done (s.onIo fun i => { i with sOut := le 1 (b2n (irqn s) + 2 * b2n s.pwr.fwUp + 4 * b2n s.pwr.memReady) })

/-- SPI_UNKNOWN_COMMAND: 0xFF driven, and counted; the four known commands have rows of their own. -/
def execSpiUnknownCommand (cmd : Byte) (s : State) : Outc :=
  if fnOut s 0x2F1 || [0x0B, 0x02, 0x0C, 0x05].contains cmd then done s
  else done (s.onIo fun i => { i with sOut := [0xFF], sCmdErr := i.sCmdErr + 1 })

/-! ### JTAG (R489, R490) -/

/-- An instruction loaded into the TAP. -/
def loadIr (ir : JtagIr) (s : State) : State := s.onIo fun i => { i with jIr := ir, jActive := true }

/-- JTAG_BYPASS. -/
def execJtagBypass (s : State) : Outc := done (loadIr .bypass s)

/-- JTAG_SAMPLE_PRELOAD: the balls sampled, and the boundary cells preloaded. -/
def execJtagSamplePreload (pins preload : List Bool) (s : State) : Outc :=
  done ((loadIr .samplePreload s).onIo fun i => { i with jPins := pins, jCells := preload })

/-- JTAG_EXTEST: the outputs of the chain follow their cells. -/
def execJtagExtest (s : State) : Outc := done (loadIr .extest s)

/-- JTAG_IDCODE: stepping B1. -/
def execJtagIdcode (s : State) : Outc := done ((loadIr .idcode s).onIo fun i => { i with jTdo := 0x10512A3F })

/-- JTAG_CLAMP. -/
def execJtagClamp (s : State) : Outc := done (loadIr .clamp s)

/-- JTAG_HIGHZ. -/
def execJtagHighz (s : State) : Outc := done (loadIr .highz s)

/-- TEST_LOGIC_RESET: the TAP gives the outputs back. -/
def execTestLogicReset (s : State) : Outc := done (s.onIo fun i => { i with jIr := .idcode, jActive := false })

end Sys2Proof.Machine
end

