-- ==== Sys2Proof/Machine/Tick.lean ====
section
/-! DEFINITION. The tick boundary (R4): staged changes, what starts or changes state there, the time state and the epoch mark,
the tick's measurements, and the checks of the ledger and of the notice queues. -/
namespace Sys2Proof.Machine

/-! ### Staged changes (R369) -/

def isLedgerClear (c : Instr) : Bool := match c with | .ledgerClear _ _ => true | _ => false

/-- The changes staged for a tick or earlier, in the order in which they apply. -/
def dueAt (tick : Nat) (s : State) : List Staged := inOrder (s.mbx.staged.filter fun g => decide (g.tick ≤ tick))

/-- The staged changes of the present tick applied; a LEDGER_CLEAR among them waits for the check. -/
def applyDue (s : State) : State :=
  let n := s.tb.tick
  let due := (dueAt n s).filter fun g => !isLedgerClear g.cmd
  due.foldl (applyOne due) { s with mbx := { s.mbx with staged := s.mbx.staged.filter fun g => decide (n < g.tick) || isLedgerClear g.cmd } }

/-! ### The ledger check (R24 to R27) -/

/-- P = A + D + F + M. -/
def balanced (c : Counters) : Bool := c.p == c.a + c.d + c.f + c.m

/-- Free + held = capacity. -/
def poolExact (p : Pool) : Bool := p.free + p.held == p.cap

/-- Whether a stream passes: its counters while it is enabled or holds retention. -/
def streamPasses (s : State) (i : Nat) : Bool :=
  let st := strOf s i
  !(st.enabled || st.retained) || balanced st.cnt

/-- Whether a stream's credit pool passes: every pool is checked. -/
def poolPasses (s : State) (i : Nat) : Bool := poolExact (strOf s i).pool

/-- Breaks of streams and pools found at a check. -/
def findBreaks (s : State) : State :=
  let n := s.tb.tick
  let s := forN 64 s fun s i =>
    let s := if streamPasses s i then s else breakStream i false n s
    if poolPasses s i then s else breakStream i true n s
  if poolExact s.str.fabric then s else breakFabric n s

/-- Whether a LEDGER_CLEAR's target passes the check. -/
def clearPasses (s : State) (tgt : Nat) : Bool :=
  if tgt = 0x80 then poolExact s.str.fabric else streamPasses s tgt && poolPasses s tgt

/-- The break bits of a target that passes are cleared. -/
def clearBreak (tgt : Nat) (s : State) : State :=
  if !clearPasses s tgt then s
  else if tgt = 0x80 then { s with str := { s.str with fabBreak := false } }
  else ({ s with str := { s.str with poolBreak := tset s.str.poolBreak tgt false } }).onStr tgt fun st => { st with brk := false }

def clearStatus (s : State) (tgt : Nat) : Status := if clearPasses s tgt then .ok else .ledger
def clearDetail (s : State) (tgt : Nat) : Nat := if clearPasses s tgt then 0 else s.tb.tick % 2 ^ 32

/-- A staged LEDGER_CLEAR decided by the check of its tick (R377). -/
def decideStaged (s : State) (g : Staged) : State :=
  let tgt := rd (g.parts.headD []) 0 1
  complete (owedOf g) (clearStatus s tgt) (clearDetail s tgt) s.tb.tick (clearBreak tgt s)

/-- A LEDGER_CLEAR that waits in its mailbox decided by the check. -/
def decideWaiting (s : State) (w : Nat × Taken) : State :=
  let tgt := rd w.2.pay 0 1
  answer w.1 w.2 (respNow w.2 (clearStatus s tgt) (clearDetail s tgt) [] s) (clearBreak tgt s)

/-- The fields that LDG shows (R25, R412). -/
def ledgerShow (s : State) : State :=
  { s with str := { s.str with
      snap := s.str.s.map fun e => (e.1, { cnt := e.2.cnt, retained := e.2.retained, enabled := e.2.enabled, brk := e.2.brk, late := e.2.lateCnt,
                                           pool := e.2.pool, cause := e.2.cause }),
      snapFab := s.str.fabric, snapHeldR := s.str.fabHeldR, snapBreak := s.str.fabBreak,
      checkSeq := s.str.checkSeq + 2, checkTick := s.tb.tick } }

/-- LEDGER_CHECK: from the first boundary after `MEM_READY`. -/
def ledgerCheck (s : State) : State :=
  if !s.pwr.memReady then s
  else
    let n := s.tb.tick
    let s := forN 7 s fabFlight
    let clears := (dueAt n s).filter fun g => isLedgerClear g.cmd
    let waits := s.mbx.waitLedger
    let s := { s with mbx := { s.mbx with staged := s.mbx.staged.filter fun g => decide (n < g.tick) || !isLedgerClear g.cmd, waitLedger := [] } }
    ledgerShow (waits.foldl decideWaiting (clears.foldl decideStaged (findBreaks s)))

/-! ### The tick's measurements (R41, R90, R405, R488) -/

def atMost {α : Type} (n : Nat) (xs : List α) : List (Nat × α) := (List.range n).zip xs

def measureTick (i : TickIn) (s : State) : State :=
  let s := s.onGlb fun g => { g with vcore := i.vcore }
  let s := (atMost 5 i.temps).foldl (fun s e => tempTick e.2 e.1 s) s
  let s := (atMost 4 i.vexc).foldl (fun s e => s.onTile e.1 fun x => { x with vexc := e.2 }) s
  let s := (i.exc.filter fun e => decide (e.1 < 128)).foldl (fun s e => excTick e.1 e.2 s) s
  let s := forN 4 s fun s t => tileTick t s
  let s := (atMost 4 i.vexc).foldl (fun s e => if e.2 < 6000 then railLow e.1 s else s) s
  forN 24 s fun s n => paceTick (i.paceCount.getD n 0) n s

/-- BAR2_ACCESS_NOTICE (R261): a tick in which `BAR2_DENIED` or `BAR2_WRITES` rose. -/
def bar2Notice (s : State) : State :=
  if s.glb.bar2Rose then
    (post 0x32 3 0 s.glb.bar2Denied.toNat (le 4 s.glb.bar2Writes.toNat) s).onGlb fun g => { g with bar2Rose := false }
  else s

/-- Functions whose start was asked for start at the boundary (R410, R465). -/
def startFns (s : State) : State :=
  (s.fn.filter fun e => e.2.starting && decide (e.2.state = .off) && !e.2.held).foldl (fun s e => startFn e.1 s) s

/-- TICK_BOUNDARY (R4). -/
def execTickBoundary (i : TickIn) (s : State) : Outc :=
  if !s.pwr.porn then done s
  else
    let n := s.tb.tick + 1
    let s := (s.onTb fun b => { b with tick := n }).at_ (n * tickRefs)
    let s := relane (runHeld usesSlot (runDeferred (runArms (startFns (applyDue (endFades s))))))
    let s := sourceSweep (forN 64 s fun s k => closeEntries k n s)
    let s := epochMark (synceTick i.recovered (timeState s))
    let s := bar2Notice (monOpen (measureTick i s))
    let s := ledgerCheck s
    done (forN 4 s fun s q => queueCheck s.tb.tick q s)

end Sys2Proof.Machine
end

