-- ==== Sys2Proof/Machine/Dispatch.lean ====
section
/-! DEFINITION. The meaning of each command, one arm for each. -/
namespace Sys2Proof.Machine

/-- The effect of one command on everything but the queue. -/
def exec (i : Instr) (s : State) : Host.Outcome State Fault Refusal :=
  match i with
  | .pornRise => Sys2Proof.Machine.execPornRise s
  | .pornFall prog => Sys2Proof.Machine.execPornFall prog s
  | .memFillComplete => Sys2Proof.Machine.execMemFillComplete s
  | .bootCodeRun aFails bFails => Sys2Proof.Machine.execBootCodeRun aFails bFails s
  | .firmwareStart => Sys2Proof.Machine.execFirmwareStart s
  | .pwrfailnAssert t => Sys2Proof.Machine.execPwrfailnAssert t s
  | .pwrfailnRelease t => Sys2Proof.Machine.execPwrfailnRelease t s
  | .internalPowerOnReset => Sys2Proof.Machine.execInternalPowerOnReset s
  | .perstnAssert => Sys2Proof.Machine.execPerstnAssert s
  | .tickBoundary m => Sys2Proof.Machine.execTickBoundary m s
  | .paceAlarmClear seg => Sys2Proof.Machine.execPaceAlarmClear seg s
  | .excPowerNotice tile => Sys2Proof.Machine.execExcPowerNotice tile s
  | .excPowerShutoff tile => Sys2Proof.Machine.execExcPowerShutoff tile s
  | .tempAlarm die => Sys2Proof.Machine.execTempAlarm die s
  | .tempAlarmClear die => Sys2Proof.Machine.execTempAlarmClear die s
  | .monitorAutoSwap m => Sys2Proof.Machine.execMonitorAutoSwap m s
  | .reductionIntervalEnd inst => Sys2Proof.Machine.execReductionIntervalEnd inst s
  | .recordComplete group => Sys2Proof.Machine.execRecordComplete group s
  | .filtSwapComplete => Sys2Proof.Machine.execFiltSwapComplete s
  | .drainEnd id => Sys2Proof.Machine.execDrainEnd id s
  | .functionOff id => Sys2Proof.Machine.execFunctionOff id s
  | .syncReceived m => Sys2Proof.Machine.execSyncReceived m s
  | .followUpReceived m => Sys2Proof.Machine.execFollowUpReceived m s
  | .announceReceived x a => Sys2Proof.Machine.execAnnounceReceived x a s
  | .delayReqSend port egress => Sys2Proof.Machine.execDelayReqSend port egress s
  | .delayRespReceived x seq r => Sys2Proof.Machine.execDelayRespReceived x seq r s
  | .syncTimeout => Sys2Proof.Machine.execSyncTimeout s
  | .announceReceiptTimeout => Sys2Proof.Machine.execAnnounceReceiptTimeout s
  | .servoWatchdog t => Sys2Proof.Machine.execServoWatchdog t s
  | .masterQualified => Sys2Proof.Machine.execMasterQualified s
  | .lockAfterStep => Sys2Proof.Machine.execLockAfterStep s
  | .slewComplete offset => Sys2Proof.Machine.execSlewComplete offset s
  | .synceSourceChange port t => Sys2Proof.Machine.execSynceSourceChange port t s
  | .synceSourceLoss => Sys2Proof.Machine.execSynceSourceLoss s
  | .esmcReceived port ql => Sys2Proof.Machine.execEsmcReceived port ql s
  | .esmcSend => Sys2Proof.Machine.execEsmcSend s
  | .beaconEdge b => Sys2Proof.Machine.execBeaconEdge b s
  | .voutCarrierStart o t => Sys2Proof.Machine.execVoutCarrierStart o t s
  | .eventEdge inp rising t fine => Sys2Proof.Machine.execEventEdge inp rising t fine s
  | .comparatorCrossing ch outward t fine => Sys2Proof.Machine.execComparatorCrossing ch outward t fine s
  | .clampOnset pin t => Sys2Proof.Machine.execClampOnset pin t s
  | .clampRelease pin t => Sys2Proof.Machine.execClampRelease pin t s
  | .wireBreakDetect f t => Sys2Proof.Machine.execWireBreakDetect f t s
  | .wireClear f t => Sys2Proof.Machine.execWireClear f t s
  | .excDropoutOnset g t => Sys2Proof.Machine.execExcDropoutOnset g t s
  | .excLimitOnset g t => Sys2Proof.Machine.execExcLimitOnset g t s
  | .excFaultEnd g t => Sys2Proof.Machine.execExcFaultEnd g t s
  | .tileLinkWord bank w => Sys2Proof.Machine.execTileLinkWord bank w s
  | .chandlerRound sar => Sys2Proof.Machine.execChandlerRound sar s
  | .lineariseSample => Sys2Proof.Machine.execLineariseSample s
  | .sampleCommit t => Sys2Proof.Machine.execSampleCommit t s
  | .commitDeadline stream => Sys2Proof.Machine.execCommitDeadline stream s
  | .cooperInlineDone stream => Sys2Proof.Machine.execCooperInlineDone stream s
  | .blockSend stream t => Sys2Proof.Machine.execBlockSend stream t s
  | .streamAckReceived d => Sys2Proof.Machine.execStreamAckReceived d s
  | .retransmissionTimeout stream seq role t => Sys2Proof.Machine.execRetransmissionTimeout stream seq role t s
  | .trigEvaluation group t => Sys2Proof.Machine.execTrigEvaluation group t s
  | .fireMessageReceived d t => Sys2Proof.Machine.execFireMessageReceived d t s
  | .armMessageReceived d => Sys2Proof.Machine.execArmMessageReceived d s
  | .disarmMessageReceived d => Sys2Proof.Machine.execDisarmMessageReceived d s
  | .auxTimerFire conv timer t => Sys2Proof.Machine.execAuxTimerFire conv timer t s
  | .auxSegmentStart conv => Sys2Proof.Machine.execAuxSegmentStart conv s
  | .auxConversionComplete conv code => Sys2Proof.Machine.execAuxConversionComplete conv code s
  | .auxTableApply conv => Sys2Proof.Machine.execAuxTableApply conv s
  | .scrubLine errs raced => Sys2Proof.Machine.execScrubLine errs raced s
  | .migrationStart bank => Sys2Proof.Machine.execMigrationStart bank s
  | .migrationCopyDone => Sys2Proof.Machine.execMigrationCopyDone s
  | .migrationSwitch => Sys2Proof.Machine.execMigrationSwitch s
  | .bar2Read addr len errs => Sys2Proof.Machine.execBar2Read addr len errs s
  | .bar2Write addr data => Sys2Proof.Machine.execBar2Write addr data s
  | .cooperJobStart => Sys2Proof.Machine.execCooperJobStart s
  | .cooperJobComplete => Sys2Proof.Machine.execCooperJobComplete s
  | .loopEvaluation n lanesAgree stateOk => Sys2Proof.Machine.execLoopEvaluation n lanesAgree stateOk s
  | .ffHoldExpiry n acc => Sys2Proof.Machine.execFfHoldExpiry n acc s
  | .injectCaptureEnd n => Sys2Proof.Machine.execInjectCaptureEnd n s
  | .keepAliveFrame n t => Sys2Proof.Machine.execKeepAliveFrame n t s
  | .statusFrameReceived port frame t => Sys2Proof.Machine.execStatusFrameReceived port frame t s
  | .statusFrameMissing port => Sys2Proof.Machine.execStatusFrameMissing port s
  | .driveFrameLate port => Sys2Proof.Machine.execDriveFrameLate port s
  | .checkpointWrite lanesAgree => Sys2Proof.Machine.execCheckpointWrite lanesAgree s
  | .checkpointLate => Sys2Proof.Machine.execCheckpointLate s
  | .wickPartnerPowered => Sys2Proof.Machine.execWickPartnerPowered s
  | .wickCheckpointLoaded t => Sys2Proof.Machine.execWickCheckpointLoaded t s
  | .wickSelfTestDone w pass => Sys2Proof.Machine.execWickSelfTestDone w pass s
  | .wickTakeback => Sys2Proof.Machine.execWickTakeback s
  | .pairHeartbeatSend => Sys2Proof.Machine.execPairHeartbeatSend s
  | .pairHeartbeatReceived d t => Sys2Proof.Machine.execPairHeartbeatReceived d t s
  | .pairHeartbeatLoss t => Sys2Proof.Machine.execPairHeartbeatLoss t s
  | .lossOfSignal port t => Sys2Proof.Machine.execLossOfSignal port t s
  | .linkUp port t => Sys2Proof.Machine.execLinkUp port t s
  | .switchForward ingress frame fcsOk x t => Sys2Proof.Machine.execSwitchForward ingress frame fcsOk x t s
  | .learningAgeOut mac vlan => Sys2Proof.Machine.execLearningAgeOut mac vlan s
  | .arpRequestReceived target sender senderMac t => Sys2Proof.Machine.execArpRequestReceived target sender senderMac t s
  | .neighbourSolicitationReceived target sender t => Sys2Proof.Machine.execNeighbourSolicitationReceived target sender t s
  | .icmpEchoReceived v6 src echo t => Sys2Proof.Machine.execIcmpEchoReceived v6 src echo t s
  | .ringHealthSend t => Sys2Proof.Machine.execRingHealthSend t s
  | .ringHealthReceived port f t => Sys2Proof.Machine.execRingHealthReceived port f t s
  | .ringHealthLoss => Sys2Proof.Machine.execRingHealthLoss s
  | .ringLinkDownReceived port f => Sys2Proof.Machine.execRingLinkDownReceived port f s
  | .ringLinkDownRepeat port => Sys2Proof.Machine.execRingLinkDownRepeat port s
  | .ringFlushReceived port f => Sys2Proof.Machine.execRingFlushReceived port f s
  | .ringPortRestoreTimer port => Sys2Proof.Machine.execRingPortRestoreTimer port s
  | .mbxReqDatagram d => Sys2Proof.Machine.execMbxReqDatagram d s
  | .noticeAckDatagram d => Sys2Proof.Machine.execNoticeAckDatagram d s
  | .noticeDatagramSend role t => Sys2Proof.Machine.execNoticeDatagramSend role t s
  | .noticeResendTimeout role t => Sys2Proof.Machine.execNoticeResendTimeout role t s
  | .crierBacklogMove q => Sys2Proof.Machine.execCrierBacklogMove q s
  | .ntqHeadRead q upset => Sys2Proof.Machine.execNtqHeadRead q upset s
  | .ntqPop r q => Sys2Proof.Machine.execNtqPop r q s
  | .ntqDropRest r q => Sys2Proof.Machine.execNtqDropRest r q s
  | .mbxRing r m => Sys2Proof.Machine.execMbxRing r m s
  | .mbxAck r m => Sys2Proof.Machine.execMbxAck r m s
  | .multipartTimeout m => Sys2Proof.Machine.execMultipartTimeout m s
  | .lamplighterHeartbeatMiss => Sys2Proof.Machine.execLamplighterHeartbeatMiss s
  | .lamplighterTakeoverComplete => Sys2Proof.Machine.execLamplighterTakeoverComplete s
  | .fwHandover pass => Sys2Proof.Machine.execFwHandover pass s
  | .fwProbationPass => Sys2Proof.Machine.execFwProbationPass s
  | .calMatchWindow b => Sys2Proof.Machine.execCalMatchWindow b s
  | .calDeliverySwitch b => Sys2Proof.Machine.execCalDeliverySwitch b s
  | .calFrontEndPark b => Sys2Proof.Machine.execCalFrontEndPark b s
  | .calPointComplete k => Sys2Proof.Machine.execCalPointComplete k s
  | .calStoreWrite okFirst okSecond => Sys2Proof.Machine.execCalStoreWrite okFirst okSecond s
  | .calCoeffEffective => Sys2Proof.Machine.execCalCoeffEffective s
  | .renewalHandover id => Sys2Proof.Machine.execRenewalHandover id s
  | .functionSelfTestDone id pass => Sys2Proof.Machine.execFunctionSelfTestDone id pass s
  | .renewalReturn id => Sys2Proof.Machine.execRenewalReturn id s
  | .frsResetAssert r id => Sys2Proof.Machine.execFrsResetAssert r id s
  | .frsResetRelease r id => Sys2Proof.Machine.execFrsResetRelease r id s
  | .frsDisable r id => Sys2Proof.Machine.execFrsDisable r id s
  | .frsEnable r id => Sys2Proof.Machine.execFrsEnable r id s
  | .monStart r m => Sys2Proof.Machine.execMonStart r m s
  | .monStop r m => Sys2Proof.Machine.execMonStop r m s
  | .monSnap r m => Sys2Proof.Machine.execMonSnap r m s
  | .rcRead r addr => Sys2Proof.Machine.execRcRead r addr s
  | .nowNsRead r t => Sys2Proof.Machine.execNowNsRead r t s
  | .stampLoRead r k => Sys2Proof.Machine.execStampLoRead r k s
  | .driveLastLoRead r port t => Sys2Proof.Machine.execDriveLastLoRead r port t s
  | .registerWrite r addr size v => Sys2Proof.Machine.execRegisterWrite r addr size v s
  | .spiRegisterRead addr words => Sys2Proof.Machine.execSpiRegisterRead addr words s
  | .spiRegisterWrite addr data cut => Sys2Proof.Machine.execSpiRegisterWrite addr data cut s
  | .spiMemoryRead addr len errs => Sys2Proof.Machine.execSpiMemoryRead addr len errs s
  | .spiStatus => Sys2Proof.Machine.execSpiStatus s
  | .spiUnknownCommand cmd => Sys2Proof.Machine.execSpiUnknownCommand cmd s
  | .jtagBypass => Sys2Proof.Machine.execJtagBypass s
  | .jtagSamplePreload pins preload => Sys2Proof.Machine.execJtagSamplePreload pins preload s
  | .jtagExtest => Sys2Proof.Machine.execJtagExtest s
  | .jtagIdcode => Sys2Proof.Machine.execJtagIdcode s
  | .jtagClamp => Sys2Proof.Machine.execJtagClamp s
  | .jtagHighz => Sys2Proof.Machine.execJtagHighz s
  | .hubInfo h p => Sys2Proof.Machine.execHubInfo h p s
  | .permRead h p => Sys2Proof.Machine.execPermRead h p s
  | .nop h p => Sys2Proof.Machine.execNop h p s
  | .chanConfig h p => Sys2Proof.Machine.execChanConfig h p s
  | .wbConfig h p => Sys2Proof.Machine.execWbConfig h p s
  | .wbComparator h p => Sys2Proof.Machine.execWbComparator h p s
  | .excConfig h p => Sys2Proof.Machine.execExcConfig h p s
  | .feRoute h p => Sys2Proof.Machine.execFeRoute h p s
  | .auxScanLoad h p => Sys2Proof.Machine.execAuxScanLoad h p s
  | .auxTimer h p => Sys2Proof.Machine.execAuxTimer h p s
  | .auxScanInfo h p => Sys2Proof.Machine.execAuxScanInfo h p s
  | .linSet h p => Sys2Proof.Machine.execLinSet h p s
  | .linRead h p => Sys2Proof.Machine.execLinRead h p s
  | .voutSet h p => Sys2Proof.Machine.execVoutSet h p s
  | .voutStop h p => Sys2Proof.Machine.execVoutStop h p s
  | .calBegin h p => Sys2Proof.Machine.execCalBegin h p s
  | .calPoint h p => Sys2Proof.Machine.execCalPoint h p s
  | .calCompute h p => Sys2Proof.Machine.execCalCompute h p s
  | .calCommit h p => Sys2Proof.Machine.execCalCommit h p s
  | .calEnd h p => Sys2Proof.Machine.execCalEnd h p s
  | .calAbort h p => Sys2Proof.Machine.execCalAbort h p s
  | .calStatus h p => Sys2Proof.Machine.execCalStatus h p s
  | .calRead h p => Sys2Proof.Machine.execCalRead h p s
  | .filtSelect h p => Sys2Proof.Machine.execFiltSelect h p s
  | .filtSetDefine h p => Sys2Proof.Machine.execFiltSetDefine h p s
  | .filtCoefWrite h p => Sys2Proof.Machine.execFiltCoefWrite h p s
  | .filtCoefRead h p => Sys2Proof.Machine.execFiltCoefRead h p s
  | .filtSwap h p => Sys2Proof.Machine.execFiltSwap h p s
  | .streamDefine h p => Sys2Proof.Machine.execStreamDefine h p s
  | .streamEnable h p => Sys2Proof.Machine.execStreamEnable h p s
  | .streamDisable h p => Sys2Proof.Machine.execStreamDisable h p s
  | .streamRelease h p => Sys2Proof.Machine.execStreamRelease h p s
  | .streamDescribe h p => Sys2Proof.Machine.execStreamDescribe h p s
  | .ledgerClear h p => Sys2Proof.Machine.execLedgerClear h p s
  | .memPlan h p => Sys2Proof.Machine.execMemPlan h p s
  | .memStatus h p => Sys2Proof.Machine.execMemStatus h p s
  | .scrubConfig h p => Sys2Proof.Machine.execScrubConfig h p s
  | .trigSeqLoad h p => Sys2Proof.Machine.execTrigSeqLoad h p s
  | .trigGroupDefine h p => Sys2Proof.Machine.execTrigGroupDefine h p s
  | .trigArm h p => Sys2Proof.Machine.execTrigArm h p s
  | .trigDisarm h p => Sys2Proof.Machine.execTrigDisarm h p s
  | .trigForce h p => Sys2Proof.Machine.execTrigForce h p s
  | .trigStatus h p => Sys2Proof.Machine.execTrigStatus h p s
  | .recList h p => Sys2Proof.Machine.execRecList h p s
  | .recRelease h p => Sys2Proof.Machine.execRecRelease h p s
  | .histDefine h p => Sys2Proof.Machine.execHistDefine h p s
  | .timeStatus h p => Sys2Proof.Machine.execTimeStatus h p s
  | .ptpConfig h p => Sys2Proof.Machine.execPtpConfig h p s
  | .timeSet h p => Sys2Proof.Machine.execTimeSet h p s
  | .synceConfig h p => Sys2Proof.Machine.execSynceConfig h p s
  | .tsCorrection h p => Sys2Proof.Machine.execTsCorrection h p s
  | .beaconSet h p => Sys2Proof.Machine.execBeaconSet h p s
  | .beaconStop h p => Sys2Proof.Machine.execBeaconStop h p s
  | .eventConfig h p => Sys2Proof.Machine.execEventConfig h p s
  | .loopDefine h p => Sys2Proof.Machine.execLoopDefine h p s
  | .loopMode h p => Sys2Proof.Machine.execLoopMode h p s
  | .loopParam h p => Sys2Proof.Machine.execLoopParam h p s
  | .loopInject h p => Sys2Proof.Machine.execLoopInject h p s
  | .loopTuneRead h p => Sys2Proof.Machine.execLoopTuneRead h p s
  | .loopStatus h p => Sys2Proof.Machine.execLoopStatus h p s
  | .wickConfig h p => Sys2Proof.Machine.execWickConfig h p s
  | .wickStatus h p => Sys2Proof.Machine.execWickStatus h p s
  | .pairDefine h p => Sys2Proof.Machine.execPairDefine h p s
  | .driveStatus h p => Sys2Proof.Machine.execDriveStatus h p s
  | .cooperJob h p => Sys2Proof.Machine.execCooperJob h p s
  | .cooperFlush h p => Sys2Proof.Machine.execCooperFlush h p s
  | .cooperCancel h p => Sys2Proof.Machine.execCooperCancel h p s
  | .cooperStatus h p => Sys2Proof.Machine.execCooperStatus h p s
  | .funcEnable h p => Sys2Proof.Machine.execFuncEnable h p s
  | .funcDisable h p => Sys2Proof.Machine.execFuncDisable h p s
  | .funcRenew h p => Sys2Proof.Machine.execFuncRenew h p s
  | .funcState h p => Sys2Proof.Machine.execFuncState h p s
  | .legacySubstitute h p => Sys2Proof.Machine.execLegacySubstitute h p s
  | .legacyRelease h p => Sys2Proof.Machine.execLegacyRelease h p s
  | .planeStart h p => Sys2Proof.Machine.execPlaneStart h p s
  | .planeStop h p => Sys2Proof.Machine.execPlaneStop h p s
  | .fwInfo h p => Sys2Proof.Machine.execFwInfo h p s
  | .fwWrite h p => Sys2Proof.Machine.execFwWrite h p s
  | .fwVerify h p => Sys2Proof.Machine.execFwVerify h p s
  | .fwActivate h p => Sys2Proof.Machine.execFwActivate h p s
  | .monConfig h p => Sys2Proof.Machine.execMonConfig h p s
  | .monRead h p => Sys2Proof.Machine.execMonRead h p s
  | .netPortConfig h p => Sys2Proof.Machine.execNetPortConfig h p s
  | .netAddr h p => Sys2Proof.Machine.execNetAddr h p s
  | .ringConfig h p => Sys2Proof.Machine.execRingConfig h p s
  | .collectorSet h p => Sys2Proof.Machine.execCollectorSet h p s
  | .netStatus h p => Sys2Proof.Machine.execNetStatus h p s
  | .l2Ident h p => Sys2Proof.Machine.execL2Ident h p s
  | .l2Chan h p => Sys2Proof.Machine.execL2Chan h p s
  | .l2Subst h p => Sys2Proof.Machine.execL2Subst h p s
  | .l2Unsubst h p => Sys2Proof.Machine.execL2Unsubst h p s
  | .l2Status h p => Sys2Proof.Machine.execL2Status h p s
  | .perstnDeassert gen width => Sys2Proof.Machine.execPerstnDeassert gen width s
  | .fwVerifyComplete slot => Sys2Proof.Machine.execFwVerifyComplete slot s
  | .voutEdge o t => Sys2Proof.Machine.execVoutEdge o t s
  | .driveFrameResend port t => Sys2Proof.Machine.execDriveFrameResend port t s
  | .excDropoutOrLimitEnd g t => Sys2Proof.Machine.execExcDropoutOrLimitEnd g t s
  | .testLogicReset => Sys2Proof.Machine.execTestLogicReset s
  | .arpCacheExpiry ip => Sys2Proof.Machine.execArpCacheExpiry ip s
  | .duplicateAddressDetection unique => Sys2Proof.Machine.execDuplicateAddressDetection unique s

end Sys2Proof.Machine
end

