-- ==== Sys2Proof/Safety.lean ====
section
/-! DEFINITION. What holds in every state of a run: both memories are in their canonical form. -/
namespace Sys2Proof.Machine

/-- Record memory (an unlisted byte reads 0) and flash (an unlisted byte reads 0xFF) are in canonical form. -/
def State.memInv (s : State) : Prop := memWf 0 s.rm.mem = true ∧ memWf 0xFF s.pwr.flash = true

end Sys2Proof.Machine
end

