-- ==== Sys2Proof/Certificates/Slice0/Obligations.lean ====
section
/-! DEFINITION. The statements for the provers: what each command does, what it leaves alone, the rules of the mailboxes and of
staged changes, the state after reset, and the invariant that every step keeps. -/

section Statements
open Sys2Proof Sys2Proof.Machine

/-! ### The step and the whole machine -/

/-- Every step takes the command at the front of the queue and runs it with the queue's rest.

With no command waiting the block idles (DESIGN CHOICE, log 1). -/
def Obligations.StepRunsFrontCommand : Prop :=
  (∀ (s : State) (c : Instr) (rest : List Instr), s.pending = c :: rest → step s = exec c { s with pending := rest })
  ∧ (∀ s : State, s.pending = [] → step s = .next s)

/-- The state in which PORN has just risen (R449, log 4): nothing is in memory or queues, no firmware runs, the time base is
`UNSET`, and both memories are in canonical form. -/
def Obligations.ResetState : Prop :=
  State.reset.memInv ∧ State.reset.pending = [] ∧ State.reset.pwr.porn = true ∧ State.reset.pwr.memReady = false
    ∧ State.reset.pwr.fwUp = false ∧ State.reset.pwr.pwrfail = false ∧ State.reset.tb.state = .unset ∧ State.reset.tb.tick = 0
    ∧ State.reset.mbx.staged = [] ∧ State.reset.chd.active = 0 ∧ irqn State.reset = false
    ∧ (∀ a, memRead 0 State.reset.rm.mem a = 0) ∧ (∀ a, memRead 0xFF State.reset.pwr.flash a = 0xFF)
    ∧ (∀ n, (chanOf State.reset n).raw = badWord ∧ (chanOf State.reset n).enabled = false)
    ∧ (∀ i, (strOf State.reset i).enabled = false ∧ (strOf State.reset i).cnt = {})
    ∧ (∀ l : LinDesc, l = linOf State.reset 0 → l.tsrc = 0xFFFF ∧ l.coef.length = 24)
    ∧ State.reset.str.fabric.cap = 128 ∧ poolExact State.reset.str.fabric = true ∧ (∀ r, fabHeld State.reset r = 0)

/-- Both memories stay in canonical form: rising addresses, and no cell that holds what an unlisted address reads as. -/
def Obligations.StepKeepsMemoryCanonical : Prop :=
  ∀ s t : State, s.memInv → step s = .next t → t.memInv

/-! ### Power-up (R449, R450, R452, R457) -/

/-- What a rise of PORN leaves: the values of reset, and what flash and fuses hold. -/
def Sys2Proof.Spec.fromNothing (porn : Bool) (s t : State) : Prop :=
  let p : Power := { State.reset.pwr with porn := porn, flash := t.pwr.flash, fuses := s.pwr.fuses, fwState := t.pwr.fwState }
  t = { State.reset with pending := s.pending, freeCtr := s.freeCtr, sent := s.sent, pwr := p }

/-- PORN_RISE, PORN_FALL, INTERNAL_POWER_ON_RESET and MEM_FILL_COMPLETE. -/
def Obligations.PowerOnReset : Prop :=
  (∀ s : State, s.pwr.porn = false → ∃ t, exec .pornRise s = .next t ∧ Spec.fromNothing true s t ∧ t.pwr.flash = s.pwr.flash)
  ∧ (∀ s : State, s.pwr.porn = true → exec .pornRise s = .next s)
  ∧ (∀ (s : State) (prog : List (Nat × Byte)), s.memInv → ∃ t, exec (.pornFall prog) s = .next t ∧ Spec.fromNothing false s t
      ∧ (∀ a, (∀ w ∈ prog, w.1 ≠ a) → memRead 0xFF t.pwr.flash a = memRead 0xFF s.pwr.flash a)
      ∧ (∀ a v, prog.getLast? = some (a, v) → memRead 0xFF t.pwr.flash a = v))
  ∧ (∀ s : State, s.pwr.porn = true → s.pwr.pwrWait.isSome = true →
      ∃ t, exec .internalPowerOnReset s = .next t ∧ Spec.fromNothing true s t ∧ t.pwr.flash = s.pwr.flash)
  ∧ (∀ s : State, s.pwr.porn = true → s.pwr.memReady = false → exec .memFillComplete s =
      .next { s with rm := { s.rm with mem := [], poison := {}, llPoison := {} }, pwr := { s.pwr with memReady := true } })

/-! ### The boot code and the start of firmware (R449, R454 to R459) -/

/-- BOOT_CODE_RUN and FIRMWARE_START. -/
def Obligations.BootCodeAndFirmwareStart : Prop :=
  (∀ (s : State) (aFails bFails : Bool), s.pwr.porn = true → s.pwr.memReady = true → s.pwr.protLocked = false →
    ∃ t, exec (.bootCodeRun aFails bFails) s = .next t
      ∧ (aFails = true → tget t.pwr.llFenced 0 false = true ∧ fnState t (fnLl 0) = .fault)
      ∧ (aFails = true → bFails = true → tget t.pwr.llFenced 1 false = true ∧ t.pwr.handed = s.pwr.handed ∧ t.pwr.protLocked = false)
      ∧ ((aFails && bFails) = false → t.pwr.protLocked = true ∧ t.pwr.llActive = (if aFails then 1 else 0)
          ∧ (chooseBoot s = none → t.pwr.handed = s.pwr.handed ∧ t.pwr.flash = s.pwr.flash ∧ t.pwr.prot = [])
          ∧ (∀ b, chooseBoot s = some b → t.pwr.boot = some b ∧ t.rm.plan = (if planOk b.memPlan then b.memPlan else [0, 0, 0, 0, 0]) ∧ t.net.own = b.net
              ∧ t.pwr.hub = BitVec.ofNat 16 (b.station * 2 + b.hubIndex)
              ∧ t.pwr.bootCount = BitVec.ofNat 32 (recCount { s with pwr := { s.pwr with boot := some b } } + 1))))
  ∧ (∀ s : State, s.pwr.handed = true → s.pwr.fwUp = false →
    ∃ t, exec .firmwareStart s = .next t ∧ t.pwr = { s.pwr with fwUp := true, fwLevel := 4 }
      ∧ t = { s with pwr := t.pwr, lin := t.lin, cal := t.cal, ntq := t.ntq, io := t.io })

/-! ### The power-fail warning (R21, R450 to R452) -/

/-- PWRFAILN_ASSERT books every word in M as F with cause `POWER`; record memory changes only where a block that is stored
and not sent yet is to carry its words so (log 132). PWRFAILN_RELEASE sets the reset 10 ms ahead. -/
def Obligations.PowerFailWarning : Prop :=
  (∀ (s : State) (t0 : Nat), ∃ t, exec (.pwrfailnAssert t0) s = .next t ∧ t.now = max s.now t0
      ∧ t.pwr = { s.pwr with pwrfail := true, pwrWait := none }
      ∧ ((∀ i, i < 64 → ∀ b ∈ (strOf s i).blocks, b.coded = false ∨ b.dst.any (fun e => e.2.sent.isSome) = true) → t.rm = s.rm)
      ∧ (s.pwr.fwUp = true → ∀ i, i < 64 →
          (strOf t i).cnt = { (strOf s i).cnt with m := 0, f := (strOf s i).cnt.f + (strOf s i).cnt.m }
          ∧ tget (strOf t i).cause 6 0 = tget (strOf s i).cause 6 0 + BitVec.ofNat 32 (strOf s i).cnt.m.toNat
          ∧ (∀ b ∈ (strOf t i).asm, ∀ w ∈ b.body, w.st ≠ .inM))
      ∧ (s.pwr.fwUp = false → t = { s with now := t.now, pwr := t.pwr }))
  ∧ (∀ (s : State) (t0 : Nat), s.pwr.pwrfail = true →
      exec (.pwrfailnRelease t0) s = .next { s with now := max s.now t0, pwr := { s.pwr with pwrWait := some (t0 + 2048000) } })
  ∧ (∀ (s : State) (t0 : Nat), s.pwr.pwrfail = false → exec (.pwrfailnRelease t0) s = .next { s with now := max s.now t0 })

/-! ### The host ports (R404, R484, R489, R490) -/

/-- PERSTN_ASSERT and PERSTN_DEASSERT touch the endpoint alone.

The JTAG instructions change the TAP, its cells and its output alone; IDCODE shifts out 0x1051_2A3F. -/
def Obligations.PciExpressAndJtag : Prop :=
  ((∀ s : State, exec .perstnAssert s =
      .next { s with pwr := { s.pwr with perstLow := true }, io := { s.io with pLinkUp := false, pGen := 0, pWidth := 0 } })
  ∧ (∀ (s : State) (gen width : Nat), 1 ≤ gen → gen ≤ 3 → (width = 4 ∨ width = 2 ∨ width = 1) →
      exec (.perstnDeassert gen width) s =
        .next { s with pwr := { s.pwr with perstLow := false }, io := { s.io with pLinkUp := true, pGen := gen, pWidth := width } }))
  ∧ (∀ s : State,
    exec .jtagBypass s = .next { s with io := { s.io with jIr := .bypass, jActive := true } }
    ∧ exec .jtagExtest s = .next { s with io := { s.io with jIr := .extest, jActive := true } }
    ∧ exec .jtagIdcode s = .next { s with io := { s.io with jIr := .idcode, jActive := true, jTdo := 0x10512A3F } }
    ∧ exec .jtagClamp s = .next { s with io := { s.io with jIr := .clamp, jActive := true } }
    ∧ exec .jtagHighz s = .next { s with io := { s.io with jIr := .highz, jActive := true } }
    ∧ exec .testLogicReset s = .next { s with io := { s.io with jIr := .idcode, jActive := false } }
    ∧ (∀ pins preload : List Bool, exec (.jtagSamplePreload pins preload) s =
        .next { s with io := { s.io with jIr := .samplePreload, jActive := true, jPins := pins, jCells := preload } }))

/-- SPI_STATUS, SPI_UNKNOWN_COMMAND, SPI_REGISTER_READ and SPI_REGISTER_WRITE, while the SPI port (function 0x2F1) is at
work: what is shifted out, and the port's counters. A command byte of R404 is none of SPI_UNKNOWN_COMMAND's.

BAR2_READ, BAR2_WRITE and SPI_MEMORY_READ: BAR2 has no address past the 64 MiB of record memory (R242, R261), and such a
command stops with a fault; an SPI read past them lies outside every window (log 119); a byte inside a window of the requester's
protection entry is given, any other reads 0xFF, and a read with such a byte is counted; a write is discarded and counted. No byte of memory changes. -/
def Obligations.HostAccess : Prop :=
  (∀ s : State, fnOut s 0x2F1 = false →
    exec .spiStatus s = .next { s with io := { s.io with sOut := le 1 (b2n (irqn s) + 2 * b2n s.pwr.fwUp + 4 * b2n s.pwr.memReady) } }
    ∧ (∀ c : Byte, c ∉ ([0x0B, 0x02, 0x0C, 0x05] : List Byte) →
        exec (.spiUnknownCommand c) s = .next { s with io := { s.io with sOut := [0xFF], sCmdErr := s.io.sCmdErr + 1 } })
    ∧ (∀ addr, exec (.spiRegisterRead addr 0) s = .next { s with io := { s.io with sOut := [0xA5], sWords := s.io.sWords + 0 } })
    ∧ (∀ addr, ∃ t, exec (.spiRegisterRead addr 1) s = .next t
        ∧ t.io.sOut = 0xA5 :: be 4 (regVal (if blkOf (addr / 4 * 4) = .ntq 0 0 ∨ blkOf (addr / 4 * 4) = .ntq 1 0 ∨ blkOf (addr / 4 * 4) = .ntq 2 0
            ∨ blkOf (addr / 4 * 4) = .ntq 3 0 then t else s) .spi (addr / 4 * 4))
        ∧ t.io.sWords = s.io.sWords + 1)
    ∧ (∀ addr words, ∃ t, exec (.spiRegisterRead addr words) s = .next t ∧ t.io.sWords = s.io.sWords + BitVec.ofNat 32 words
        ∧ t.io.sOut.length = 1 + 4 * words)
    ∧ (∀ addr cut, exec (.spiRegisterWrite addr [] cut) s =
        .next { s with io := { s.io with sWords := s.io.sWords + 0, sAborted := if cut then s.io.sAborted + 1 else s.io.sAborted } })
    ∧ (∀ addr w, ∃ t, exec (.spiRegisterWrite addr [w] false) s = .next t ∧ t.glb = (regWrite .spi (addr / 4 * 4) w.toNat s).glb
        ∧ t.ntq = (regWrite .spi (addr / 4 * 4) w.toNat s).ntq ∧ t.mbx = (regWrite .spi (addr / 4 * 4) w.toNat s).mbx
        ∧ t.mon = (regWrite .spi (addr / 4 * 4) w.toNat s).mon ∧ t.fn = (regWrite .spi (addr / 4 * 4) w.toNat s).fn
        ∧ t.io.sWords = (regWrite .spi (addr / 4 * 4) w.toNat s).io.sWords + 1))
  ∧ ((∀ (s : State) (addr len : Nat) (errs : List SymErr), 67108864 < addr + len →
      exec (.bar2Read addr len errs) s = .fault (.noSuchAddress (addr + len - 1)))
  ∧ (∀ (s : State) (addr : Nat) (data : List Byte), 67108864 < addr + data.length →
      exec (.bar2Write addr data) s = .fault (.noSuchAddress (addr + data.length - 1)))
  ∧ (∀ (s : State) (addr len : Nat), addr + len ≤ 67108864 → s.pwr.memReady = true →
      (∀ k, k < len → granted (protOf s 0) (addr + k) = true) → exec (.bar2Read addr len []) s = .next { s with io := { s.io with pOut := rmClean s addr len } })
  ∧ (∀ (s : State) (addr len : Nat), addr + len ≤ 67108864 → s.pwr.memReady = true →
      (∀ k, k < len → granted (protOf s 1) (addr + k) = true) → fnOut s 0x2F1 = false → exec (.spiMemoryRead addr len []) s =
        .next { s with io := { s.io with sOut := (if addr % 64 = 0 ∧ 0 < len then [] else [0xA5]) ++ spiLines addr (rmClean s addr len) } })
  ∧ (∀ (s : State) (addr len : Nat), addr + len ≤ 67108864 → s.pwr.memReady = true → (∃ k, k < len ∧ granted (protOf s 0) (addr + k) = false) →
      exec (.bar2Read addr len []) s = .next { s with
        glb := { s.glb with bar2Denied := s.glb.bar2Denied + 1, bar2Rose := true },
        io := { s.io with pOut := (List.range len).map fun k => if granted (protOf s 0) (addr + k) then (rmClean s addr len).getD k 0 else 0xFF } })
  ∧ (∀ (s : State) (addr len : Nat) (errs : List SymErr), addr + len ≤ 67108864 → 0 < len →
      (∀ k, k < len → granted (protOf s 0) (addr + k) = false) → exec (.bar2Read addr len errs) s = .next { s with
        glb := { s.glb with bar2Denied := s.glb.bar2Denied + 1, bar2Rose := true }, io := { s.io with pOut := List.replicate len 0xFF } })
  ∧ (∀ (s : State) (addr len : Nat) (errs : List SymErr), addr + len ≤ 67108864 → ∃ t, exec (.bar2Read addr len errs) s = .next t
      ∧ t.io.pOut.length = len ∧ t.rm.mem = s.rm.mem)
  ∧ (∀ (s : State) (addr len : Nat) (errs : List SymErr), fnOut s 0x2F1 = false → 0 < len →
      (∀ k, k < len → 67108864 ≤ addr + k ∨ granted (protOf s 1) (addr + k) = false) → exec (.spiMemoryRead addr len errs) s = .next { s with
        glb := { s.glb with bar2Denied := s.glb.bar2Denied + 1, bar2Rose := true },
        io := { s.io with sOut := (if addr % 64 = 0 ∧ 0 < len then [] else [0xA5]) ++ spiLines addr (List.replicate len 0xFF) } })
  ∧ (∀ (s : State) (addr len : Nat) (errs : List SymErr), ∃ t, exec (.spiMemoryRead addr len errs) s = .next t
      ∧ t.rm.mem = s.rm.mem)
  ∧ (∀ (s : State) (addr : Nat) (data : List Byte), addr + data.length ≤ 67108864 →
      exec (.bar2Write addr data) s = .next { s with glb := { s.glb with bar2Writes := s.glb.bar2Writes + 1, bar2Rose := true } }))

/-- RC_READ, NOW_NS_READ, STAMP_LO_READ and DRIVE_LAST_LO_READ: the word goes to the requester, and the read's side effect
happens: the field is cleared for that requester alone, or the upper half is latched.

REGISTER_WRITE: a requester of the network has no BAR0 (R409); a write of another size or off its alignment is discarded
and counted (R400); an aligned word of a queue's level, of the request buffer of its owner, and of a read-only block. -/
def Obligations.RegisterReadsAndWrites : Prop :=
  ((∀ (s : State) (r : Requester), reachesBar0 s r = true →
    (∀ m, m < 8 → ∃ t, exec (.rcRead r (0x4000 + 0x800 * m + 0x204)) s = .next t
        ∧ tget (boxOf t m).foreign (rcIdx r) false = false ∧ tget (boxOf t m).overrun (rcIdx r) false = false
        ∧ tget (boxOf t m).takeover (rcIdx r) false = false
        ∧ (∀ k, k ≠ rcIdx r → tget (boxOf t m).foreign k false = tget (boxOf s m).foreign k false)
        ∧ t = { s with io := t.io, mbx := t.mbx })
    ∧ (∀ n, n < 608 → ∃ t, exec (.rcRead r (0x200000 + 0x40 * n + 0x14)) s = .next t ∧ tget (chanOf t n).flagOr (rcIdx r) 0 = 0
        ∧ (∀ k, k ≠ rcIdx r → tget (chanOf t n).flagOr k 0 = tget (chanOf s n).flagOr k 0) ∧ t = { s with io := t.io, fe := t.fe })
    ∧ (∀ t0, exec (.nowNsRead r t0) s = .next (giveOut r (le 4 (regVal { s with now := max s.now t0 } r 0x1040))
        { s with now := max s.now t0, tb := { s.tb with nowLatch := BitVec.ofNat 48 (max s.now t0 * 320000) } }))
    ∧ (∀ k : Fin 32, ∃ t, exec (.stampLoRead r k) s = .next t ∧ (tdcOf t k.val).latched = (tdcOf s k.val).last
        ∧ t = { s with io := t.io, tb := { s.tb with tdc := t.tb.tdc } })
    ∧ (∀ (p : Fin 32) (t0 : Nat), ∃ t, exec (.driveLastLoRead r p t0) s = .next t ∧ (portOf t p.val).latched = (portOf s p.val).last
        ∧ (portOf t p.val).age = BitVec.ofNat 32 (max s.now t0 - (portOf s p.val).lastEnd)
        ∧ t = { s with now := t.now, io := t.io, wick := { s.wick with port := t.wick.port } }))
  ∧ (∀ (s : State) (r : Requester) (addr : Nat), reachesBar0 s r = false → exec (.rcRead r addr) s = .next s))
  ∧ ((∀ (s : State) (addr size : Nat) (v : BitVec 64),
      exec (.registerWrite .collA addr size v) s = .next s ∧ exec (.registerWrite .collB addr size v) s = .next s)
  ∧ (∀ (s : State) (r : Requester) (addr size : Nat) (v : BitVec 64), reachesBar0 s r = true →
      (size = 4 ∧ addr % 4 ≠ 0 ∨ size = 8 ∧ addr % 8 ≠ 0 ∨ size ≠ 4 ∧ size ≠ 8) →
      exec (.registerWrite r addr size v) s = .next { s with glb := { s.glb with badAccess := s.glb.badAccess + 1 } })
  ∧ (∀ (s : State) (r : Requester) (o : Nat) (v : BitVec 64), reachesBar0 s r = true → o < 0x1000 → o % 4 = 0 →
      exec (.registerWrite r o 4 v) s = .next { s with glb := { s.glb with badAccess := s.glb.badAccess + 1 } })
  ∧ (∀ (s : State) (r : Requester) (q : Nat) (v : BitVec 64), reachesBar0 s r = true → q < 2 → v.toNat < 2 ^ 32 → v.toNat % 128 ≠ 0 →
      v.toNat % 128 ≤ 64 → ∃ t, exec (.registerWrite r (0x8024 + 0x400 * q) 4 v) s = .next t ∧ (ntqOf t q).level = v.toNat % 128
        ∧ t = { s with ntq := t.ntq } ∧ (∀ k, k ≠ q → ntqOf t k = ntqOf s k))
  ∧ (∀ (s : State) (m : Fin 8) (o : Nat) (v : BitVec 64), reachesBar0 s (ownerOf m.val) = true → o < 0x100 → o % 4 = 0 →
      ∃ t, exec (.registerWrite (ownerOf m.val) (0x4000 + 0x800 * m.val + o) 4 v) s = .next t
        ∧ (boxOf t m.val).req = splice (boxOf s m.val).req o (le 4 (v.toNat % 2 ^ 32)) ∧ t = { s with mbx := t.mbx }))

/-! ### Monitors, pace, temperatures and dissipation (R39 to R43, R92 to R94, R417 to R423, R488) -/

/-- MON_START, MON_STOP, MON_SNAP and MONITOR_AUTO_SWAP: only the owner's host drives a window's controls; another write is
discarded and counted; in the tick of an automatic swap there is that one only.

PACE_ALARM_CLEAR, TEMP_ALARM, TEMP_ALARM_CLEAR, EXC_POWER_NOTICE and EXC_POWER_SHUTOFF: when each acts, the notice's type
and priority in every queue, and what it changes besides. -/
def Obligations.MonitorsAndAlarms : Prop :=
  ((∀ (s : State) (r : Requester) (m : Fin 32), (r = .pcie ∨ r = .spi) → (monOf s m.val).owner = ownerCode r →
    (∃ t, exec (.monStart r m) s = .next t ∧ monOf t m.val = { monOf s m.val with live := {}, running := true } ∧ t = { s with mon := t.mon })
    ∧ (∃ t, exec (.monStop r m) s = .next t ∧ monOf t m.val = { monOf s m.val with running := false } ∧ t = { s with mon := t.mon })
    ∧ ((monOf s m.val).autoIn ≠ some s.tb.tick → ∃ t, exec (.monSnap r m) s = .next t ∧ (monOf t m.val).snap = (monOf s m.val).live
        ∧ (monOf t m.val).live = {} ∧ (monOf t m.val).snapTick = s.tb.tick ∧ (monOf t m.val).snapSeq = (monOf s m.val).snapSeq + 2
        ∧ t = { s with mon := t.mon })
    ∧ ((monOf s m.val).autoIn = some s.tb.tick → ∃ t, exec (.monSnap r m) s = .next t ∧ (∀ k, monOf t k = monOf s k) ∧ t = { s with mon := t.mon }))
  ∧ (∀ (s : State) (r : Requester) (m : Fin 32), ¬ ((r = .pcie ∨ r = .spi) ∧ (monOf s m.val).owner = ownerCode r) →
    exec (.monStart r m) s = .next { s with glb := { s.glb with badAccess := s.glb.badAccess + 1 } }
    ∧ exec (.monStop r m) s = .next { s with glb := { s.glb with badAccess := s.glb.badAccess + 1 } }
    ∧ exec (.monSnap r m) s = .next { s with glb := { s.glb with badAccess := s.glb.badAccess + 1 } })
  ∧ (∀ (s : State) (m : Fin 32), (monOf s m.val).auto = true → (monOf s m.val).winTicks ≠ 0 → s.tb.tick % (monOf s m.val).winTicks = 0 →
    (monOf s m.val).snapIn ≠ some s.tb.tick → (monOf s m.val).autoIn ≠ some s.tb.tick →
    ∃ t, exec (.monitorAutoSwap m) s = .next t ∧ (monOf t m.val).snap = (monOf s m.val).live ∧ (monOf t m.val).autoIn = some s.tb.tick
      ∧ (monOf t m.val).live = {} ∧ (monOf t m.val).running = (monOf s m.val).running ∧ t = { s with mon := t.mon }))
  ∧ ((∀ (s : State) (k : Fin 24), (paceOf s k.val).alarm = true → 64 ≤ (paceOf s k.val).goodRun →
    ∃ t, exec (.paceAlarmClear k) s = .next t ∧ (paceOf t k.val).alarm = false
      ∧ t.ntq = (post 0x03 3 k.val (unsgn 32 (paceOf s k.val).margin) [] s).ntq ∧ t = { s with pace := t.pace, ntq := t.ntq, io := t.io })
  ∧ (∀ (s : State) (d : Fin 5), 16 ≤ tget s.glb.tempOver d.val 0 → tget s.glb.tempAlarm d.val false = false →
    ∃ t, exec (.tempAlarm d) s = .next t ∧ tget t.glb.tempAlarm d.val false = true
      ∧ t.ntq = (post 0x03 0 (0x100 + d.val) (unsgn 32 (tget s.glb.dieTemp d.val 0)) [] s).ntq ∧ t = { s with glb := t.glb, ntq := t.ntq, io := t.io })
  ∧ (∀ (s : State) (d : Fin 5), 64 ≤ tget s.glb.tempUnder d.val 0 → tget s.glb.tempAlarm d.val false = true →
    ∃ t, exec (.tempAlarmClear d) s = .next t ∧ tget t.glb.tempAlarm d.val false = false
      ∧ t.ntq = (post 0x03 3 (0x100 + d.val) (unsgn 32 (tget s.glb.dieTemp d.val 0)) [] s).ntq ∧ t = { s with glb := t.glb, ntq := t.ntq, io := t.io })
  ∧ (∀ (s : State) (x : Fin 4), 16 ≤ (tileOf s x.val).overTicks → (tileOf s x.val).noticed = false →
    ∃ t, exec (.excPowerNotice x) s = .next t ∧ (tileOf t x.val).noticed = true
      ∧ t.ntq = (post 0x04 0 x.val (milliW (tileOf s x.val).power) [] s).ntq ∧ t = { s with fe := t.fe, ntq := t.ntq, io := t.io })
  ∧ (∀ (s : State) (x : Fin 4) (g : Nat), (64 ≤ (tileOf s x.val).over66 ∨ (tileOf s x.val).shutting = true) → 6 * watt < (tileOf s x.val).power →
    hottest s x.val = some g → ∃ t, exec (.excPowerShutoff x) s = .next t ∧ (excOf t g).shutOff = true ∧ excMode t g = 0
      ∧ (tileOf t x.val).power = (tileOf s x.val).power - (excOf s g).pG ∧ (∀ k, k ≠ g → excOf t k = excOf s k)
      ∧ (∀ n, n ∉ groupSlots s g → chanOf t n = chanOf s n)
      ∧ (∀ n, n ∈ groupSlots s g → winOpen (chanOf t n).wins fBad .plain = true) ∧ t = { s with fe := t.fe }))

/-! ### Functions and their resets (R409 to R411, R461 to R467) -/

/-- FRS_RESET_ASSERT, FRS_RESET_RELEASE, FRS_DISABLE and FRS_ENABLE: a requester without the function in its entry writes
nothing (R411); a reset holds the function `OFF` with its former state kept, a release starts its self-test, and an enable
starts it at the next boundary. A reset or disabled Cooper holds no fabric token (R23). -/
def Obligations.FrsWrites : Prop :=
  (∀ (s : State) (r : Requester) (id : Nat), mayWrite s r id = false →
    exec (.frsResetAssert r id) s = .next { s with glb := { s.glb with badAccess := s.glb.badAccess + 1 } }
    ∧ exec (.frsResetRelease r id) s = .next { s with glb := { s.glb with badAccess := s.glb.badAccess + 1 } }
    ∧ exec (.frsDisable r id) s = .next { s with glb := { s.glb with badAccess := s.glb.badAccess + 1 } }
    ∧ exec (.frsEnable r id) s = .next { s with glb := { s.glb with badAccess := s.glb.badAccess + 1 } })
  ∧ (∀ (s : State) (r : Requester) (id : Nat), mayWrite s r id = true → (fnOf s id).held = false →
    ∃ t, exec (.frsResetAssert r id) s = .next t ∧ (fnOf t id).held = true ∧ fnState t id = .off ∧ (fnOf t id).prior = fnState s id
      ∧ fnOut t id = true ∧ (id = 0x2D0 → fabHeld t 2 = 0))
  ∧ (∀ (s : State) (r : Requester) (id : Nat), mayWrite s r id = true → (fnOf s id).held = true →
    exec (.frsResetAssert r id) s = .next s
    ∧ ∃ t, exec (.frsResetRelease r id) s = .next t ∧ fnOf t id = { fnOf s id with held := false, testing := true, testOnly := none }
      ∧ t = { s with fn := t.fn } ∧ (∀ k, k ≠ id → fnOf t k = fnOf s k))
  ∧ (∀ (s : State) (r : Requester) (id : Nat), mayWrite s r id = true → (fnOf s id).held = false →
    fnState s id ≠ .off → fnState s id ≠ .quiescent → fnState s id ≠ .fault →
    ∃ t, exec (.frsDisable r id) s = .next t ∧ fnState t id = .off ∧ (fnOf t id).starting = false ∧ (fnOf t id).testing = false
      ∧ (id = 0x2D0 → fabHeld t 2 = 0))
  ∧ (∀ (s : State) (r : Requester) (id : Nat), mayWrite s r id = true → (fnOf s id).held = false → fnState s id = .off →
    (fnOf s id).testing = false → ∃ t, exec (.frsEnable r id) s = .next t ∧ fnOf t id = { fnOf s id with starting := true }
      ∧ t = { s with fn := t.fn } ∧ (∀ k, k ≠ id → fnOf t k = fnOf s k))

/-- DRAIN_END, FUNCTION_OFF, RENEWAL_HANDOVER, FUNCTION_SELF_TEST_DONE and RENEWAL_RETURN: each moves its function one step
(R410, R462, R465, R466). The Wicks' self-tests end by WICK_SELF_TEST_DONE. -/
def Obligations.FunctionLifecycle : Prop :=
  (∀ (s : State) (id : Nat), (fnOf s id).held = false → (fnState s id = .draining ∨ fnState s id = .enablePending) →
    (fnOf s id).drainTo ≤ s.tb.tick * 1048576 → ¬ (id = fnCooper ∧ s.cop.any (·.running) = true) →
    (id = fnWick 0 ∨ id = fnWick 1 → s.wick.active ≠ some (id - fnWick 0)) →
    ∃ t, exec (.drainEnd id) s = .next t ∧ fnState t id = .quiescent ∧ (fnOf t id).starting = decide (fnState s id = .enablePending)
      ∧ (fnOf t id).drainTo = (s.tb.tick + 1) * 1048576 ∧ (id = 0x2D0 → fabHeld t 2 = 0) ∧ (∀ k, k ≠ id → fnOf t k = fnOf s k)
      ∧ t = { s with fn := t.fn, freeCtr := t.freeCtr, str := { s.str with fabric := t.str.fabric, fabHeldR := t.str.fabHeldR } })
  ∧ (∀ (s : State) (id : Nat), (fnOf s id).held = false → fnState s id = .quiescent → (fnOf s id).drainTo ≤ s.tb.tick * 1048576 →
    ∃ t, exec (.functionOff id) s = .next t ∧ (fnOf t id).disOwed = []
      ∧ ((fnOf s id).starting = false → fnState t id = .off) ∧ ((fnOf s id).starting = true → fnState t id = .running))
  ∧ (∀ (s : State) (id : Nat), fnState s id = .renewing → (fnOf s id).renew = some .going → (fnSession s id).isSome = false →
    ¬ (id = fnCooper ∧ s.cop.any (·.running) = true) → ¬ (id = 0x2F2 ∧ s.io.qBusy = true) →
    (id = fnWick 0 ∨ id = fnWick 1 → s.wick.active ≠ some (id - fnWick 0)) →
    ∃ t, exec (.renewalHandover id) s = .next t ∧ (fnOf t id).renew = some .testing ∧ (fnOf t id).testing = true
      ∧ (0x280 ≤ id → id < 0x2B0 → t.chd.laneOut = some (id - 0x280))
      ∧ (0x2E0 ≤ id → id ≤ 0x2E3 → (ntqOf t (id - 0x2E0)).hidden = true))
  ∧ (∀ (s : State) (id : Nat), id ≠ fnWick 0 → id ≠ fnWick 1 → (fnOf s id).testing = true → sessOf s id = none →
    ((fnOf s id).renew = some .testing → ∃ t, exec (.functionSelfTestDone id true) s = .next t
        ∧ (fnOf t id).renew = some .returning ∧ (fnOf t id).testing = false)
    ∧ ((fnOf s id).renew ≠ some .testing → (fnOf s id).testOnly = none → ∃ t, exec (.functionSelfTestDone id true) s = .next t
        ∧ fnState t id = .off ∧ (fnOf t id).testing = false
        ∧ ((fnOf t id).starting = true ↔ ((fnOf s id).prior = .running ∨ (fnOf s id).prior = .renewing ∨ (fnOf s id).prior = .enablePending)))
    ∧ ((fnOf s id).renew ≠ some .testing → ∃ t, exec (.functionSelfTestDone id false) s = .next t ∧ fnState t id = .fault
        ∧ t.freeCtr = s.freeCtr + 1))
  ∧ (∀ (s : State) (pass : Bool), exec (.functionSelfTestDone 0x2D8 pass) s = exec (.wickSelfTestDone 0 pass) s
      ∧ exec (.functionSelfTestDone 0x2D9 pass) s = exec (.wickSelfTestDone 1 pass) s)
  ∧ (∀ (s : State) (id : Nat), fnState s id = .renewing → (fnOf s id).renew = some .returning → ¬ (0x260 ≤ id ∧ id < 0x270) → id ≠ fnChandler →
    id ≠ fnWick 0 → id ≠ fnWick 1 → ∃ t, exec (.renewalReturn id) s = .next t ∧ fnState t id = .running ∧ (fnOf t id).renew = none
      ∧ (fnOf t id).renOwed = none ∧ (0x2E0 ≤ id → id ≤ 0x2E3 → (ntqOf t (id - 0x2E0)).hidden = false))

/-! ### The Lamplighters and firmware (R366, R458, R459, R468 to R470) -/

/-- LAMPLIGHTER_HEARTBEAT_MISS, LAMPLIGHTER_TAKEOVER_COMPLETE, FW_VERIFY_COMPLETE, FW_HANDOVER and FW_PROBATION_PASS. -/
def Obligations.LamplightersAndFirmware : Prop :=
  (∀ s : State, s.pwr.fwUp = true → s.pwr.llTakeover = false →
    ∃ t, exec .lamplighterHeartbeatMiss s = .next t ∧ tget t.pwr.llFenced s.pwr.llActive false = true
      ∧ fnState t (fnLl s.pwr.llActive) = .fault ∧ t.pwr.llTakeover = lampReady s (1 - s.pwr.llActive)
      ∧ t.pwr.fwUp = lampReady s (1 - s.pwr.llActive) ∧ (s.pwr.llActive < 2 → fabHeld t 3 = 0)
      ∧ (fnOf t (fnLl s.pwr.llActive)).renOwed = none ∧ (fnOf t (fnLl s.pwr.llActive)).disOwed = []
      ∧ t.ntq = (endOwed (fnLl s.pwr.llActive) .functionState 4 s).ntq
      ∧ t = { s with pwr := t.pwr, fn := t.fn, ntq := t.ntq, io := t.io, freeCtr := t.freeCtr,
                     str := { s.str with fabric := t.str.fabric, fabHeldR := t.str.fabHeldR } })
  ∧ (∀ s : State, s.pwr.llTakeover = true → s.net.keptReqs = [] →
    ∃ t, exec .lamplighterTakeoverComplete s = .next t ∧ t.pwr.llTakeover = false ∧ t.pwr.llActive = 1 - s.pwr.llActive
      ∧ tget t.pwr.llUp (1 - s.pwr.llActive) false = true ∧ t.mbx.staged = s.mbx.staged
      ∧ (∀ m, m < 8 → (boxOf s m).busy = true → (boxOf s m).taken.isSome = true → (s.mbx.waitLedger.any fun w => w.1 == m) = false →
          (boxOf t m).busy = false ∧ (boxOf t m).respReady = true ∧ (boxOf t m).log = (boxOf s m).log
          ∧ tget (boxOf t m).takeover 0 false = true))
  ∧ (∀ (s : State) (k : Fin 2) (v : Nat × Owed), (s.pwr.fwVerify.find? fun v => v.1 == k.val) = some v →
    ∃ t, exec (.fwVerifyComplete k) s = .next t ∧ t.pwr.fwVerify = s.pwr.fwVerify.erase v
      ∧ t.ntq = (complete v.2 (if imageOk s k.val then .ok else .signature) 0 s.tb.tick s).ntq
      ∧ (imageOk s k.val = true → tget s.pwr.fwState k.val 0 ≠ 3 → tget t.pwr.fwState k.val 0 = 2)
      ∧ (imageOk s k.val = false → t.pwr.fwState = s.pwr.fwState) ∧ t = { s with pwr := t.pwr, ntq := t.ntq, io := t.io })
  ∧ (∀ (s : State) (u : FwUpdate), s.pwr.fwUpdate = some u → u.probation = false → s.pwr.fwUp = true → s.pwr.llTakeover = false →
    (lampReady s (1 - s.pwr.llActive) = true → ∃ t, exec (.fwHandover true) s = .next t ∧ t.pwr.llActive = 1 - s.pwr.llActive
        ∧ t.pwr.fwRun = some u.slot ∧ tget t.pwr.fwState u.slot 0 = 3 ∧ t.pwr.fwUpdate = some { u with probation := true, since := s.tb.tick })
    ∧ ∃ t, exec (.fwHandover false) s = .next t ∧ t.pwr = { s.pwr with fwUpdate := none }
        ∧ t.ntq = (complete u.owed .mismatch 0 s.tb.tick s).ntq)
  ∧ (∀ (s : State) (u : FwUpdate), s.pwr.fwUpdate = some u → u.probation = true → u.since + 11719 ≤ s.tb.tick →
    ∃ t, exec .fwProbationPass s = .next t ∧ t.pwr.fwUpdate = none ∧ t.pwr.fwRun = s.pwr.fwRun
      ∧ t.ntq = (complete u.owed .ok 0 s.tb.tick s).ntq ∧ (s.pwr.pwrfail = true → t.pwr.flash = s.pwr.flash))

/-! ### Time: PTP (R46 to R60, R71, R72) -/

/-- ANNOUNCE_RECEIVED, SYNC_RECEIVED, FOLLOW_UP_RECEIVED, DELAY_REQ_SEND, DELAY_RESP_RECEIVED, SYNC_TIMEOUT and
ANNOUNCE_RECEIPT_TIMEOUT. The time state never changes here: a loss marks it to leave at the next boundary (R49). A message
of another domain, or over a transport that is off, is not taken; the block-alignment delay of its frame is shown all the same.
While the servo is reset the frequency word holds (R48). -/
def Obligations.PtpMessages : Prop :=
  (∀ (s : State) (x : PtpRx) (a : AnnounceData), lampServes s = true → ptpTakes s x.domain x.udp = true →
    ∃ t, exec (.announceReceived x a) s = .next t ∧ t.tb.masters = hear x.port.val a s.now s.tb ∧ t.tb.markSeq = s.tb.markSeq + 2
      ∧ t.tb.state = s.tb.state ∧ t.tb.parent = bestMaster (hear x.port.val a s.now s.tb)
      ∧ (netOf t x.port.val).blockAlign = BitVec.ofNat 16 x.b ∧ (s.tb.parent = none → t.tb.parent.isSome = true → t.tb.qAnn = 2)
      ∧ t = { s with tb := t.tb, net := t.net })
  ∧ (∀ (s : State) (x : PtpRx) (a : AnnounceData), (lampServes s = false ∨ ptpTakes s x.domain x.udp = false) →
    ∃ t, exec (.announceReceived x a) s = .next t ∧ (netOf t x.port.val).blockAlign = BitVec.ofNat 16 x.b ∧ t = { s with net := t.net })
  ∧ (∀ (s : State) (m : SyncMsg) (q : Nat) (a : AnnounceData), s.tb.parent = some (q, a) → ptpTakes s m.domain m.udp = true →
    (m.twoStep = true → ∃ t, exec (.syncReceived m) s = .next t ∧ t.tb.syncWait = some m ∧ t.tb.state = s.tb.state
      ∧ t.now = max s.now (m.ingress / 320000))
    ∧ (m.twoStep = false → ∃ t, exec (.syncReceived m) s = .next t ∧ t.tb.syncWait = none ∧ t.tb.state = s.tb.state
      ∧ t.tb.msDelay = some ((cutStamp m.ingress : Int) + rxCorr s m.port.val m.b - m.origin - m.corr - asymOf s m.port.val)))
  ∧ (∀ (s : State) (m : SyncMsg), (s.tb.parent = none ∨ ptpTakes s m.domain m.udp = false) →
    ∃ t, exec (.syncReceived m) s = .next t ∧ (netOf t m.port.val).blockAlign = BitVec.ofNat 16 m.b
      ∧ t = { s with now := max s.now (m.ingress / 320000), net := t.net })
  ∧ (∀ (s : State) (f : FollowUpMsg) (w : SyncMsg), s.tb.syncWait = some w → w.seq = f.seq → ptpTakes s f.rx.domain f.rx.udp = true →
    ∃ t, exec (.followUpReceived f) s = .next t ∧ t.tb.syncWait = none ∧ t.tb.state = s.tb.state
      ∧ t.tb.msDelay = some ((cutStamp w.ingress : Int) + rxCorr s w.port.val w.b - f.origin - (w.corr + f.corr) - asymOf s w.port.val)
      ∧ (servoRuns s = true → s.tb.state.lossy = true → t.tb.servoUpd = s.tb.servoUpd + 1 ∧ t.tb.servoLast = w.ingress / 320000
          ∧ -pullMax ≤ t.tb.ptpTerm ∧ t.tb.ptpTerm ≤ pullMax ∧ t.tb.freq = freqOfs t.tb)
      ∧ (servoHeld s = true → t.tb.freq = s.tb.freq ∧ t.tb.ptpTerm = s.tb.ptpTerm))
  ∧ (∀ (s : State) (p : Fin 4) (e : Nat), lampServes s = true → s.tb.parent.isSome = true →
    ∃ t, exec (.delayReqSend p e) s = .next t ∧ t.tb.dreqWait = some (s.tb.dreqSeq.toNat, cutStamp e, p.val) ∧ t.tb.dreqSeq = s.tb.dreqSeq + 1
      ∧ t.sent = s.sent ++ [.delayReq p.val s.tb.dreqSeq])
  ∧ (∀ (s : State) (x : PtpRx) (seq e p : Nat) (r : RespTimes), s.tb.dreqWait = some (seq, e, p) → ptpTakes s x.domain x.udp = true →
    ∃ t, exec (.delayRespReceived x seq r) s = .next t ∧ t.tb.dreqWait = none
      ∧ t.tb.smDelay = some ((r.receipt : Int) - ((e : Int) + txCorr s p) - r.corr + asymOf s p)
      ∧ t.tb.postStep = s.tb.postStep + 1 ∧ t = { s with tb := t.tb, net := t.net })
  ∧ (∀ s : State, ∃ t, exec .syncTimeout s = .next t ∧ t.tb.leave = (s.tb.leave || s.tb.state.lossy) ∧ t.tb.state = s.tb.state
      ∧ t.tb.qAnn = 0 ∧ t.tb.qSync = 0 ∧ t.tb.qDelay = 0 ∧ t = { s with tb := t.tb })
  ∧ (∀ (s : State) (p : Nat) (a : AnnounceData), s.tb.parent = some (p, a) →
    ∃ t, exec .announceReceiptTimeout s = .next t ∧ t.tb.leave = (s.tb.leave || s.tb.state.lossy)
      ∧ t.tb.parent = bestMaster (s.tb.masters.filter fun m => !m.isFrom p a.sender && decide (s.now < m.at_ + annRefs s.tb.cfg))
      ∧ t = { s with tb := t.tb })

/-- SERVO_WATCHDOG, MASTER_QUALIFIED, LOCK_AFTER_STEP, SLEW_COMPLETE, SYNCE_SOURCE_CHANGE, SYNCE_SOURCE_LOSS, ESMC_RECEIVED
and ESMC_SEND: each sets what the next tick boundary acts on; the loss of a Synchronous Ethernet source changes no time
state and freezes the term (R62). -/
def Obligations.TimeStateEvents : Prop :=
  (∀ (s : State) (t0 : Nat), s.tb.state.lossy = true → s.tb.servoLast + watchdogRefs s.tb ≤ t0 →
    ∃ t, exec (.servoWatchdog t0) s = .next t ∧ t.tb.leave = true ∧ t.tb.dog = true ∧ t.tb.state = s.tb.state ∧ t = { s with now := t.now, tb := t.tb })
  ∧ (∀ (s : State) (t0 : Nat), t0 < s.tb.servoLast + watchdogRefs s.tb → exec (.servoWatchdog t0) s = .next { s with now := max s.now t0 })
  ∧ (∀ s : State, s.tb.state.lossy = false → 2 ≤ s.tb.qAnn → 16 ≤ s.tb.qSync → 16 ≤ s.tb.qDelay →
    exec .masterQualified s = .next { s with tb := { s.tb with act := .master } })
  ∧ (∀ s : State, s.tb.qAnn < 2 ∨ s.tb.qSync < 16 ∨ s.tb.qDelay < 16 → exec .masterQualified s = .next s)
  ∧ (∀ s : State, s.tb.state = .acquiring → 16 ≤ s.tb.postStep → exec .lockAfterStep s = .next { s with tb := { s.tb with act := .lock } })
  ∧ (∀ (s : State) (o : Int), s.tb.state = .slewing → -3276800 ≤ o → o ≤ 3276800 →
    exec (.slewComplete o) s = .next { s with tb := { s.tb with offset := o, act := .lock, markSeq := s.tb.markSeq + 2 } })
  ∧ (∀ (s : State) (p : Fin 4) (t0 : Nat), s.tb.synceMode = 1 → s.tb.syncePort = p.val → s.tb.synceSel ≠ some p.val →
    exec (.synceSourceChange p t0) s =
      .next { s with now := max s.now t0, tb := { s.tb with synceSel := some p.val, syncePull := some (t0 + 2048000000) } })
  ∧ (∀ s : State, exec .synceSourceLoss s = .next { s with tb := { s.tb with synceSel := none, syncePull := none } })
  ∧ (∀ (s : State) (p : Fin 4) (ql : Byte), lampServes s = true →
    exec (.esmcReceived p ql) s = .next { s with tb := { s.tb with ql := tset s.tb.ql p.val ql } })
  ∧ (∀ (s : State) (p : Nat), lampServes s = true → s.tb.synceSel = some p → (∀ k, k < 4 → (netOf s k).link = true) →
    ∃ t, exec .esmcSend s = .next t ∧ t.sent = s.sent ++ (List.range 4).map (fun k => OutMsg.esmc k (if p = k then 0x0F else tget s.tb.ql p 0))
      ∧ t = { s with sent := t.sent, net := t.net })

/-! ### Time-to-digital inputs, beacons, value outputs (R75 to R80, R126, R127, R172 to R177) -/

/-- An edge at `x` in an input's stamp buffer of 16, of which `k` words have been taken since the last one came: stamped, or
missed where the buffer is full (R33, R78, R79). -/
def Sys2Proof.Spec.stamped (s t : State) (i k x : Nat) (edge : Bool) : Prop :=
  if (tdcOf s i).buf.length - k < 16 then
    (tdcOf t i).edges = (tdcOf s i).edges + 1 ∧ (tdcOf t i).misses = (tdcOf s i).misses ∧ (tdcOf t i).prev = some x
      ∧ (tdcOf t i).last = stampOf i x edge (holdAt s.tb.holdLog (x / 320000)) (tdcOf s i).lostBefore ∧ (tdcOf t i).lostBefore = false
      ∧ (tdcOf t i).buf = (tdcOf s i).buf.drop k ++ [(tdcOf t i).last] ∧ t.trg.stamps = (i, x, (tdcOf t i).last) :: s.trg.stamps
  else (tdcOf t i).misses = (tdcOf s i).misses + 1 ∧ (tdcOf t i).edges = (tdcOf s i).edges ∧ (tdcOf t i).lostBefore = true
    ∧ (tdcOf t i).last = (tdcOf s i).last ∧ t.trg = s.trg

/-- EVENT_EDGE and COMPARATOR_CROSSING: a chosen edge is stamped in nanoseconds and parts of 800 × 2^-16 ns, or missed where the
buffer is full or the last stamped edge is less than 64 refs old; a muted or disabled comparator stamps nothing. BEACON_EDGE
starts or ends a pulse; the next pulse of a periodic beacon comes a whole number of periods after its start.

How many words the fabric has taken from a stamp buffer is a free value (log 138). -/
def Obligations.StampsAndBeacons : Prop :=
  (∀ (s : State) (i : Fin 16) (rising : Bool) (t0 fine x : Nat), bit (tget s.tb.evtEdges i.val 0) (if rising then 0 else 1) = true →
    fnState s (fnEvent i.val) = .running → (fnOf s (fnEvent i.val)).held = false → x = cutStamp (t0 * 320000 + fine) →
    (∀ p, (tdcOf s i.val).prev = some p → p + 64 * 320000 ≤ x) →
    ∃ t k, exec (.eventEdge i rising t0 fine) s = .next t ∧ k ≤ (tdcOf s i.val).buf.length ∧ Spec.stamped s t i.val k x rising
      ∧ tget t.tb.evtLevel i.val false = rising)
  ∧ (∀ (s : State) (i : Fin 16) (rising : Bool) (t0 fine p : Nat), bit (tget s.tb.evtEdges i.val 0) (if rising then 0 else 1) = true →
    (tdcOf s i.val).prev = some p → cutStamp (t0 * 320000 + fine) < p + 64 * 320000 →
    ∃ t, exec (.eventEdge i rising t0 fine) s = .next t ∧ (tdcOf t i.val).misses = (tdcOf s i.val).misses + 1
      ∧ (tdcOf t i.val).lostBefore = true ∧ (tdcOf t i.val).last = (tdcOf s i.val).last ∧ t.trg = s.trg)
  ∧ (∀ (s : State) (i : Fin 16) (rising : Bool) (t0 fine : Nat), bit (tget s.tb.evtEdges i.val 0) (if rising then 0 else 1) = false →
    ∃ t, exec (.eventEdge i rising t0 fine) s = .next t ∧ t.tb.tdc = s.tb.tdc ∧ t.trg = s.trg ∧ tget t.tb.evtLevel i.val false = rising)
  ∧ (∀ (s : State) (c : Fin 16) (outward : Bool) (t0 fine x : Nat), (compOf s c.val).enable = true → (compOf s c.val).mutedUntil ≤ t0 →
    x = cutStamp (t0 * 320000 + fine) → (∀ p, (tdcOf s (16 + c.val)).prev = some p → p + 64 * 320000 ≤ x) →
    ∃ t k, exec (.comparatorCrossing c outward t0 fine) s = .next t ∧ k ≤ (tdcOf s (16 + c.val)).buf.length
      ∧ Spec.stamped s t (16 + c.val) k x outward)
  ∧ (∀ (s : State) (c : Fin 16) (outward : Bool) (t0 fine : Nat), ((compOf s c.val).enable = false ∨ t0 < (compOf s c.val).mutedUntil) →
    exec (.comparatorCrossing c outward t0 fine) s = .next { s with now := max s.now t0 })
  ∧ (∀ (s : State) (k : Fin 16) (c : BeaconSet) (e : Nat), (beaconOf s k.val).cfg = some c → (beaconOf s k.val).edge = some e →
    ((beaconOf s k.val).inPulse = false → ∃ t, exec (.beaconEdge k) s = .next t ∧ (beaconOf t k.val).inPulse = true
      ∧ (beaconOf t k.val).level = (if fnState s (fnBeacon k.val) = .running then !c.activeLow else (beaconOf s k.val).level)
      ∧ (beaconOf t k.val).pulses = (beaconOf s k.val).pulses + 1
      ∧ (beaconOf t k.val).edge = some (e + c.width) ∧ t = { s with now := max s.now (e / 16), tb := { s.tb with beacon := t.tb.beacon } })
    ∧ ((beaconOf s k.val).inPulse = true → (beaconOf s k.val).stopping = false → (beaconOf s k.val).next = none →
      ∃ t, exec (.beaconEdge k) s = .next t ∧ (beaconOf t k.val).inPulse = false
        ∧ (beaconOf t k.val).level = (if fnState s (fnBeacon k.val) = .running then c.activeLow else (beaconOf s k.val).level)
        ∧ (c.periodic = false → (beaconOf t k.val).edge = none)
        ∧ (c.periodic = true → c.period ≠ 0 → c.start ≤ e →
            ∃ j, (beaconOf t k.val).edge = some (c.start + j * c.period) ∧ e < c.start + j * c.period ∧ c.start + j * c.period ≤ e + c.period)
        ∧ (beaconOf t k.val).pulses = (beaconOf s k.val).pulses
        ∧ t = { s with now := max s.now (e / 16), tb := { s.tb with beacon := t.tb.beacon } })
    ∧ ((beaconOf s k.val).inPulse = true → (beaconOf s k.val).stopping = true →
      ∃ t, exec (.beaconEdge k) s = .next t ∧ (beaconOf t k.val).cfg = none ∧ (beaconOf t k.val).edge = none ∧ (beaconOf t k.val).inPulse = false))

/-- VOUT_CARRIER_START latches the duty of a period; VOUT_EDGE ends its active time, or takes a square wave to its level by
the phase accumulator. -/
def Obligations.ValueOutputs : Prop :=
  (∀ (s : State) (o : Fin 32) (t0 : Nat) (c : VoutSet), (voutOf s o.val).cfg = some c → c.pwm = true → c.pc ≠ 0 → t0 % c.pc = 0 →
    (voutOf s o.val).stopping = false → (voutOf s o.val).next = none → fnOut s (fnVout o.val) = false →
    ∃ t, exec (.voutCarrierStart o t0) s = .next t ∧ (voutOf t o.val).period = some t0 ∧ (voutOf t o.val).running = true
      ∧ (voutOf t o.val).level = voutLevel c (decide (0 < (voutOf t o.val).high))
      ∧ (∀ k, k ≠ o.val → voutOf t k = voutOf s k) ∧ t = { s with now := max s.now t0, freeCtr := s.freeCtr + 1, lin := { s.lin with vout := t.lin.vout } }
      ∧ (∀ w, (voutOf s o.val).newest = some w → wBad w = true → c.onBad = 2 → (voutOf t o.val).f = c.fault ∧ (voutOf t o.val).onBad = true)
      ∧ ((voutOf s o.val).newest = none → (voutOf t o.val).high = 0))
  ∧ (∀ (s : State) (o : Fin 32) (t0 p : Nat) (c : VoutSet), (voutOf s o.val).cfg = some c → c.pwm = true → fnOut s (fnVout o.val) = false →
    (voutOf s o.val).period = some p → p + (voutOf s o.val).high ≤ t0 → (voutOf s o.val).high < c.pc →
    ∃ t, exec (.voutEdge o t0) s = .next t ∧ voutOf t o.val = { voutOf s o.val with level := voutLevel c false }
      ∧ t = { s with now := max s.now t0, lin := { s.lin with vout := t.lin.vout } })
  ∧ (∀ (s : State) (o : Fin 32) (t0 : Nat) (c : VoutSet), (voutOf s o.val).cfg = some c → c.pwm = false → fnOut s (fnVout o.val) = false →
    (voutOf s o.val).halted = false → (voutOf s o.val).stopping = false → (voutOf s o.val).next = none → (voutOf s o.val).onBad = false →
    ∃ t, exec (.voutEdge o t0) s = .next t
      ∧ (voutOf t o.val).acc = (voutOf s o.val).acc + BitVec.ofNat 48 ((t0 - (voutOf s o.val).accAt) * voutInc (voutOf s o.val).f)
      ∧ (voutOf t o.val).accAt = t0 ∧ (voutOf t o.val).level = voutLevel c (!(voutOf t o.val).acc.msb))

/-! ### Protection and excitation (R91, R99 to R107) -/

/-- CLAMP_ONSET and CLAMP_RELEASE: an event on a pin that has none is counted and stands at its pin; a bank's slots on the
clamped pins are flagged `CLAMP` and the bank's other slots `DIST`; with the last event of the bank both flags end.

WIRE_BREAK_DETECT and WIRE_CLEAR: a test that runs sets or clears its row in the slots it bears on, with one notice of
type 0x12, priority 1 or 3; a test that does not run changes nothing but the present instant.

EXC_DROPOUT_ONSET, EXC_LIMIT_ONSET, EXC_DROPOUT_OR_LIMIT_END and EXC_FAULT_END (R91): `DIST` on the group's slots from
the onset to the settling time after the group left dropout and limit. -/
def Obligations.FrontEndFaults : Prop :=
  ((∀ (s : State) (pin : Pin) (t0 n : Nat), pinSlot pin = some n → pinClamps s pin = false →
    ∃ t, exec (.clampOnset pin t0) s = .next t ∧ (chanOf t n).clampEv = (chanOf s n).clampEv + 1)
  ∧ (∀ (s : State) (pin : Pin) (t0 : Nat), pinClamps s pin = true → exec (.clampOnset pin t0) s = .next { s with now := max s.now t0 })
  ∧ (∀ (s : State) (n : Fin 512) (neg : Bool) (t0 : Nat), pinClamps s (.ain n neg) = false → ∃ t, exec (.clampOnset (.ain n neg) t0) s = .next t
      ∧ Pin.ain n neg ∈ (bankSt t (n.val / 32)).clampPins
      ∧ ((chanOf s n.val).route = .pins → winOpen (chanOf t n.val).wins fClamp .step = true)
      ∧ (∀ k ∈ bankSlots (n.val / 32), k ≠ n.val → k ≠ 512 + n.val / 32 → winOpen (chanOf t k).wins fDist .step = true)
      ∧ (∀ k, k ∉ bankSlots (n.val / 32) → chanOf t k = chanOf s k) ∧ t = { s with now := max s.now t0, fe := t.fe })
  ∧ (∀ (s : State) (a : Fin 4) (neg : Bool) (t0 : Nat), pinClamps s (.calRef a neg) = false →
    ∃ t, exec (.clampOnset (.calRef a neg) t0) s = .next t ∧ (tileOf t a.val).refPins = neg :: (tileOf s a.val).refPins
      ∧ (tileOf t a.val).refEvents = (tileOf s a.val).refEvents + 1 ∧ t = { s with now := max s.now t0, fe := t.fe })
  ∧ (∀ (s : State) (a : Fin 4) (i : Fin 16) (t0 : Nat),
      (∃ t, exec (.clampOnset (.aux a i) t0) s = .next t ∧ winOpen (tget t.fe.auxClamp (auxPinKey a.val i.val) []) fClamp .step = true)
      ∧ ∃ t, exec (.clampRelease (.aux a i) t0) s = .next t ∧ winOpen (tget t.fe.auxClamp (auxPinKey a.val i.val) []) fClamp .step = false)
  ∧ (∀ (s : State) (pin : Pin) (t0 b : Nat), ((∃ n g, pin = .ain n g ∧ b = n.val / 32) ∨ ∃ c g, pin = .wb c g ∧ b = c.val) →
    ∃ t, exec (.clampRelease pin t0) s = .next t ∧ pin ∉ (bankSt t b).clampPins
      ∧ (bankClamps t b = [] → ∀ k ∈ bankSlots b, winOpen (chanOf t k).wins fClamp .step = false ∧ winOpen (chanOf t k).wins fDist .step = false)
      ∧ t = { s with now := max s.now t0, fe := t.fe })
  ∧ (∀ (s : State) (a : Fin 4) (neg : Bool) (t0 : Nat), ∃ t, exec (.clampRelease (.calRef a neg) t0) s = .next t
      ∧ (tileOf t a.val).refPins = (tileOf s a.val).refPins.filter (· != neg) ∧ t = { s with now := max s.now t0, fe := t.fe }))
  ∧ ((∀ (s : State) (f : WireFault) (t0 n : Nat), testRuns s t0 f = true → n ∈ wireSlots s f → (isSpare n = true ∨ (chanOf s n).enabled = true) →
    wireRow f ∉ (chanOf s n).wire → ∃ t, exec (.wireBreakDetect f t0) s = .next t ∧ wireRow f ∈ (chanOf t n).wire
      ∧ winOpen (chanOf t n).wins fWire .plain = true ∧ (chanOf t n).wireEvents = (chanOf s n).wireEvents + 1
      ∧ (∀ k, k ∉ wireSlots s f → chanOf t k = chanOf s k)
      ∧ t.ntq = (post 0x12 1 (wireSubject f) (wireRow f) [] { s with now := max s.now t0 }).ntq
      ∧ t = { s with now := max s.now t0, fe := t.fe, ntq := t.ntq, io := t.io })
  ∧ (∀ (s : State) (f : WireFault) (t0 n : Nat), testRuns s t0 f = true → n ∈ wireSlots s f → wireRow f ∈ (chanOf s n).wire →
    ∃ t, exec (.wireClear f t0) s = .next t ∧ wireRow f ∉ (chanOf t n).wire
      ∧ ((chanOf s n).wire = [wireRow f] → winOpen (chanOf t n).wins fWire .plain = false)
      ∧ { flag := flagByte fSettle, kind := .step, lo := t0, hi := some (t0 + wireT s f) } ∈ (chanOf t n).wins
      ∧ (∀ k, k ∉ wireSlots s f → chanOf t k = chanOf s k)
      ∧ t.ntq = (post 0x12 3 (wireSubject f) (wireRow f) [] { s with now := max s.now t0 }).ntq
      ∧ t = { s with now := max s.now t0, fe := t.fe, ntq := t.ntq, io := t.io })
  ∧ (∀ (s : State) (f : WireFault) (t0 : Nat), testRuns s t0 f = false →
    exec (.wireBreakDetect f t0) s = .next { s with now := max s.now t0 } ∧ exec (.wireClear f t0) s = .next { s with now := max s.now t0 }))
  ∧ ((∀ (s : State) (g : Fin 128) (t0 : Nat), excMode s g.val = 1 ∨ excMode s g.val = 2 → groupWire s g.val = false →
    ∃ t, exec (.excDropoutOnset g t0) s = .next t ∧ excOf t g.val = { excOf s g.val with dropout := true, leftAt := none }
      ∧ (∀ n ∈ groupSlots s g.val, winOpen (chanOf t n).wins fDist .plain = true)
      ∧ (∀ n, n ∉ groupSlots s g.val → chanOf t n = chanOf s n) ∧ t = { s with now := max s.now t0, fe := t.fe })
  ∧ (∀ (s : State) (g : Fin 128) (t0 : Nat), excMode s g.val = 1 →
    ∃ t, exec (.excLimitOnset g t0) s = .next t ∧ excOf t g.val = { excOf s g.val with limit := true, leftAt := none }
      ∧ (∀ n ∈ groupSlots s g.val, winOpen (chanOf t n).wins fDist .plain = true)
      ∧ (∀ n, n ∉ groupSlots s g.val → chanOf t n = chanOf s n) ∧ t = { s with now := max s.now t0, fe := t.fe })
  ∧ (∀ (s : State) (g : Fin 128) (t0 : Nat), (excOf s g.val).dropout = true ∨ (excOf s g.val).limit = true → (excOf s g.val).leftAt = none →
    ∃ t, exec (.excDropoutOrLimitEnd g t0) s = .next t ∧ excOf t g.val = { excOf s g.val with leftAt := some t0 }
      ∧ (∀ k, k ≠ g.val → excOf t k = excOf s k) ∧ t = { s with now := max s.now t0, fe := { s.fe with exc := t.fe.exc } })
  ∧ (∀ (s : State) (g : Fin 128) (t0 l : Nat), (excOf s g.val).leftAt = some l → l + excT (excMode s g.val) ≤ t0 →
    ∃ t, exec (.excFaultEnd g t0) s = .next t ∧ excOf t g.val = { excOf s g.val with dropout := false, limit := false, leftAt := none }
      ∧ (∀ n ∈ groupSlots s g.val, winOpen (chanOf t n).wins fDist .plain = false)
      ∧ (∀ n, n ∉ groupSlots s g.val → chanOf t n = chanOf s n) ∧ t = { s with now := max s.now t0, fe := t.fe })
  ∧ (∀ (s : State) (g : Fin 128) (t0 l : Nat), (excOf s g.val).leftAt = some l → t0 < l + excT (excMode s g.val) →
    exec (.excFaultEnd g t0) s = .next { s with now := max s.now t0 }))

/-! ### The chain of a sample (R18, R35, R117, R138 to R168, R336, R415) -/

/-- A FIR stage's output (R142): the sum of the taps times their coefficients, shifted right with rounding half up, and
saturated to 28 bits with its mark. -/
def Obligations.FirStageOutput : Prop :=
  ∀ (coef : Nat → Int) (shift : Nat) (line : List Tap),
    -wideMax ≤ (stageOut coef shift line).v ∧ (stageOut coef shift line).v ≤ wideMax
    ∧ ((stageOut coef shift line).sat = false → ∀ e : Int, 2 * firSum coef 0 line = 2 ^ (shift + 1) * (stageOut coef shift line).v + e →
        -(2 ^ shift) ≤ e ∧ (e < 2 ^ shift))
    ∧ ((∃ x ∈ line, x.sat = true) → (stageOut coef shift line).sat = true)

/-- What the check of a word's `SEQ` leaves (R117): the next one expected, and a fault of the tile link where it left a gap. -/
def Sys2Proof.Spec.linkChecked (s t : State) (b : Nat) (w : BitVec 64) : Prop :=
  chanOf t (wordFe b w) = { chanOf s (wordFe b w) with seqIn := some (wordSeq w + 1) } ∧ (∀ n, n ≠ wordFe b w → chanOf t n = chanOf s n)
    ∧ tileOf t (b / 4) = { tileOf s (b / 4) with
        linkFaults := if (chanOf s (wordFe b w)).seqIn = none ∨ (chanOf s (wordFe b w)).seqIn = some (wordSeq w)
          then (tileOf s (b / 4)).linkFaults else (tileOf s (b / 4)).linkFaults + 1 }

/-- TILE_LINK_WORD: a word enters its bank's buffer of 64 while the data plane runs; a full buffer discards it with the
overflow bit of pace segment 10 and a notice; either way its `SEQ` is checked.

CHANDLER_ROUND: one round of 512 refs; no finished output is lost, a slot that delivers nothing keeps its chains, and a slot's
next expected `SEQ` follows its word, or the round that took none. -/
def Obligations.TileLinksAndRounds : Prop :=
  ((∀ (s : State) (b : Fin 16) (w : BitVec 64), s.pwr.plane = true → wordPos w ≤ 32 → (bankSt s b.val).cicBuf.length < 64 →
    ∃ t, exec (.tileLinkWord b w) s = .next t ∧ (bankSt t b.val).cicBuf = (bankSt s b.val).cicBuf ++ [w] ∧ Spec.linkChecked s t b.val w
      ∧ (∀ k, k ≠ b.val → bankSt t k = bankSt s k)
      ∧ t = { s with fe := { s.fe with bank := t.fe.bank, chan := t.fe.chan, tile := t.fe.tile }, mon := t.mon })
  ∧ (∀ (s : State) (b : Fin 16) (w : BitVec 64), s.pwr.plane = true → wordPos w ≤ 32 → 64 ≤ (bankSt s b.val).cicBuf.length →
    ∃ t, exec (.tileLinkWord b w) s = .next t ∧ paceOf t 10 = { paceOf s 10 with overflow := [(0, true), (1, true)] } ∧ Spec.linkChecked s t b.val w
      ∧ (∀ k, bankSt t k = bankSt s k) ∧ t.ntq = (post 0x03 0 10 (unsgn 32 (paceOf s 10).margin) [] s).ntq
      ∧ t = { s with fe := t.fe, pace := t.pace, ntq := t.ntq, io := t.io })
  ∧ (∀ (s : State) (b : Fin 16) (w : BitVec 64), (s.pwr.plane = false ∨ 32 < wordPos w) → exec (.tileLinkWord b w) s = .next s))
  ∧ ((∀ (s : State) (sar : List (Nat × List (Nat × Int))), s.pwr.plane = true →
    ∃ t, exec (.chandlerRound sar) s = .next t ∧ t.chd.round = s.chd.round + 1 ∧ t.now = max s.now ((s.chd.round + 1) * 512)
      ∧ (∃ l, t.chd.linQ = s.chd.linQ ++ l) ∧ t.chd = { s.chd with round := t.chd.round, linQ := t.chd.linQ }
      ∧ t = { s with now := t.now, fe := t.fe, chd := t.chd, mon := t.mon, pace := t.pace, ntq := t.ntq, io := t.io }
      ∧ (∀ n, n < 544 → (chanOf s n).chains = [] → (chanOf s n).fade = none →
          chanOf t n = { chanOf s n with seqNext := (chanOf t n).seqNext, linkBits := (chanOf t n).linkBits })
      ∧ (∀ n w, n < 528 → takeWord s (bankOf n) n = some w → (chanOf t n).seqNext = some (wordSeq w + 1)
          ∧ (chanOf t n).linkBits = BitVec.ofNat 6 (bits w.toNat 45 40))
      ∧ (∀ n, n < 528 → takeWord s (bankOf n) n = none → (chanOf t n).seqNext = (chanOf s n).seqNext.map (· + 1)))
  ∧ (∀ (s : State) (sar : List (Nat × List (Nat × Int))), s.pwr.plane = false → exec (.chandlerRound sar) s = .next s))

/-- LINEARISE_SAMPLE: the oldest finished output becomes a commit item: a wideband output unchanged, a precision output with
its engineering word, or without one while the unit is out.

SAMPLE_COMMIT: the oldest commit item leaves the queue; a channel's sample in time shows in its CHN mirror under its
index, one past its deadline, or one that its spare delivers, leaves the mirror alone. -/
def Obligations.SamplesCommitted : Prop :=
  ((∀ s : State, s.chd.linQ = [] → exec .lineariseSample s = .next s)
  ∧ (∀ (s : State) (o : ChOut) (rest : List ChOut), s.chd.linQ = o :: rest → 528 ≤ o.fe →
    exec .lineariseSample s = .next { s with chd := { s.chd with
      linQ := rest, comQ := s.chd.comQ ++ [{ fe := o.fe, rate := o.rate, n := o.n, raw := o.raw, endT := o.endT }] } })
  ∧ (∀ (s : State) (o : ChOut) (rest : List ChOut), s.chd.linQ = o :: rest → o.fe < 528 →
    ∃ (t : State) (i : CommitItem), exec .lineariseSample s = .next t ∧ t.chd = { s.chd with linQ := rest, comQ := s.chd.comQ ++ [i] }
      ∧ i.fe = o.fe ∧ i.rate = o.rate ∧ i.n = o.n ∧ i.raw = o.raw ∧ i.endT = o.endT
      ∧ (fnOut s fnLin = true → i.noEng = true ∧ i.eng = badWord)
      ∧ (fnOut s fnLin = false → i.noEng = false
          ∧ i.eng = (linearise o.fe o.raw (o.n * rateRefs o.rate) { s with chd := { s.chd with linQ := rest } }).1.eng
          ∧ (wBad o.raw = true → wBad i.eng = true))
      ∧ t = { s with fe := t.fe, lin := { s.lin with temp := t.lin.temp, descOld := t.lin.descOld }, chd := t.chd, ntq := t.ntq, io := t.io }))
  ∧ ((∀ (s : State) (t0 : Nat), s.chd.comQ = [] → exec (.sampleCommit t0) s = .next { s with now := max s.now t0 })
  ∧ (∀ (s : State) (t0 : Nat) (i : CommitItem) (rest : List CommitItem), s.chd.comQ = i :: rest →
    ∃ t, exec (.sampleCommit t0) s = .next t ∧ t.chd.comQ = rest ∧ t.now = max s.now t0
      ∧ (i.fe < 512 → spareDelivers s (i.fe / 32) (i.fe % 32) i.n = false → max s.now t0 ≤ commitDue s i.fe i →
          (chanOf t i.fe).raw = i.raw ∧ (chanOf t i.fe).eng = i.eng ∧ (chanOf t i.fe).index = i.n ∧ (i.rate = (chanOf s i.fe).rate → (chanOf t i.fe).next = i.n + 1)
          ∧ (∀ r, r < 2 → tget (chanOf t i.fe).flagOr r 0 = tget (chanOf s i.fe).flagOr r 0 ||| BitVec.ofNat 8 (wFlags i.raw)))
      ∧ (i.fe < 512 → (spareDelivers s (i.fe / 32) (i.fe % 32) i.n = true ∨ commitDue s i.fe i < max s.now t0) →
          (chanOf t i.fe).raw = (chanOf s i.fe).raw ∧ (chanOf t i.fe).index = (chanOf s i.fe).index)))

/-- FILT_SWAP_COMPLETE: at a tick boundary, with every slot's blend committed, the banks change places, the completion is
posted, and a deferred swap starts. -/
def Obligations.FilterSwapComplete : Prop :=
  (∀ (s : State) (w : SwapRun), s.chd.swap = some w → s.now = s.tb.tick * 1048576 → (∀ n ∈ swapSlots s, fadeDone s n = true) →
    ∃ t, exec .filtSwapComplete s = .next t ∧ t.chd.active = 1 - s.chd.active
      ∧ (s.chd.deferred = none → s.chd.late = none → s.chd.held = [] → t.chd = { s.chd with active := 1 - s.chd.active, swap := none }
          ∧ (∀ n ∈ swapSlots s, (chanOf t n).fade = none) ∧ t.ntq = (complete w.owed .ok 0 s.tb.tick s).ntq
          ∧ t = { s with fe := t.fe, chd := t.chd, ntq := t.ntq, io := t.io })
      ∧ (∀ d, s.chd.deferred = some d → s.chd.late = none → d.tick ≤ s.tb.tick → swapAhead s = false →
          (∀ n, n < 528 → (chanOf s n).running = false ∨ chainDefined s.chd (1 - (1 - s.chd.active)) (chanOf s n).set (chanOf s n).rate = true) →
          t.chd = { s.chd with
            active := 1 - s.chd.active, swap := some { k := d.k, tick := s.tb.tick, owed := d.owed, since := s.tb.tick }, deferred := none }))
  ∧ (∀ s : State, (s.chd.swap = none ∨ s.now ≠ s.tb.tick * 1048576 ∨ ∃ n ∈ swapSlots s, fadeDone s n = false) →
    exec .filtSwapComplete s = .next s)

/-! ### The auxiliary converters (R128 to R133) -/

/-- AUX_TIMER_FIRE, AUX_SEGMENT_START, AUX_CONVERSION_COMPLETE and AUX_TABLE_APPLY: an event starts the segment that waits for
it, or is counted as missed, or is lost where the time base's buffer of 32 is full (R33, log 138); a segment's first hold; a conversion's sample and the next hold; and a new table at entry 0. -/
def Obligations.AuxiliaryScans : Prop :=
  (∀ (s : State) (c : Fin 4) (tm : Fin 2) (t0 : Nat), (tget (auxOf s c.val).timers tm.val {}).period ≠ 0 →
    (tget (auxOf s c.val).timers tm.val {}).phase ≤ t0 →
    (t0 - (tget (auxOf s c.val).timers tm.val {}).phase) % (tget (auxOf s c.val).timers tm.val {}).period = 0 →
    fnIdle s (fnAuxConv c.val) = false → s.tb.evBuf.length < 32 → ∃ t, exec (.auxTimerFire c tm t0) s = .next t
      ∧ t = { s with now := max s.now t0, freeCtr := s.freeCtr + 1, tb := { s.tb with evBuf := t.tb.evBuf }, fe := { s.fe with aux := t.fe.aux },
                     mon := t.mon }
      ∧ t.tb.evBuf.getLast? = some (BitVec.ofNat 64 t0) ∧ (∀ k, k ≠ c.val → auxOf t k = auxOf s k)
      ∧ (∀ e, (auxOf s c.val).table.getD (auxOf s c.val).pos 0 = e → auxWait e = true → auxSource e = tm.val → (auxOf s c.val).phase = .waiting →
          (auxOf s c.val).freeAt ≤ t0 → auxOf t c.val = { auxOf s c.val with
            phase := .delay (max (t0 + auxDelay e) ((auxOf s c.val).muxAt + 100)) (decide (t0 + auxDelay e < (auxOf s c.val).muxAt + 100))
            event := some t0 })
      ∧ (∀ e ∈ (auxOf s c.val).table, auxWait e = true → auxSource e = tm.val → ((auxOf s c.val).phase ≠ .waiting ∨ t0 < (auxOf s c.val).freeAt) →
          auxOf t c.val = { auxOf s c.val with missed := (auxOf s c.val).missed + 1 }))
  ∧ (∀ (s : State) (c : Fin 4) (tm : Fin 2) (t0 : Nat), (tget (auxOf s c.val).timers tm.val {}).period ≠ 0 →
    (tget (auxOf s c.val).timers tm.val {}).phase ≤ t0 →
    (t0 - (tget (auxOf s c.val).timers tm.val {}).phase) % (tget (auxOf s c.val).timers tm.val {}).period = 0 →
    ∃ t, exec (.auxTimerFire c tm t0) s = .next t ∧ (t.tb.evBuf.getLast? = some (BitVec.ofNat 64 t0)
      ∨ (t.fe = s.fe ∧ (paceOf t 13).overflow = [(0, true), (1, true)])))
  ∧ (∀ (s : State) (c : Fin 4) (due : Nat) (late : Bool), (auxOf s c.val).phase = .delay due late →
    auxWait ((auxOf s c.val).table.getD (auxNext (auxOf s c.val)) 0) = false → ∃ t, exec (.auxSegmentStart c) s = .next t
      ∧ (auxOf t c.val).phase = .converting due 0 ∧ (auxOf t c.val).firstHold = due ∧ (auxOf t c.val).pos = auxNext (auxOf s c.val)
      ∧ (auxOf t c.val).late = (auxOf s c.val).late + (if late then 1 else 0) ∧ (auxOf t c.val).event = (auxOf s c.val).event
      ∧ t = { s with now := max s.now due, fe := { s.fe with aux := t.fe.aux } })
  ∧ (∀ (s : State) (c : Fin 4) (hold rep : Nat) (e : BitVec 64) (code : Int), (auxOf s c.val).phase = .converting hold rep →
    (auxOf s c.val).table.getD (auxOf s c.val).pos 0 = e → fnOut s (fnAuxConv c.val) = false → (auxOf s c.val).waiting = none →
    ∃ t, exec (.auxConversionComplete c code) s = .next t ∧ t.now = max s.now (hold + 100)
      ∧ (rep < auxRepeat e → (auxOf t c.val).phase = .converting (hold + 200 + auxDelay e) (rep + 1) ∧ (auxOf t c.val).pos = (auxOf s c.val).pos)
      ∧ (auxRepeat e ≤ rep → (auxOf t c.val).pos = auxNext (auxOf s c.val))
      ∧ (auxAvg e = false → fnOut s (544 + 16 * c.val + auxDest e) = false →
          ∃ x, (auxNewest t (544 + 16 * c.val + auxDest e)).head? = some x ∧ x.stamp = hold ∧ x.code = code
            ∧ wVal x.word = (codeWord (auxMode e) (trimCode (corrAt s (auxCorrKey c.val (auxMode e) (auxGain e)) hold) (auxMode e) code)).1)
      ∧ (auxAvg e = true → rep < auxRepeat e → t.fe.auxLast = s.fe.auxLast))
  ∧ (∀ (s : State) (c : Fin 4) (tb : List (BitVec 64)), (auxOf s c.val).waiting = some tb → (auxOf s c.val).phase = .idle →
    ∃ t, exec (.auxTableApply c) s = .next t ∧ (auxOf t c.val).table = tb ∧ (auxOf t c.val).waiting = none ∧ (auxOf t c.val).pos = 0
      ∧ (auxWait (tb.getD 0 0) = true → (auxOf t c.val).phase = .waiting)
      ∧ (auxWait (tb.getD 0 0) = false → (auxOf t c.val).phase =
          .converting ((auxOf s c.val).freeAt + 100) 0)
      ∧ t = { s with fe := { s.fe with aux := t.fe.aux } })

/-! ### Streams and the ledger (R16 to R20, R186 to R204, R271 to R273) -/

/-- COMMIT_DEADLINE: the present instant comes to the stream's next deadline and each word that is due is booked: P with M, D
or F, so that P = A + D + F + M stays; a word that falls due after the release of the retention is D. -/
def Obligations.CommitDeadlines : Prop :=
  (∀ (s : State) (i : Fin 64) (d : Nat × List Nat), (s.pwr.plane = true ∨ (strOf s i.val).enabled = false) → (strOf s i.val).cfg.kind ≠ 6 →
    nextDeadline s i.val = some d → ∃ t, exec (.commitDeadline i) s = .next t ∧ t.now = max s.now d.1
      ∧ ((strOf s i.val).cfg.kind = 0 → ∀ ch ∈ d.2, ch < (strOf s i.val).due.length →
          (strOf t i.val).due.getD ch 0 = nextOut (strOf s i.val) ((strOf s i.val).due.getD ch 0 + 1))
      ∧ (∀ ch, d.2 = [ch] → (strOf s i.val).cfg.kind = 0 → (strOf s i.val).cfg.recordsOnly = false → (strOf s i.val).retained = false →
          (strOf s i.val).blocks = [] → (strOf s i.val).asm = [] → (strOf s i.val).earlyGone = [] →
          (strOf t i.val).cnt = { (strOf s i.val).cnt with p := (strOf s i.val).cnt.p + 1, d := (strOf s i.val).cnt.d + 1 }
          ∧ tget (strOf t i.val).cause 2 0 = tget (strOf s i.val).cause 2 0 + 1))
  ∧ (∀ (s : State) (i : Fin 64) (x : Nat) (xs : List Nat), (s.pwr.plane = true ∨ (strOf s i.val).enabled = false) → (strOf s i.val).cfg.kind = 6 →
    entryStamps (strOf s i.val) = x :: xs → ∃ t, exec (.commitDeadline i) s = .next t
      ∧ t.now = max s.now (entryDeadline s (strOf s i.val).cfg (xs.foldl min x)))
  ∧ (∀ (s : State) (i : Fin 64), (strOf s i.val).enabled = true → s.pwr.plane = false → exec (.commitDeadline i) s = .next s)
  ∧ (∀ (host : Option Nat) (st : Stream) (ws : List Word32) (w : Word32), balanced st.cnt = true →
      (w.st = .early ∨ w.st = .absent ∨ (∃ cz, w.st = .dueF cz) ∨ ∃ cz, w.st = .dueD cz) →
      balanced (bookWord host (st, ws) w).1.cnt = true ∧ (bookWord host (st, ws) w).1.cnt.p = st.cnt.p + 1
      ∧ (bookWord host (st, ws) w).1.cnt.a = st.cnt.a)

/-- COOPER_INLINE_DONE and BLOCK_SEND: the oldest closed block that is not stored is coded, or stored raw; and the oldest
stored block that a destination has not been sent goes out in DATA datagrams. -/
def Obligations.BlocksStoredAndSent : Prop :=
  (∀ (s : State) (i : Fin 64) (b : Block), (strOf s i.val).blocks.find? (fun b => !b.coded) = some b →
    ∃ t, exec (.cooperInlineDone i) s = .next t ∧ t.now = s.now
      ∧ (∀ x ∈ (strOf t i.val).blocks, (x ∈ (strOf s i.val).blocks ∧ x ≠ b) ∨ (x.coded = true ∧ x.seq = b.seq ∧ x.body = b.body))
      ∧ t = { s with rm := t.rm, str := { s.str with s := t.str.s }, mon := t.mon, sent := t.sent })
  ∧ (∀ (s : State) (i : Fin 64), (∀ b ∈ (strOf s i.val).blocks, b.coded = true) → exec (.cooperInlineDone i) s = .next s)
  ∧ (∀ (s : State) (i : Fin 64) (t0 r : Nat) (a : BitVec 128) (b : Block) (rest : List Block), (strOf s i.val).blocks = b :: rest → b.coded = true →
    destRoles (strOf s i.val).cfg = [r] → (tget b.dst r {}).sent = none → (tget b.dst r {}).acked = false → roleAddr s r = some a →
    ∃ t, exec (.blockSend i t0) s = .next t
      ∧ t.sent = s.sent ++ (dataDgrams (b.bytes.length + 1) s i.val b.seq.toNat false (strOf s i.val).cfg.payload 0 b.bytes).map
          (dataMsg s a (strOf s i.val).cfg.port)
      ∧ (∃ x, (strOf t i.val).blocks.head? = some x ∧ (tget x.dst r {}).sent = some (max s.now t0) ∧ x.bytes = b.bytes ∧ x.seq = b.seq)
      ∧ (strOf t i.val).cnt = (strOf s i.val).cnt ∧ t = { s with now := max s.now t0, sent := t.sent, str := { s.str with s := t.str.s } })
  ∧ (∀ (s : State) (i : Fin 64) (t0 : Nat), (∀ b ∈ (strOf s i.val).blocks, b.coded = false ∨ ∀ r ∈ destRoles (strOf s i.val).cfg,
      (tget b.dst r {}).sent.isSome = true ∨ (tget b.dst r {}).acked = true) → exec (.blockSend i t0) s = .next { s with now := max s.now t0 })

/-- RETRANSMISSION_TIMEOUT and STREAM_ACK_RECEIVED: a block is sent again once its timeout has passed and it is not
acknowledged; a sound ACK leaves no block that every destination has acknowledged; one that fails its tag is discarded and
counted in both counters; one that comes during a takeover is kept. -/
def Obligations.RetransmissionAndAcks : Prop :=
  (∀ (s : State) (i : Fin 64) (seq : Nat) (r : Fin 2) (t0 x : Nat) (a : BitVec 128) (b : Block),
    (strOf s i.val).blocks.find? (fun b => b.coded && b.seq == BitVec.ofNat 32 seq) = some b → (tget b.dst r.val {}).sent = some x →
    roleAddr s r.val = some a → (tget b.dst r.val {}).acked = false → bit (strOf s i.val).cfg.dest r.val = true →
    (x + (strOf s i.val).cfg.rto * 204800 ≤ t0 → ∃ t, exec (.retransmissionTimeout i seq r t0) s = .next t
        ∧ t.sent = s.sent ++ (dataDgrams (b.bytes.length + 1) s i.val b.seq.toNat true (strOf s i.val).cfg.payload 0 b.bytes).map
            (dataMsg s a (strOf s i.val).cfg.port)
        ∧ (∀ y ∈ (strOf t i.val).blocks, y.seq = b.seq → (tget y.dst r.val {}).sent = some (max s.now t0))
        ∧ t = { s with now := max s.now t0, sent := t.sent, str := { s.str with s := t.str.s } })
    ∧ (t0 < x + (strOf s i.val).cfg.rto * 204800 → exec (.retransmissionTimeout i seq r t0) s = .next { s with now := max s.now t0 }))
  ∧ (∀ (s : State) (d : Dgram), s.pwr.llTakeover = false → ackOk s d = true → ∃ t, exec (.streamAckReceived d) s = .next t
      ∧ (collOf t (rd d.body 3 1)).lastSrc = d.src
      ∧ (∀ b ∈ (strOf t (rd d.body 2 1)).blocks, ¬ ∀ r ∈ destRoles (strOf s (rd d.body 2 1)).cfg, (tget b.dst r {}).acked = true)
      ∧ (∀ k, k ≠ rd d.body 2 1 → strOf t k = strOf s k))
  ∧ (∀ (s : State) (d : Dgram), s.pwr.llTakeover = false →
      hmacTag (keyOf s (collOf s (rd d.body 3 1)).cfg.keyId) (d.body.take 24) ≠ d.body.drop 24 → ∃ t, exec (.streamAckReceived d) s = .next t
      ∧ (netOf t d.port.val).discard = (netOf s d.port.val).discard + 1 ∧ (netOf t d.port.val).authFail = (netOf s d.port.val).authFail + 1
      ∧ t = { s with net := t.net })
  ∧ (∀ (s : State) (d : Dgram), s.pwr.llTakeover = true → s.str.keptAcks.length < 1024 →
      exec (.streamAckReceived d) s = .next { s with str := { s.str with keptAcks := s.str.keptAcks ++ [d] } })

/-- REDUCTION_INTERVAL_END: once the boundary has passed and the interval's inputs are in or overdue, the instance moves to
its next interval with its cells at zero. -/
def Obligations.ReductionIntervals : Prop :=
  (∀ (s : State) (j a : Nat) (r : RedInst), redAt s j = some r → r.kind = 4 ∨ r.kind = 5 → r.runs = [(a, none)] → r.cuts = [] →
    (r.intv + 1) * r.period ≤ s.tb.tick → fnOut s fnRed = false →
    (n0 ((r.intv + 1) * r.period) (rateRefs r.rate) ≤ r.nextIn
      ∨ (n0 ((r.intv + 1) * r.period) (rateRefs r.rate) - 1) * rateRefs r.rate + latency s r.slot ≤ s.now) →
    ∃ t x, exec (.reductionIntervalEnd j) s = .next t ∧ redAt t j = some x ∧ x.intv = r.intv + 1
      ∧ (r.wait = [] → x.cells = [] ∧ x.poison = [] ∧ x.skipped = 0 ∧ x.sat = false) ∧ (∀ k, k ≠ j → redAt t k = redAt s k))
  ∧ (∀ (s : State) (j : Nat) (r : RedInst), redAt s j = some r → s.tb.tick < (r.intv + 1) * r.period →
    exec (.reductionIntervalEnd j) s = .next s)

/-! ### Triggers and records (R208 to R216, R219 to R229, R239) -/

/-- TRIG_EVALUATION: an armed group evaluates its next index once its samples are committed and its instant lies behind; each
member takes its own evaluation; a fire becomes one record, or is missed where a record still holds it off. -/
def Obligations.TriggerEvaluations : Prop :=
  (∀ (s : State) (g : Fin 8) (t0 : Nat), (grpOf s g.val).armed = true →
    evalReady { s with now := max s.now t0 } (grpOf s g.val).cfg (grpOf s g.val).next = true → (grpOf s g.val).stopAt = none →
    ∃ t, exec (.trigEvaluation g t0) s = .next t ∧ (grpOf t g.val).next = (grpOf s g.val).next + 1 ∧ (grpOf t g.val).fires = []
      ∧ (grpOf t g.val).armed = true ∧ t.now = max s.now t0
      ∧ (∀ i ∈ members s (grpOf s g.val).cfg,
          seqrOf t i = (memberEval { s with now := max s.now t0 } (grpOf s g.val).cfg (grpOf s g.val).next i).1)
      ∧ (∀ i, i ∉ members s (grpOf s g.val).cfg → seqrOf t i = seqrOf s i) ∧ (∀ k, k ≠ g.val → grpOf t k = grpOf s k)
      ∧ (∀ f, members s (grpOf s g.val).cfg = [] → (grpOf s g.val).fires = [f] →
          ((grpOf t g.val).recs.length = (grpOf s g.val).recs.length + 1 ∧ (grpOf t g.val).recNo = (grpOf s g.val).recNo + 1
            ∧ (grpOf t g.val).lastE = some (f.trig + ((grpOf s g.val).cfg.tPost + (grpOf s g.val).cfg.tRearm) * 320000)
            ∧ ∀ e, (grpOf s g.val).lastE = some e → e ≤ f.trig)
          ∨ ((grpOf t g.val).recs = (grpOf s g.val).recs ∧ (grpOf t g.val).missed = (grpOf s g.val).missed + 1))
      ∧ ((grpOf s g.val).fires = [] → members s (grpOf s g.val).cfg = [] →
          t = { s with now := max s.now t0, trg := { s.trg with grp := t.trg.grp } }))
  ∧ (∀ (s : State) (g : Fin 8) (t0 : Nat), ((grpOf s g.val).armed = false
      ∨ evalReady { s with now := max s.now t0 } (grpOf s g.val).cfg (grpOf s g.val).next = false) →
    exec (.trigEvaluation g t0) s = .next { s with now := max s.now t0 })

/-- FIRE_MESSAGE_RECEIVED: a message whose tag fails, or that has been handled, is discarded and counted; a sound one becomes
a fire of each armed group that its network group names, or counts as disarmed.

ARM_MESSAGE_RECEIVED and DISARM_MESSAGE_RECEIVED (R228): entered for their tick, or for the next boundary with the late
mark and a notice where the tick has begun. -/
def Obligations.GroupMessages : Prop :=
  ((∀ (s : State) (d : Dgram) (t0 : Nat), hmacTag (keyOf s (rd d.body 2 1)) (d.body.take 48) ≠ d.body.drop 48 →
    ∃ t, exec (.fireMessageReceived d t0) s = .next t ∧ (netOf t d.port.val).discard = (netOf s d.port.val).discard + 1
      ∧ (netOf t d.port.val).authFail = (netOf s d.port.val).authFail + 1 ∧ t = { s with now := max s.now t0, net := t.net })
  ∧ (∀ (s : State) (d : Dgram) (t0 : Nat), trigTagOk s 0x10 d.body = true →
      (BitVec.ofNat 16 (rd d.body 8 2), BitVec.ofNat 32 (rd d.body 12 4)) ∈ s.trg.handled →
    ∃ t, exec (.fireMessageReceived d t0) s = .next t ∧ (netOf t d.port.val).discard = (netOf s d.port.val).discard + 1
      ∧ (netOf t d.port.val).authFail = (netOf s d.port.val).authFail ∧ t = { s with now := max s.now t0, net := t.net })
  ∧ (∀ (s : State) (d : Dgram) (t0 g : Nat), trigTagOk s 0x10 d.body = true → g ∈ netGroups s (rd d.body 4 4) 1 →
      rd d.body 8 2 ≠ hubNo s → (BitVec.ofNat 16 (rd d.body 8 2), BitVec.ofNat 32 (rd d.body 12 4)) ∉ s.trg.handled →
    ∃ t, exec (.fireMessageReceived d t0) s = .next t
      ∧ t.trg.handled = (BitVec.ofNat 16 (rd d.body 8 2), BitVec.ofNat 32 (rd d.body 12 4)) :: s.trg.handled
      ∧ ((grpOf s g).armed = true → ∃ f, (grpOf t g).fires = (grpOf s g).fires ++ [f] ∧ f.network = true
          ∧ f.trig = fuOf (rd d.body 16 6) (rd d.body 24 4) (rd d.body 22 2) ∧ f.origHub = BitVec.ofNat 16 (rd d.body 8 2)
          ∧ f.origRec = BitVec.ofNat 32 (rd d.body 12 4))
      ∧ ((grpOf s g).armed = false → (grpOf t g).fires = (grpOf s g).fires ∧ (grpOf t g).disarmed = min 0xFFFF ((grpOf s g).disarmed + 1))
      ∧ t = { s with now := max s.now t0, trg := { s.trg with handled := t.trg.handled, grp := t.trg.grp } }))
  ∧ ((∀ (s : State) (d : Dgram) (arm : Bool), s.pwr.fwUp = true → trigTagOk s (if arm then 0x11 else 0x12) d.body = true → rd d.body 8 2 ≠ hubNo s →
    ∃ t, exec (if arm then .armMessageReceived d else .disarmMessageReceived d) s = .next t
      ∧ (∀ g ∈ netGroups s (rd d.body 4 4) 2, (s.tb.tick < rd d.body 16 8 →
            grpOf t g = { grpOf s g with armAt := (grpOf s g).armAt ++ [(rd d.body 16 8, arm)] })
          ∧ (rd d.body 16 8 ≤ s.tb.tick →
            grpOf t g = { grpOf s g with armAt := (grpOf s g).armAt ++ [(s.tb.tick + 1, arm)], lateArm := true }))
      ∧ (∀ g, g ∉ netGroups s (rd d.body 4 4) 2 → grpOf t g = grpOf s g)
      ∧ (s.tb.tick < rd d.body 16 8 → t.ntq = s.ntq) ∧ t = { s with trg := { s.trg with grp := t.trg.grp }, ntq := t.ntq, io := t.io })
  ∧ (∀ (s : State) (d : Dgram), s.pwr.fwUp = false → exec (.armMessageReceived d) s = .next s ∧ exec (.disarmMessageReceived d) s = .next s)
  ∧ (∀ (s : State) (d : Dgram) (arm : Bool), s.pwr.fwUp = true → hmacTag (keyOf s (rd d.body 2 1)) (d.body.take 48) ≠ d.body.drop 48 →
    ∃ t, exec (if arm then .armMessageReceived d else .disarmMessageReceived d) s = .next t
      ∧ (netOf t d.port.val).authFail = (netOf s d.port.val).authFail + 1 ∧ t = { s with net := t.net }))

/-- RECORD_COMPLETE: the oldest incomplete record, at a boundary 10 µs after its last word is due, is written to record memory
behind its 128-byte header, and its notice posted; every byte outside the record is as before. -/
def Obligations.RecordsComplete : Prop :=
  (∀ (s : State) (g : Fin 8) (r : Record), (grpOf s g.val).recs.find? (fun r => !r.complete) = some r → recDue s r + 2048 ≤ s.tb.tick * 1048576 → s.memInv →
    ∃ t nr, exec (.recordComplete g) s = .next t ∧ nr ∈ (grpOf t g.val).recs ∧ nr.no = r.no ∧ nr.complete = true ∧ nr.ofs = r.ofs ∧ nr.trig = r.trig
      ∧ nr.parts.length = r.parts.length ∧ nr.length ≤ nr.reserved ∧ nr.reserved < nr.length + 64
      ∧ rmRead t r.ofs 128 = recHeader s g.val nr
      ∧ (∀ a, (a < r.ofs ∨ r.ofs + nr.length ≤ a) → memRead 0 t.rm.mem a = memRead 0 s.rm.mem a)
      ∧ t.ntq = (postTos (maskQueues (grpOf s g.val).cfg.queues) 0x10 1 g.val nr.no.toNat
          (le 2 nr.flags.toNat ++ le 2 (trigFrac nr.trig) ++ le 4 (trigNs nr.trig) ++ le 8 (trigSec nr.trig) ++ le 4 nr.ofs ++ le 4 nr.length) s).ntq
      ∧ t = { s with freeCtr := s.freeCtr + r.parts.length, rm := t.rm, trg := { s.trg with grp := t.trg.grp }, ntq := t.ntq, io := t.io })
  ∧ (∀ (s : State) (g : Fin 8), (∀ r, (grpOf s g.val).recs.find? (fun r => !r.complete) = some r → s.tb.tick * 1048576 < recDue s r + 2048) →
    exec (.recordComplete g) s = .next s)

/-! ### Record memory and Cooper's jobs (R249 to R259, R275 to R280) -/

/-- SCRUB_LINE: the scrubber reads the next line while it runs and no migration copies; corrected symbols are counted against
the physical bank, an uncorrectable one in a word not yet poisoned counts as uncorrectable, the poison map's three copies are
brought to their majority, and no byte of memory changes but a miscorrected one.

MIGRATION_START, MIGRATION_COPY_DONE and MIGRATION_SWITCH: the copy starts where the spare is free, and at the switch the
spare serves the bank, the former physical bank leaves service, and the hand-over is logged; a poisoned word of the bank was
copied as zeros and stays poisoned, and no other byte changes. A disabled bank is off, a renewed one goes on to its test. -/
def Obligations.ScrubAndMigration : Prop :=
  ((∀ (s : State) (errs : List SymErr) (raced : Bool), (s.pwr.memReady = false ∨ s.rm.mig ≠ none ∨ fnState s 0x328 ≠ .running
      ∨ (fnOf s 0x328).held = true) → exec (.scrubLine errs raced) s = .next s)
  ∧ (∀ (s : State) (raced : Bool), s.pwr.memReady = true → s.rm.mig = none → fnState s 0x328 = .running → (fnOf s 0x328).held = false →
    (s.rm.pos + 1 < allLines → ∃ t, exec (.scrubLine [] raced) s = .next t ∧ (∀ w, t.rm.poison.has w = s.rm.poison.has w)
        ∧ (∀ w, t.rm.llPoison.has w = s.rm.llPoison.has w)
        ∧ (∀ b i, s.rm.pos < 33 * 32768 → logOf s (s.rm.pos / 32768) = some b → i < 8 →
            let w := lineAddr b (s.rm.pos % 32768) + 8 * i
            t.rm.poison.c0.contains w = s.rm.poison.has w ∧ t.rm.poison.c1.contains w = s.rm.poison.has w
              ∧ t.rm.poison.c2.contains w = s.rm.poison.has w)
        ∧ t = { s with rm := { s.rm with pos := s.rm.pos + 1, poison := t.rm.poison, llPoison := t.rm.llPoison } })
    ∧ (allLines ≤ s.rm.pos + 1 → ∃ t, exec (.scrubLine [] raced) s = .next t ∧ t.rm.pos = 0 ∧ t.rm.sweeps = s.rm.sweeps + 1
        ∧ (∀ k, tget t.rm.bankCnt k {} = { tget s.rm.bankCnt k {} with
            lastSweep := (tget s.rm.bankCnt k {}).thisSweep, thisSweep := 0 }) ∧ t.rm.mem = s.rm.mem)
    ∧ (∀ e : SymErr, e.ofs < 64 → e.kind = .corrected → s.rm.pos + 1 < allLines → ∃ t, exec (.scrubLine [e] raced) s = .next t
        ∧ tget t.rm.bankCnt (min (s.rm.pos / 32768) 33) {} = { tget s.rm.bankCnt (min (s.rm.pos / 32768) 33) {} with
            thisSweep := (tget s.rm.bankCnt (min (s.rm.pos / 32768) 33) {}).thisSweep + 1
            total := (tget s.rm.bankCnt (min (s.rm.pos / 32768) 33) {}).total + 1 }
        ∧ t.rm.pos = s.rm.pos + 1 ∧ t.rm.mem = s.rm.mem ∧ ∀ w, t.rm.poison.has w = s.rm.poison.has w)
    ∧ (∀ (e : SymErr) (b : Nat), e.ofs < 64 → e.kind = .uncorrectable → s.rm.pos < 33 * 32768 → logOf s (s.rm.pos / 32768) = some b →
        s.rm.poison.has ((lineAddr b (s.rm.pos % 32768) + e.ofs) / 8 * 8) = false → ∃ t, exec (.scrubLine [e] raced) s = .next t
        ∧ (tget t.rm.bankCnt (physOf s b) {}).uncorr = (tget s.rm.bankCnt (physOf s b) {}).uncorr + 1
        ∧ t.rm.pos = s.rm.pos + 1 ∧ t.rm.mem = s.rm.mem)
    ∧ (∀ (e : SymErr) (b : Nat) (v : Byte), e.ofs < 64 → e.kind = .miscorrected v → s.rm.pos < 33 * 32768 → logOf s (s.rm.pos / 32768) = some b →
        s.memInv → ∃ t, exec (.scrubLine [e] false) s = .next t ∧ memRead 0 t.rm.mem (lineAddr b (s.rm.pos % 32768) + e.ofs) = v
        ∧ ∀ a, a ≠ lineAddr b (s.rm.pos % 32768) + e.ofs → memRead 0 t.rm.mem a = memRead 0 s.rm.mem a)))
  ∧ ((∀ (s : State) (b : Fin 32) (w : Nat × Option Owed) (sp : Nat), s.rm.wantMig.find? (fun e => e.1 == b.val) = some w → s.rm.sparePhys = some sp →
    s.rm.mig = none → ∃ t, exec (.migrationStart b) s = .next t ∧ t.rm.mig = some { bank := b.val, phase := .copying, owed := w.2 }
      ∧ fnState t (fnMemBank b.val) = .renewing ∧ (∀ e ∈ t.rm.wantMig, e.1 ≠ b.val) ∧ t.rm.mem = s.rm.mem
      ∧ t = { s with rm := t.rm, fn := t.fn })
  ∧ (∀ (s : State) (b : Fin 32) (w : Nat × Option Owed), s.rm.wantMig.find? (fun e => e.1 == b.val) = some w → s.rm.sparePhys = none →
    ∃ t, exec (.migrationStart b) s = .next t ∧ t.rm.mig = s.rm.mig ∧ fnState t (fnMemBank b.val) = .running ∧ t.rm.physOf = s.rm.physOf
      ∧ (∀ e ∈ t.rm.wantMig, e.1 ≠ b.val))
  ∧ (∀ (s : State) (b : Fin 32), s.rm.wantMig.find? (fun e => e.1 == b.val) = none → exec (.migrationStart b) s = .next s)
  ∧ (∀ (s : State) (g : Migration), s.rm.mig = some g →
      exec .migrationCopyDone s = .next { s with rm := { s.rm with mig := some { g with phase := .copied } } })
  ∧ (∀ (s : State) (g : Migration) (sp : Nat), s.rm.mig = some g → g.phase = .copied → s.rm.sparePhys = some sp → g.bank < 32 → s.memInv →
    ∃ t, exec .migrationSwitch s = .next t ∧ physOf t g.bank = sp ∧ t.rm.sparePhys = none ∧ t.rm.mig = none
      ∧ t.rm.retired = s.rm.retired ++ [physOf s g.bank] ∧ (∀ k, k ≠ g.bank → physOf t k = physOf s k) ∧ t.rm.poison = s.rm.poison
      ∧ (∀ w a, s.rm.poison.has w = true → logBank w = g.bank → w ≤ a → a < w + 8 → memRead 0 t.rm.mem a = 0)
      ∧ (∀ a, (∀ w, s.rm.poison.has w = true → logBank w = g.bank → a < w ∨ w + 8 ≤ a) → memRead 0 t.rm.mem a = memRead 0 s.rm.mem a)
      ∧ fnState t fnSpareBank = .off
      ∧ t.str.handovers = logHandOver { tick := s.tb.tick, func := fnMemBank g.bank, standIn := fnSpareBank, back := false, entries := memEntries s }
          s.str.handovers
      ∧ ((fnOf s (fnMemBank g.bank)).disOwed = [] → fnState t (fnMemBank g.bank) = if g.owed = none then .running else .renewing)
      ∧ ((fnOf s (fnMemBank g.bank)).disOwed ≠ [] → fnState t (fnMemBank g.bank) = .off))
  ∧ (∀ (s : State) (g : Migration), s.rm.mig = some g → g.phase = .copying → exec .migrationSwitch s = .next s))

/-- COOPER_JOB_START and COOPER_JOB_COMPLETE: the oldest job starts once none runs, with its 32 header bytes zero, and writes
inside its output space alone; once every block is written its header commits it and it leaves the queue. -/
def Obligations.CooperJobs : Prop :=
  (∀ (s : State) (j : Job) (rest : List Job), s.cop = j :: rest → j.running = false → cooperOut s = false → j.started = false → j.span = 0 →
    j.room = 0 → (∀ k ∈ rest, k.running = false) → s.memInv → ∃ t, exec .cooperJobStart s = .next t
      ∧ ((∃ k, t.cop = k :: rest ∧ k.running = true ∧ k.tag = j.tag ∧ k.base = j.base) ∨ t.cop = rest)
      ∧ (recOf s j.group j.record = none → t.cop = { j with running := true } :: rest ∧ (32 ≤ j.size → memReads 0 t.rm.mem j.base 32 = zeros 32))
      ∧ (∀ a, (a < j.base ∨ j.base + j.size ≤ a) → memRead 0 t.rm.mem a = memRead 0 s.rm.mem a)
      ∧ t = { s with rm := t.rm, cop := t.cop, ntq := t.ntq, io := t.io })
  ∧ (∀ (s : State) (j : Job) (rest : List Job), s.cop = j :: rest → (j.running = true ∨ cooperOut s = true) → exec .cooperJobStart s = .next s)
  ∧ (∀ s : State, s.cop = [] → exec .cooperJobStart s = .next s ∧ exec .cooperJobComplete s = .next s)
  ∧ (∀ (s : State) (j : Job) (rest : List Job) (r : Record), s.cop = j :: rest → recOf s j.group j.record = some r → j.running = true →
    j.started = true → j.slotPos = r.parts.length → s.memInv → ∃ t, exec .cooperJobComplete s = .next t ∧ t.cop = rest
      ∧ memReads 0 t.rm.mem j.base 32 = jobHeader s j r
      ∧ (∀ a, (a < j.base ∨ j.base + 32 ≤ a) → memRead 0 t.rm.mem a = memRead 0 s.rm.mem a)
      ∧ (maskQueues (j.options / 16) = [] → t.ntq = (complete j.owed .ok j.tag.toNat s.tb.tick s).ntq))

/-! ### Wick's loops (R283 to R304) -/

/-- The active Wick fenced with a cause: no frame of its ports that has not wholly left leaves, its tokens are reclaimed, and a
renewal or a disable that waits on it ends with `FUNCTION_STATE` (R23, R306). -/
def Sys2Proof.Spec.fenced (cause w : Nat) (s t : State) : Prop :=
  t.wick.active = none ∧ tget t.wick.fenced w 0 = cause ∧ t.wick.fail = .fenced ∧ fnState t (fnWick w) = .fault
    ∧ (fnOf t (fnWick w)).cause = cause ∧ (fnOf t (fnWick w)).renOwed = none ∧ (fnOf t (fnWick w)).disOwed = []
    ∧ t.ntq = (post 0x06 0 (fnWick w) cause [] (endOwed (fnWick w) .functionState 4 s)).ntq ∧ t.wick.loop = s.wick.loop
    ∧ t.sent = s.sent.filter (fun m => !frameCut s.now m) ∧ (w < 2 → fabHeld t 6 = 0)
    ∧ t = { s with wick := t.wick, fn := t.fn, ntq := t.ntq, io := t.io, sent := t.sent, freeCtr := t.freeCtr,
                   str := { s.str with fabric := t.str.fabric, fabHeldR := t.str.fabHeldR } }

/-- LOOP_EVALUATION: the loop's next evaluation by the active Wick, at its own instant: `OFF` and `FORCED` command the output,
and the port sends the next frame; a failed check fences the Wick instead. -/
def Obligations.LoopEvaluations : Prop :=
  (∀ (s : State) (n : Fin 32) (w k ek : Nat), (loopOf s n.val).defd = true → s.wick.active = some w → (portOf s n.val).waitFirst = false →
    (loopOf s n.val).cfg.period ≠ 0 → k = nextEval (loopOf s n.val).cfg (loopOf s n.val).from_ →
    ek = k * (loopOf s n.val).cfg.period + (loopOf s n.val).cfg.phase →
    (∃ t, exec (.loopEvaluation n true true) s = .next t ∧ (loopOf t n.val).run.k = k ∧ (loopOf t n.val).from_ = ek + 1
      ∧ (loopOf t n.val).reg.snapSeq = (loopOf s n.val).reg.snapSeq + 2 ∧ (loopOf t n.val).cfg = (loopOf s n.val).cfg
      ∧ ((loopOf s n.val).run.mode = .off → (loopOf s n.val).stgMode = none → (loopOf s n.val).run.capturing = false →
          (loopOf s n.val).resume = none → (loopOf s n.val).stgInj = none → (loopOf t n.val).run.out = false ∧ (loopOf t n.val).run.mode = .off)
      ∧ ((loopOf s n.val).run.mode = .forced → (loopOf s n.val).stgMode = none → (loopOf s n.val).run.capturing = false →
          (loopOf s n.val).resume = none → (loopOf s n.val).stgInj = none → (loopOf t n.val).run.out = (loopOf s n.val).run.forced)
      ∧ (fnOut s (fnDrive n.val) = false → (portOf t n.val).seq = (portOf s n.val).seq + 1 ∧ (portOf t n.val).expect = (portOf s n.val).expect ++
          [{ seq := (portOf s n.val).seq, frame := (portOf t n.val).frame, start := (portOf t n.val).start }])
      ∧ (∀ m, m ≠ n.val → loopOf t m = loopOf s m ∧ portOf t m = portOf s m) ∧ t.freeCtr = s.freeCtr + 1
      ∧ t = { s with now := max s.now ek, freeCtr := t.freeCtr, sent := t.sent, fe := { s.fe with aux := t.fe.aux }, wick := t.wick, mon := t.mon,
                     ntq := t.ntq, io := t.io })
    ∧ (∀ lanes, ∃ t, exec (.loopEvaluation n lanes false) s = .next t ∧ Spec.fenced 4 w { s with now := max s.now ek } t)
    ∧ ∃ t, exec (.loopEvaluation n false true) s = .next t ∧ Spec.fenced 1 w { s with now := max s.now ek } t)
  ∧ (∀ (s : State) (n : Fin 32) (a b : Bool), ((loopOf s n.val).defd = false ∨ s.wick.active = none ∨ (portOf s n.val).waitFirst = true) →
    exec (.loopEvaluation n a b) s = .next s)

/-- The law of an evaluation (R288, R289, R296): the output changes only where v passes the hysteresis H and the minimum time
of its state has passed; a supervision condition takes a `CLOSED` loop to `SAFE` with its safe output and leaves the
integrator within its limits. -/
def Obligations.LoopLaw : Prop :=
  (∀ (p : LoopParam) (v : Int) (ek : Nat) (r : LoopRun),
    (v.natAbs ≤ p.h → (loopLaw p v ek r).1 = r)
    ∧ ((p.h : Int) < v → r.out = false → (r.offEdge = 0 ∨ r.offEdge + p.tOffMin ≤ ek) →
        (loopLaw p v ek r).1 = { r with out := true, edges := r.edges + 1, onEdge := ek, frzSince := some 0 })
    ∧ (v < -(p.h : Int) → r.out = true → (r.onEdge = 0 ∨ r.onEdge + p.tOnMin ≤ ek) →
        (loopLaw p v ek r).1 = { r with out := false, edges := r.edges + 1, offEdge := ek, frzSince := some 0 })
    ∧ (r.out = true → ek < r.onEdge + p.tOnMin → r.onEdge ≠ 0 → (loopLaw p v ek r).1 = r))
  ∧ (∀ (c : LoopDef) (p : LoopParam) (r0 : LoopRun) (ho fresh : Bool) (w : SampleWord) (d tv ta : Int) (ek : Nat) (track : Option Bool),
    r0.mode = .closed →
    (wHas w fBad = true → (evalLoop c p r0 ho fresh (some w) d tv ta ek track).cause = .fbBad)
    ∧ ((evalLoop c p r0 ho fresh (some w) d tv ta ek track).cause ≠ .none →
        (evalLoop c p r0 ho fresh (some w) d tv ta ek track).run.mode = .safe
        ∧ (evalLoop c p r0 ho fresh (some w) d tv ta ek track).run.out = safeOut p r0.out
        ∧ (evalLoop c p r0 ho fresh (some w) d tv ta ek track).run.i = r0.i)
    ∧ ((evalLoop c p r0 ho fresh (some w) d tv ta ek track).cause = .none → p.iMin ≤ 0 → 0 ≤ p.iMax → p.iMax ≤ 2147483647 →
        p.iMin ≤ (evalLoop c p r0 ho fresh (some w) d tv ta ek track).run.i
        ∧ (evalLoop c p r0 ho fresh (some w) d tv ta ek track).run.i ≤ p.iMax
        ∧ (evalLoop c p r0 ho fresh (some w) d tv ta ek track).run.mode = .closed))

/-! ### Drive ports (R325 to R329) -/

/-- FF_HOLD_EXPIRY, INJECT_CAPTURE_END and KEEP_ALIVE_FRAME.

STATUS_FRAME_RECEIVED, STATUS_FRAME_MISSING, DRIVE_FRAME_LATE and DRIVE_FRAME_RESEND. -/
def Obligations.LoopEventsAndDriveFrames : Prop :=
  ((∀ (s : State) (n : Fin 32), ∃ t u, exec (.ffHoldExpiry n true) s = .next t ∧ exec (.ffHoldExpiry n false) s = .next u
      ∧ ((loopOf s n.val).run.ffaBad = true → (loopOf s n.val).run.ffaLeft = 0 →
          loopOf t n.val = { loopOf s n.val with run := { (loopOf s n.val).run with taHeld := 0 } })
      ∧ ((loopOf s n.val).run.ffvBad = true → (loopOf s n.val).run.ffvLeft = 0 →
          loopOf u n.val = { loopOf s n.val with run := { (loopOf s n.val).run with tvHeld := 0 } })
      ∧ (((loopOf s n.val).run.ffaBad = false ∨ (loopOf s n.val).run.ffaLeft ≠ 0) → loopOf t n.val = loopOf s n.val)
      ∧ (((loopOf s n.val).run.ffvBad = false ∨ (loopOf s n.val).run.ffvLeft ≠ 0) → loopOf u n.val = loopOf s n.val)
      ∧ t = { s with wick := { s.wick with loop := t.wick.loop } } ∧ u = { s with wick := { s.wick with loop := u.wick.loop } })
  ∧ (∀ (s : State) (n : Fin 32) (j : Inject), (loopOf s n.val).inj = some j → (loopOf s n.val).capEnd = true → s.memInv →
    ∃ t, exec (.injectCaptureEnd n) s = .next t
      ∧ memReads 0 t.rm.mem j.base (tuneRecord n.val (loopOf s n.val) j).length = tuneRecord n.val (loopOf s n.val) j
      ∧ (∀ a, (a < j.base ∨ j.base + (tuneRecord n.val (loopOf s n.val) j).length ≤ a) → memRead 0 t.rm.mem a = memRead 0 s.rm.mem a)
      ∧ loopOf t n.val = { loopOf s n.val with capEnd := false, capOwed := none, captured := [], tuned := some j.base }
      ∧ t.ntq = (completeOpt (loopOf s n.val).capOwed .ok 0 s.tb.tick s).ntq
      ∧ t = { s with rm := t.rm, wick := { s.wick with loop := t.wick.loop }, ntq := t.ntq, io := t.io })
  ∧ (∀ (s : State) (n : Fin 32) (w t0 : Nat), (loopOf s n.val).defd = true → s.wick.active = some w → (portOf s n.val).waitFirst = false →
    (loopOf s n.val).cfg.period ≠ 0 → frameEnd (portOf s n.val).start ≤ t0 → fnOut s (fnDrive n.val) = false →
    bitRefs (frameBit (portOf s n.val) t0) + 600 ≤ nextEval (loopOf s n.val).cfg (max (loopOf s n.val).from_ t0) * (loopOf s n.val).cfg.period + (loopOf s n.val).cfg.phase →
    ∃ t, exec (.keepAliveFrame n t0) s = .next t
      ∧ (portOf t n.val).frame = driveFrame (loopClaim s n.val) (if drives { s with now := max s.now t0 } n.val then 0 else 2)
          (loopOf s n.val).run.out (portOf s n.val).seq.toNat
      ∧ (portOf t n.val).seq = (portOf s n.val).seq + 1 ∧ (portOf t n.val).start = bitRefs (frameBit (portOf s n.val) t0)
      ∧ (s.io.jIr = .bypass ∨ s.io.jIr = .idcode ∨ s.io.jIr = .samplePreload →
          t.sent = s.sent ++ [.drive n.val (portOf t n.val).frame (portOf t n.val).start])
      ∧ (∀ m, m ≠ n.val → portOf t m = portOf s m)
      ∧ t = { s with now := max s.now t0, sent := t.sent, wick := { s.wick with port := t.wick.port } }))
  ∧ ((∀ (s : State) (p : Fin 32) (f : BitVec 64) (t0 : Nat) (a : Awaited) (pre rest : List Awaited), fnOut s (fnDrive p.val) = false →
    (bits f.toNat 15 0 ≠ crc16 48 (f.toNat / 65536) → ∃ t, exec (.statusFrameReceived p f t0) s = .next t
        ∧ portOf t p.val = { portOf s p.val with crcErr := (portOf s p.val).crcErr + 1 }
        ∧ t = { s with now := max s.now t0, wick := { s.wick with port := t.wick.port } })
    ∧ (bits f.toNat 15 0 = crc16 48 (f.toNat / 65536) → bits f.toNat 63 56 = 0x5C →
        (portOf s p.val).expect = pre ++ a :: rest → (∀ b ∈ pre, b.seq ≠ a.seq) → a.seq = BitVec.ofNat 8 (bits f.toNat 31 24) →
        t0 ≤ frameEnd a.start + 1024 →
        ∃ t, exec (.statusFrameReceived p f t0) s = .next t ∧ (portOf t p.val).last = f ∧ (portOf t p.val).lastEnd = t0
        ∧ (portOf t p.val).acting = BitVec.ofNat 16 (bits f.toNat 55 40) ∧ (portOf t p.val).stageOut = bit (bits f.toNat 39 32) 7
        ∧ (portOf t p.val).missRun = 0 ∧ (portOf t p.val).linkDown = false ∧ (portOf t p.val).crcErr = (portOf s p.val).crcErr
        ∧ (bit (bits f.toNat 39 32) 6 = true → (portOf t p.val).acceptAt = t0 ∧ (portOf t p.val).refused = (portOf s p.val).refused)
        ∧ (bit (bits f.toNat 39 32) 6 = false → frameCmd a.frame ≠ 2 → (portOf t p.val).refused = (portOf s p.val).refused + 1)
        ∧ ((portOf s p.val).waitFirst = false → (portOf t p.val).expect = pre ++ rest)
        ∧ (∀ m, m ≠ p.val → portOf t m = portOf s m))
    ∧ (bits f.toNat 15 0 = crc16 48 (f.toNat / 65536) →
        (∀ b ∈ (portOf s p.val).expect, b.seq ≠ BitVec.ofNat 8 (bits f.toNat 31 24) ∨ frameEnd b.start + 1024 < t0) →
        exec (.statusFrameReceived p f t0) s = .next { s with now := max s.now t0 }))
  ∧ (∀ (s : State) (p : Fin 32) (a : Awaited) (rest : List Awaited), (portOf s p.val).expect = a :: rest → ∃ t, exec (.statusFrameMissing p) s = .next t
      ∧ (portOf t p.val).missing = (portOf s p.val).missing + 1 ∧ (portOf t p.val).missRun = (portOf s p.val).missRun + 1
      ∧ (portOf t p.val).expect = rest ∧ ((portOf t p.val).linkDown = true ↔ ((portOf s p.val).linkDown = true ∨ 16 ≤ (portOf s p.val).missRun + 1))
      ∧ ((portOf s p.val).missRun = 15 → (portOf s p.val).linkDown = false →
          t.ntq = (post 0x16 1 p.val ((portOf s p.val).missing + 1).toNat [] s).ntq)
      ∧ t = { s with wick := { s.wick with port := t.wick.port }, ntq := t.ntq, io := t.io })
  ∧ (∀ (s : State) (p : Fin 32) (w : Nat), (loopOf s p.val).defd = true → s.wick.active = some w →
    ∃ t, exec (.driveFrameLate p) s = .next t ∧ Spec.fenced 2 w s t)
  ∧ (∀ (s : State) (p : Fin 32), (loopOf s p.val).defd = false → exec (.driveFrameLate p) s = .next s)
  ∧ (∀ (s : State) (p : Fin 32) (w t0 : Nat), s.wick.active = some w → (portOf s p.val).waitFirst = true → (portOf s p.val).start + 4096 ≤ t0 →
    fnOut s (fnDrive p.val) = false → ∃ t, exec (.driveFrameResend p t0) s = .next t ∧ (portOf t p.val).seq = (portOf s p.val).seq + 1
      ∧ (portOf t p.val).frame = driveFrame (loopClaim s p.val) (frameCmd (portOf s p.val).frame) (portOf s p.val).stageOut (portOf s p.val).seq.toNat
      ∧ (portOf t p.val).start = bitRefs (bitAt t0) ∧ (portOf t p.val).waitFirst = true
      ∧ t = { s with now := max s.now t0, sent := t.sent, wick := { s.wick with port := t.wick.port } }))

/-! ### Checkpoints, failover and paired hubs (R305 to R322) -/

/-- CHECKPOINT_WRITE and CHECKPOINT_LATE: checkpoint j goes to slot j mod 2, and every other byte of memory stays.

WICK_PARTNER_POWERED, WICK_CHECKPOINT_LOADED, WICK_SELF_TEST_DONE and WICK_TAKEBACK: the steps of a failover and of a
hand-over between the Wicks. Whether the lanes agree on the outgoing Wick's checkpoint is a free value (log 155). -/
def Obligations.CheckpointsAndFailover : Prop :=
  ((∀ (s : State) (w c : Nat), s.wick.active = some w → c = s.wick.ckJ * s.wick.interval →
    (s.memInv → ∃ t, exec (.checkpointWrite true) s = .next t
      ∧ memReads 0 t.rm.mem (slotBase s.wick.ckJ) 8256 = checkpointBytes { s with now := max s.now c } w s.wick.ckJ c
      ∧ (∀ a, (a < slotBase s.wick.ckJ ∨ slotBase s.wick.ckJ + 8256 ≤ a) → memRead 0 t.rm.mem a = memRead 0 s.rm.mem a)
      ∧ t.wick = { s.wick with ckSlot := s.wick.ckJ % 2, ckSeq := BitVec.ofNat 32 s.wick.ckJ, ckJ := s.wick.ckJ + 1 }
      ∧ t = { s with now := max s.now c, rm := t.rm, wick := t.wick })
    ∧ (∃ t, exec (.checkpointWrite false) s = .next t ∧ Spec.fenced 1 w { s with now := max s.now c } t)
    ∧ ∃ t, exec .checkpointLate s = .next t ∧ Spec.fenced 3 w s t)
  ∧ (∀ (s : State) (b : Bool), s.wick.active = none → exec (.checkpointWrite b) s = .next s ∧ exec .checkpointLate s = .next s))
  ∧ ((∀ (s : State) (w : Nat), s.wick.fail = .fenced → s.wick.active = none → incoming s = some w →
    exec .wickPartnerPowered s = .next { s with wick := { s.wick with fail := .powered } })
  ∧ (∀ s : State, (s.wick.fail ≠ .fenced ∨ incoming s = none) → exec .wickPartnerPowered s = .next s)
  ∧ (∀ (s : State) (w t0 : Nat), s.wick.fail = .powered → incoming s = some w → ∃ t, exec (.wickCheckpointLoaded t0) s = .next t
      ∧ t.wick.active = some w ∧ t.wick.fail = .none ∧ t.wick.takeback = none
      ∧ t.wick.failovers = (if s.wick.takeback.isSome then s.wick.failovers else s.wick.failovers + 1)
      ∧ (∀ n, n < 32 → (loopOf s n).defd = true → (portOf t n).waitFirst = true ∧ (portOf t n).missRun = 0)
      ∧ (∀ n, n < 32 → (loopOf s n).defd = true → bestSlot s = none →
          (loopOf t n).run.mode = .safe ∧ (loopOf t n).run.safeCause = .noCheckpoint)
      ∧ t.str.handovers = logHandOver (if s.wick.takeback.isSome ∧ w = s.wick.home
          then { tick := s.tb.tick, func := fnWick w, standIn := fnWick (1 - w), back := true }
          else { tick := s.tb.tick, func := fnWick (1 - w), standIn := fnWick w, back := false }) s.str.handovers
      ∧ (fnOf t (fnWick w)).standIn = 0xFFFF ∧ (fnOf t (fnWick (1 - w))).standIn = (if w = s.wick.home then 0xFFFF else fnWick w)
      ∧ t.rm = s.rm ∧ t.now = max s.now t0)
  ∧ (∀ (s : State) (w : Fin 2), (fnOf s (fnWick w.val)).testing = true → (fnOf s (fnWick w.val)).renew = none →
    (∃ t, exec (.wickSelfTestDone w true) s = .next t 
      ∧ fnState t (fnWick w.val) = (if tget s.wick.fenced w.val 0 = 0 then (fnOf s (fnWick w.val)).testOnly.getD .running else .running)
      ∧ tget t.wick.fenced w.val 0 = 0
      ∧ (s.wick.home = w.val → s.wick.active.isSome = true → s.wick.active ≠ some w.val →
          ((fnOf s (fnWick w.val)).testOnly = none ∨ tget s.wick.fenced w.val 0 ≠ 0) →
          t.wick.takeback = some w.val))
    ∧ ∃ t, exec (.wickSelfTestDone w false) s = .next t ∧ fnState t (fnWick w.val) = .fault ∧ t.wick = s.wick)
  ∧ (∀ (s : State) (w x : Nat), s.wick.active = some w → s.wick.takeback = some x → s.memInv →
      ∃ t, exec .wickTakeback s = .next t ∧ (s.free.1.getLsbD 0 = true → Spec.fenced 1 w s t)
      ∧ (s.free.1.getLsbD 0 = false → t.wick.active = none ∧ t.wick.fail = .powered ∧ t.wick.takeback = some x
          ∧ memReads 0 t.rm.mem (slotBase s.wick.ckJ) 8256 = checkpointBytes s w s.wick.ckJ (s.tb.tick * 1048576)
          ∧ (∀ n, n < 32 → (loopOf s n).defd = true → drives s n = true → (portOf t n).released = true)
          ∧ t = { s with rm := t.rm, wick := t.wick, sent := t.sent, freeCtr := s.freeCtr + 1 }))
  ∧ (∀ s : State, (s.wick.active = none ∨ s.wick.takeback = none) → exec .wickTakeback s = .next s))

/-- PAIR_HEARTBEAT_SEND, PAIR_HEARTBEAT_RECEIVED and PAIR_HEARTBEAT_LOSS. -/
def Obligations.PairedHubs : Prop :=
  (∀ s : State, s.wick.paired = true → s.pwr.fwUp = true → s.pwr.llTakeover = false → ∃ (t : State) (b : List Byte), exec .pairHeartbeatSend s = .next t
      ∧ t.sent = s.sent ++ [.udp (heartbeatGroup s) 47603 7 b] ∧ rd b 0 1 = 0x20 ∧ rd b 8 4 = s.wick.hbSeq.toNat ∧ b.length = 32
      ∧ t = { s with sent := t.sent, wick := { s.wick with hbSeq := s.wick.hbSeq + 1 } })
  ∧ (∀ s : State, (s.wick.paired = false ∨ s.pwr.fwUp = false ∨ s.pwr.llTakeover = true) → exec .pairHeartbeatSend s = .next s)
  ∧ (∀ (s : State) (d : Dgram) (t0 : Nat), s.wick.paired = true → d.body.length = 32 → rd d.body 0 1 = 0x20 → rd d.body 1 1 = 4 →
    rd d.body 2 1 = s.wick.pairKey → rd d.body 6 2 = hubNo s → rd d.body 4 2 = s.wick.partner.toNat →
    hmacTag (keyOf s s.wick.pairKey) (d.body.take 16) = d.body.drop 16 → ∃ t, exec (.pairHeartbeatReceived d t0) s = .next t
      ∧ t.wick = { s.wick with hbLast := t0, hbMask := BitVec.ofNat 32 (rd d.body 12 4), pairLost := false }
      ∧ (s.wick.pairLost = false → t.ntq = s.ntq) ∧ (s.wick.pairLost = true →
          t.ntq = (post 0x15 3 0 s.wick.partner.toNat [] { s with now := max s.now t0 }).ntq)
      ∧ t = { s with now := max s.now t0, wick := t.wick, ntq := t.ntq, io := t.io })
  ∧ (∀ (s : State) (d : Dgram) (t0 : Nat), hmacTag (keyOf s s.wick.pairKey) (d.body.take 16) ≠ d.body.drop 16 →
    exec (.pairHeartbeatReceived d t0) s = .next { s with now := max s.now t0 })
  ∧ (∀ (s : State) (t0 : Nat), s.wick.paired = true → s.wick.pairLost = false →
    (s.wick.hbLast + 614400 ≤ t0 → ∃ t, exec (.pairHeartbeatLoss t0) s = .next t ∧ t.wick = { s.wick with pairLost := true }
      ∧ t.ntq = (post 0x15 1 0 s.wick.partner.toNat [] { s with now := max s.now t0 }).ntq
      ∧ t = { s with now := max s.now t0, wick := t.wick, ntq := t.ntq, io := t.io })
    ∧ (t0 < s.wick.hbLast + 614400 → exec (.pairHeartbeatLoss t0) s = .next { s with now := max s.now t0 }))

/-! ### The network (R424 to R446) -/

/-- LOSS_OF_SIGNAL, LINK_UP, SWITCH_FORWARD and LEARNING_AGE_OUT. A frame that finds no room in its port's receive buffer is
discarded and counted; one that goes on gets its residence time, but for what the own port sends.

ARP_REQUEST_RECEIVED, ARP_CACHE_EXPIRY, NEIGHBOUR_SOLICITATION_RECEIVED, DUPLICATE_ADDRESS_DETECTION and ICMP_ECHO_RECEIVED:
firmware answers for the hub's own addresses alone. -/
def Obligations.PortsAndOwnAddresses : Prop :=
  ((∀ (s : State) (p : Fin 4) (t0 : Nat), ∃ t, exec (.lossOfSignal p t0) s = .next t ∧ (netOf t p.val).link = false ∧ (netOf t p.val).los = true
      ∧ (s.net.ring.configured = false → t = { s with now := max s.now t0, net := { s.net with port := t.net.port } })
      ∧ (s.net.ring.configured = true → p.val < 2 → s.net.ring.role = 0 → (netOf t p.val).blocked = true ∧ t.net.ring.state = 3
          ∧ t.net.ring.downSeq = s.net.ring.downSeq + 1))
  ∧ (∀ (s : State) (p : Fin 4) (t0 : Nat), (netOf s p.val).mode ≠ 0 → ∃ t, exec (.linkUp p t0) s = .next t
      ∧ (netOf t p.val).link = true ∧ (netOf t p.val).los = false ∧ (netOf t p.val).upSince = t0 ∧ (netOf t p.val).blocked = (netOf s p.val).blocked
      ∧ (s.net.ring.configured = true → p.val < 2 → s.net.ring.role = 0 → (netOf s p.val).los = true → (netOf t p.val).holding = true
          ∧ t.net.ring.state = 4)
      ∧ (∀ k, k ≠ p.val → netOf t k = netOf s k) ∧ t = { s with now := max s.now t0, net := { s.net with port := t.net.port, ring := t.net.ring } })
  ∧ (∀ (s : State) (p : Fin 4) (t0 : Nat), (netOf s p.val).mode = 0 → exec (.linkUp p t0) s = .next { s with now := max s.now t0 })
  ∧ (∀ (s : State) (p t0 : Nat) (f : List Byte) (ok : Bool) (x : FrameStamps), p < 4 → fnState s fnSwitch = .running → (fnOf s fnSwitch).held = false →
    (netOf s p).link = true → portOut s p = false →
    (8192 < f.length → exec (.switchForward p f ok x t0) s
        = .next ({ s with now := max s.now t0, freeCtr := s.freeCtr + 1 }.onNet p fun n => { n with rxDiscard := n.rxDiscard + 1 }))
    ∧ ((netOf s p).rxBuf + f.length ≤ 8192 → frameBad f (frameHdr f) ok = true → ∃ t, exec (.switchForward p f ok x t0) s = .next t
        ∧ netOf t p = { netOf s p with rxFrames := (netOf s p).rxFrames + 1, dropped := (netOf s p).dropped + 1, rxBuf := (netOf t p).rxBuf }
        ∧ f.length ≤ (netOf t p).rxBuf ∧ (netOf t p).rxBuf ≤ (netOf s p).rxBuf + f.length
        ∧ t = { s with now := max s.now t0, freeCtr := s.freeCtr + 1, net := { s.net with port := t.net.port } })
    ∧ ((netOf s p).rxBuf + f.length ≤ 8192 → frameBad f (frameHdr f) ok = false → ringCtl s (frameHdr f) = false → (netOf s p).blocked = true →
        ∃ t, exec (.switchForward p f ok x t0) s = .next t
        ∧ netOf t p = { netOf s p with rxFrames := (netOf s p).rxFrames + 1, rxBuf := (netOf t p).rxBuf,
                                       blockAlign := if isPtp f (frameHdr f) then BitVec.ofNat 16 x.b else (netOf s p).blockAlign }
        ∧ t = { s with now := max s.now t0, freeCtr := s.freeCtr + 1, net := { s.net with port := t.net.port } })
    ∧ ((netOf s p).rxBuf + f.length ≤ 8192 → frameBad f (frameHdr f) ok = false → ringCtl s (frameHdr f) = false → (netOf s p).blocked = false →
        ∃ t, exec (.switchForward p f ok x t0) s = .next t ∧ (netOf t p).rxFrames = (netOf s p).rxFrames + 1
        ∧ (groupBit (frameHdr f).src = false → s.net.table.length < 4096 →
            ∃ e ∈ t.net.table, e.mac = (frameHdr f).src ∧ e.vlan = (frameHdr f).vlan ∧ e.port = p ∧ e.seen = t0)
        ∧ ((frameHdr f).dst = s.net.own.mac → s.net.own.mac ≠ 0 → ownTakes s (frameHdr f) = true → t.net.ownRx = s.net.ownRx ++ [f] ∧ t.sent = s.sent)
        ∧ (groupBit (frameHdr f).dst = true → (frameHdr f).dst ≠ s.net.own.mac → ∀ k, k < 4 → k ≠ p → passes s k = true →
            OutMsg.frame k (addResidence f (frameHdr f) (residence s p k x)) ∈ t.sent ∧ (netOf t k).txFrames = (netOf s k).txFrames + 1)
        ∧ (∀ k, k < 4 → passes s k = false → k ≠ p → netOf t k = netOf s k)
        ∧ t = { s with now := max s.now t0, freeCtr := s.freeCtr + 1, sent := t.sent,
                       net := { s.net with port := t.net.port, table := t.net.table, ownRx := t.net.ownRx } }))
  ∧ (∀ (s : State) (t0 : Nat) (f : List Byte) (x : FrameStamps), fnState s fnSwitch = .running → (fnOf s fnSwitch).held = false →
    frameBad f (frameHdr f) true = false → ringCtl s (frameHdr f) = false → groupBit (frameHdr f).dst = true → (frameHdr f).dst ≠ s.net.own.mac →
    ∃ t, exec (.switchForward 4 f true x t0) s = .next t ∧ (∀ k, k < 4 → passes s k = true → OutMsg.frame k f ∈ t.sent)
      ∧ t = { s with now := max s.now t0, sent := t.sent, net := { s.net with port := t.net.port, table := t.net.table } })
  ∧ (∀ (s : State) (mac : BitVec 48) (vlan : Nat), ∃ t, exec (.learningAgeOut mac vlan) s = .next t
      ∧ (∀ e, e ∈ t.net.table ↔ e ∈ s.net.table ∧ ¬ (e.mac = mac ∧ e.vlan = vlan)) ∧ t = { s with net := { s.net with table := t.net.table } }))
  ∧ ((∀ (s : State) (target sender : BitVec 32) (mac : BitVec 48) (t0 : Nat),
    (lampServes s = true → s.net.own.ipv4 ≠ 0 → target = s.net.own.ipv4 → ∃ t, exec (.arpRequestReceived target sender mac t0) s = .next t
      ∧ t.sent = s.sent ++ [.arpReply sender mac] ∧ (s.net.arp.length < 256 → (sender, mac, t0) ∈ t.net.arp)
      ∧ (∀ e ∈ t.net.arp, e.1 = sender → e = (sender, mac, t0) ∨ 256 ≤ s.net.arp.length)
      ∧ t = { s with now := max s.now t0, sent := t.sent, net := { s.net with arp := t.net.arp } })
    ∧ ((lampServes s = false ∨ s.net.own.ipv4 = 0 ∨ target ≠ s.net.own.ipv4) →
        exec (.arpRequestReceived target sender mac t0) s = .next { s with now := max s.now t0 }))
  ∧ (∀ (s : State) (ip : BitVec 32), ∃ t, exec (.arpCacheExpiry ip) s = .next t ∧ (∀ e, e ∈ t.net.arp ↔ e ∈ s.net.arp ∧ e.1 ≠ ip)
      ∧ t = { s with net := { s.net with arp := t.net.arp } })
  ∧ (∀ (s : State) (sender : BitVec 128) (t0 : Nat), lampServes s = true → s.net.v6Usable = true → s.net.own.ipv6 ≠ 0 →
      exec (.neighbourSolicitationReceived s.net.own.ipv6 sender t0) s = .next { s with now := max s.now t0, sent := s.sent ++ [.neighbourAdv sender] })
  ∧ (∀ (s : State) (target sender : BitVec 128) (t0 : Nat), (s.net.v6Usable = false ∨ target ≠ s.net.own.ipv6) →
      exec (.neighbourSolicitationReceived target sender t0) s = .next { s with now := max s.now t0 })
  ∧ (∀ s : State, exec (.duplicateAddressDetection false) s = .next { s with net := { s.net with v6Usable := false } })
  ∧ (∀ s : State, s.net.own.ipv6 ≠ 0 → exec (.duplicateAddressDetection true) s = .next { s with net := { s.net with v6Usable := true } })
  ∧ (∀ (s : State) (v6 : Bool) (src : BitVec 128) (echo : List Byte) (t0 : Nat), lampServes s = true → onLink s src = true →
      (if v6 then s.net.v6Usable = true else s.net.own.ipv4 ≠ 0) →
    ((s.net.icmpSec ≠ t0 / 204800000 ∨ s.net.icmpCnt < 100) → exec (.icmpEchoReceived v6 src echo t0) s = .next { s with
        now := max s.now t0, sent := s.sent ++ [.echoReply v6 src echo]
        net := { s.net with icmpSec := t0 / 204800000, icmpCnt := (if s.net.icmpSec = t0 / 204800000 then s.net.icmpCnt else 0) + 1 } })
    ∧ (s.net.icmpSec = t0 / 204800000 → 100 ≤ s.net.icmpCnt → exec (.icmpEchoReceived v6 src echo t0) s = .next { s with now := max s.now t0 })))

/-- A break declared by the guard (R438, R441): the blocked port passes, the table is empty, both ring ports flush. -/
def Sys2Proof.Spec.ringBroken (s t : State) : Prop :=
  (netOf t s.net.ring.blockedPort).blocked = false ∧ t.net.table = [] ∧ t.net.ring.broken = true ∧ t.net.ring.state = 2
    ∧ t.net.ring.flushSeq = s.net.ring.flushSeq + 1 ∧ t.ntq = (post 0x34 3 0 2 [] s).ntq
    ∧ t = { s with sent := t.sent, net := t.net, ntq := t.ntq, io := t.io }

/-- RING_HEALTH_SEND, RING_HEALTH_RECEIVED, RING_HEALTH_LOSS, RING_LINK_DOWN_RECEIVED, RING_LINK_DOWN_REPEAT, RING_FLUSH_RECEIVED
and RING_PORT_RESTORE_TIMER. -/
def Obligations.RingProtection : Prop :=
  (∀ (s : State) (t0 : Nat), s.net.ring.configured = true → s.net.ring.role = 1 → lampServes s = true → ∃ t, exec (.ringHealthSend t0) s = .next t
      ∧ t.net.ring = { s.net.ring with healthSeq := s.net.ring.healthSeq + 1, out := s.net.ring.out + 1 }
      ∧ ((netOf s 0).link = true → (netOf s 0).holding = false → (netOf s 1).link = true → (netOf s 1).holding = false →
          t.sent = s.sent ++ [.ring 0 1 0 s.net.ring.healthSeq, .ring 1 1 1 s.net.ring.healthSeq])
      ∧ t = { s with now := max s.now t0, sent := t.sent, net := { s.net with port := t.net.port, ring := t.net.ring } })
  ∧ (∀ (s : State) (p : Fin 2) (f : RingFrame) (t0 : Nat), s.net.ring.configured = true → s.net.ring.role = 1 → (netOf s p.val).holding = false →
      lampServes s = true →
    (f.hub = hubNo s → f.port ≠ p.val → s.net.ring.broken = false →
        exec (.ringHealthReceived p f t0) s = .next { s with now := max s.now t0, net := { s.net with ring := { s.net.ring with out := 0 } } })
    ∧ (f.hub = hubNo s → f.port ≠ p.val → s.net.ring.broken = true → ∃ t, exec (.ringHealthReceived p f t0) s = .next t
        ∧ (netOf t s.net.ring.blockedPort).blocked = true ∧ t.net.table = [] ∧ t.net.ring.broken = false ∧ t.net.ring.state = 1
        ∧ t.net.ring.out = 0)
    ∧ (f.hub < hubNo s → ∃ t, exec (.ringHealthReceived p f t0) s = .next t ∧ t.net.ring.role = 0 ∧ t.net.ring.state = 5
        ∧ (netOf t s.net.ring.blockedPort).blocked = false))
  ∧ (∀ s : State, s.net.ring.configured = true → s.net.ring.role = 1 → s.net.ring.broken = false → lampServes s = true →
    (3 ≤ s.net.ring.out → ∃ t, exec .ringHealthLoss s = .next t ∧ Spec.ringBroken s t)
    ∧ (s.net.ring.out < 3 → exec .ringHealthLoss s = .next s)
    ∧ (∀ (p : Fin 2) (f : RingFrame), (netOf s p.val).holding = false → f.hub ≠ hubNo s →
        ∃ t, exec (.ringLinkDownReceived p f) s = .next t ∧ Spec.ringBroken s t))
  ∧ (∀ (s : State) (p : Fin 2), s.net.ring.configured = true → s.net.ring.role = 0 → (netOf s p.val).los = true →
    ∃ t, exec (.ringLinkDownRepeat p) s = .next t ∧ t.net.ring = { s.net.ring with downSeq := s.net.ring.downSeq + 1 }
      ∧ ((netOf s (1 - p.val)).link = true → (netOf s (1 - p.val)).holding = false →
          t.sent = s.sent ++ [.ring (1 - p.val) 2 p.val s.net.ring.downSeq]))
  ∧ (∀ (s : State) (p : Fin 2) (f : RingFrame), s.net.ring.configured = true → (netOf s p.val).holding = false → f.hub ≠ hubNo s →
    ∃ t, exec (.ringFlushReceived p f) s = .next t ∧ t.net.table = [] ∧ t.net.ring.lastFlush = some (f.hub, f.seq)
      ∧ (s.net.ring.role = 0 → ∀ k, k < 2 → heldPort s k = true → (netOf t k).blocked = false)
      ∧ (s.net.ring.role = 1 → t.net.port = s.net.port ∧ t.ntq = s.ntq))
  ∧ (∀ (s : State) (p : Fin 2), (netOf s p.val).link = true → ∃ t, exec (.ringPortRestoreTimer p) s = .next t
      ∧ netOf t p.val = { netOf s p.val with holding := false } ∧ t = { s with net := { s.net with port := t.net.port } })
  ∧ (∀ (s : State) (p : Fin 2), (netOf s p.val).link = false → exec (.ringPortRestoreTimer p) s = .next s)

/-! ### Notices (R386 to R397, R446) -/

/-- NOTICE_DATAGRAM_SEND, NOTICE_RESEND_TIMEOUT and NOTICE_ACK_DATAGRAM: up to eight notices in read order in one outstanding
datagram, sent again unchanged, and removed from their queue when it is acknowledged.

CRIER_BACKLOG_MOVE, NTQ_HEAD_READ, NTQ_POP and NTQ_DROP_REST: backlog notices move into the chain and none is lost; the
read latches the notice to read next with one upset bit of a word corrected and two reported; a pop removes the latched
notice, a drop the rest of its packet; queues 2 and 3 ignore both (R397). -/
def Obligations.CrierNotices : Prop :=
  ((∀ (s : State) (r : Fin 2) (t0 port : Nat) (a : BitVec 128), lampServes s = true → collDest s r.val = some (a, port) →
      (ntqOf s (r.val + 2)).hidden = false → readOrder 8 (ntqOf s (r.val + 2)).chain ≠ [] → (collOf s r.val).outst = none →
    ∃ t o, exec (.noticeDatagramSend r t0) s = .next t ∧ (collOf t r.val).outst = some o ∧ o.counter = (collOf s r.val).txCnt
      ∧ o.items = readOrder 8 (ntqOf s (r.val + 2)).chain ∧ o.sent = max s.now t0 ∧ t.sent = s.sent ++ [.udp a port 5 o.bytes]
      ∧ (collOf t r.val).txCnt = (collOf s r.val).txCnt + 1 ∧ t.ntq = s.ntq
      ∧ t = { s with now := max s.now t0, sent := t.sent, mon := t.mon, net := { s.net with coll := t.net.coll } })
  ∧ (∀ (s : State) (r : Fin 2) (t0 : Nat), (lampServes s = false ∨ (collOf s r.val).outst.isSome = true ∨ (ntqOf s (r.val + 2)).chain = []) →
      exec (.noticeDatagramSend r t0) s = .next { s with now := max s.now t0 })
  ∧ (∀ (s : State) (r : Fin 2) (t0 port : Nat) (a : BitVec 128) (o : OutNotice), lampServes s = true → collDest s r.val = some (a, port) →
      (collOf s r.val).outst = some o →
    (o.sent + 4096000 ≤ t0 → ∃ t, exec (.noticeResendTimeout r t0) s = .next t ∧ (collOf t r.val).outst = some { o with sent := t0 }
        ∧ t.sent = s.sent ++ [.udp a port 5 o.bytes] ∧ t = { s with now := max s.now t0, sent := t.sent, net := { s.net with coll := t.net.coll } })
    ∧ (t0 < o.sent + 4096000 → exec (.noticeResendTimeout r t0) s = .next { s with now := max s.now t0 }))
  ∧ (∀ (s : State) (d : Dgram) (r : Nat) (o : OutNotice), lampServes s = true → (encapCheck d s).1 = some r → (collOf s r).outst = some o →
      rd d.body 0 1 = 0x33 → rd (encapBody d) 0 8 = o.counter →
    ∃ t, exec (.noticeAckDatagram d) s = .next t ∧ (collOf t r).outst = none ∧ ntqOf t (r + 2) = popItems o.items (ntqOf s (r + 2))
      ∧ (collOf t r).rxCnt = rd d.body 16 8 ∧ (∀ k, k ≠ r + 2 → ntqOf t k = ntqOf s k)
      ∧ t = { s with ntq := t.ntq, net := { s.net with coll := t.net.coll } })
  ∧ (∀ (s : State) (d : Dgram), lampServes s = true → hmacTag (keyOf s (rd d.body 2 1)) (d.body.take (24 + rd d.body 6 2)) ≠ d.body.drop (24 + rd d.body 6 2) →
    ∃ t, exec (.noticeAckDatagram d) s = .next t ∧ (netOf t d.port.val).authFail = (netOf s d.port.val).authFail + 1
      ∧ (netOf t d.port.val).discard = (netOf s d.port.val).discard + 1 ∧ t = { s with net := { s.net with port := t.net.port } }))
  ∧ ((∀ (s : State) (q : Fin 4), ∃ t l, exec (.crierBacklogMove q) s = .next t ∧ (ntqOf t q.val).chain = (ntqOf s q.val).chain ++ l
      ∧ (ntqOf t q.val).backlog.length + l.length = (ntqOf s q.val).backlog.length
      ∧ ((ntqOf s q.val).chain.length ≤ 64 → (ntqOf t q.val).chain.length ≤ 64) ∧ queueExact (ntqOf t q.val) = queueExact (ntqOf s q.val)
      ∧ (∀ k, k ≠ q.val → ntqOf t k = ntqOf s k) ∧ t = { s with ntq := t.ntq, io := t.io })
  ∧ (∀ (s : State) (q : Fin 4) (n : Notice) (e : BitVec 72), (ntqOf s q.val).hidden = false → oldestOf (ntqOf s q.val).chain = some n →
    ∃ t, exec (.ntqHeadRead q [e]) s = .next t ∧ (ntqOf t q.val).latch = some { n with seen := true }
      ∧ (popCount 72 e.toNat ≤ 1 → (ntqOf t q.val).head = (([noticeW0 n, n.w1, n.w2, n.w3] : List (BitVec 64)).map halves).flatten
          ∧ (ntqOf t q.val).damaged = false
          ∧ tget (ntqOf t q.val).corrected 0 0 = tget (ntqOf s q.val).corrected 0 0 + BitVec.ofNat 32 (popCount 72 e.toNat))
      ∧ (popCount 72 e.toNat = 2 → (ntqOf t q.val).damaged = true ∧ tget (ntqOf t q.val).uncorr 0 0 = tget (ntqOf s q.val).uncorr 0 0 + 1)
      ∧ (ntqOf t q.val).chain.length = (ntqOf s q.val).chain.length ∧ t = { s with ntq := t.ntq, mon := t.mon })
  ∧ (∀ (s : State) (q : Fin 4) (u : List (BitVec 72)), ((ntqOf s q.val).hidden = true ∨ (ntqOf s q.val).chain = []) →
    ∃ t, exec (.ntqHeadRead q u) s = .next t ∧ ntqOf t q.val = { ntqOf s q.val with latch := none, head := [], damaged := false }
      ∧ t = { s with ntq := t.ntq })
  ∧ (∀ (s : State) (r : Requester) (q : Fin 4) (n : Notice), q.val < 2 → (ntqOf s q.val).latch = some n →
    ∃ t, exec (.ntqPop r q) s = .next t ∧ ntqOf t q.val = { ntqOf s q.val with
        chain := (ntqOf s q.val).chain.erase n, latch := none, head := [], damaged := false, popped := (ntqOf s q.val).popped + 1
        lastCont := if n.cont then some n.packet else none }
      ∧ (∀ k, k ≠ q.val → ntqOf t k = ntqOf s k) ∧ t = { s with ntq := t.ntq })
  ∧ (∀ (s : State) (r : Requester) (q : Fin 4) (pk : Nat), q.val < 2 → (ntqOf s q.val).lastCont = some pk →
    ∃ t, exec (.ntqDropRest r q) s = .next t
      ∧ (∀ n, n ∈ (ntqOf t q.val).chain ↔ n ∈ (ntqOf s q.val).chain ∧ (n.packet ≠ pk ∨ n.summary = true))
      ∧ (∀ n, n ∈ (ntqOf t q.val).backlog ↔ n ∈ (ntqOf s q.val).backlog ∧ (n.packet ≠ pk ∨ n.summary = true))
      ∧ (ntqOf t q.val).lastCont = none ∧ queueExact (ntqOf t q.val) = queueExact (ntqOf s q.val) ∧ t = { s with ntq := t.ntq })
  ∧ (∀ (s : State) (r : Requester) (q : Fin 4), 2 ≤ q.val → exec (.ntqPop r q) s = .next s ∧ exec (.ntqDropRest r q) s = .next s))

/-! ### Calibration (R331 to R353) -/

/-- CAL_MATCH_WINDOW: a window seen whole passes and delivery is due to switch, or the next window begins, or the eighth
failure ends the session's way out, or holds it on its way back.

CAL_DELIVERY_SWITCH, CAL_FRONT_END_PARK and CAL_POINT_COMPLETE: delivery passes from one front end to the other with a
hand-over in the log, the one that stopped is parked, and a point with its M samples takes their mean and deviation. -/
def Obligations.CalibrationSessions : Prop :=
  ((∀ (s : State) (b : Fin 16) (k w : Nat) (x : Session), bankSess s b.val = some (k, x) → inMatch x.phase = true → x.winFrom = some w →
    w + x.nMatch ≤ x.seenChan → w + x.nMatch ≤ x.seenSpare →
    (x.nMatch ≤ 2 * (windowDiffs x w).length → windowPasses x (meanSd (windowDiffs x w)) = true →
      ∃ t y, exec (.calMatchWindow b) s = .next t ∧ sessOf t k = some y ∧ y.phase = (if x.phase = .overlapOut then .switchOut else .switchBack)
        ∧ y.windows = x.windows + 1 ∧ y.mean = F64.mul (meanSd (windowDiffs x w)).1 million ∧ y.points = x.points
        ∧ t = { s with cal := { s.cal with sess := t.cal.sess } })
    ∧ ((2 * (windowDiffs x w).length < x.nMatch ∨ windowPasses x (meanSd (windowDiffs x w)) = false) →
      (x.windows ≠ 7 → ∃ t y, exec (.calMatchWindow b) s = .next t ∧ sessOf t k = some y ∧ y.phase = x.phase ∧ y.windows = x.windows + 1
        ∧ y.winFrom = some (w + x.nMatch) ∧ t = { s with cal := { s.cal with sess := t.cal.sess } })
      ∧ (x.windows = 7 → x.forFunc = none → k < 512 → (x.phase = .overlapOut → ∃ t, exec (.calMatchWindow b) s = .next t
          ∧ sessOf t k = none ∧ (chanOf t (512 + k / 32)).route = .parked ∧ t.ntq = (completeOpt x.owed .mismatch 0 s.tb.tick s).ntq
          ∧ t = { s with fe := t.fe, cal := { s.cal with sess := t.cal.sess }, ntq := t.ntq, io := t.io })
        ∧ (x.phase = .overlapBack → ∃ t y, exec (.calMatchWindow b) s = .next t ∧ sessOf t k = some y ∧ y.phase = .mismatchHeld ∧ y.windows = 8
          ∧ (chanOf t k).route = .parked ∧ t.ntq = (completeOpt x.owed .mismatch 0 s.tb.tick s).ntq
          ∧ t = { s with fe := t.fe, cal := { s.cal with sess := t.cal.sess }, ntq := t.ntq, io := t.io }))))
  ∧ (∀ (s : State) (b : Fin 16) (k w : Nat) (x : Session), bankSess s b.val = some (k, x) → x.winFrom = some w →
      (x.seenChan < w + x.nMatch ∨ x.seenSpare < w + x.nMatch ∨ inMatch x.phase = false) → exec (.calMatchWindow b) s = .next s))
  ∧ ((∀ (s : State) (b : Fin 16) (k n : Nat) (x : Session), bankSess s b.val = some (k, x) → n = n0 s.tb.tick (rateRefs (chanOf s k).rate) →
    (x.phase = .switchOut → ∃ t, exec (.calDeliverySwitch b) s = .next t ∧ sessOf t k = some { x with phase := .parking, swIndex := n }
      ∧ (bankSt t (k / 32)).deliver = some (k % 32, n) ∧ (bankSt t (k / 32)).back = none
      ∧ t.str.handovers = logHandOver { tick := s.tb.tick, func := k, standIn := 512 + k / 32, back := false, entries := slotEntries s k n } s.str.handovers
      ∧ t = { s with fe := { s.fe with bank := t.fe.bank }, str := t.str, cal := { s.cal with sess := t.cal.sess }, ntq := t.ntq, io := t.io })
    ∧ (x.phase = .switchBack → ∃ t, exec (.calDeliverySwitch b) s = .next t ∧ sessOf t k = some { x with phase := .parkBack, swIndex := n }
      ∧ (bankSt t (k / 32)).deliver = none ∧ (bankSt t (k / 32)).back = some (k % 32, n)
      ∧ t.str.handovers = logHandOver { tick := s.tb.tick, func := k, standIn := 512 + k / 32, back := true, entries := slotEntries s k n } s.str.handovers)
    ∧ (x.phase ≠ .switchOut → x.phase ≠ .switchBack → exec (.calDeliverySwitch b) s = .next s))
  ∧ (∀ (s : State) (b : Fin 16) (k : Nat) (x : Session), bankSess s b.val = some (k, x) → k < 512 → x.forFunc = none →
    (s.tb.tick * 1048576 < parkFrom s k x.swIndex → exec (.calFrontEndPark b) s = .next s)
    ∧ (parkFrom s k x.swIndex ≤ s.tb.tick * 1048576 → x.phase = .parking → x.legacy = false → ∃ t, exec (.calFrontEndPark b) s = .next t
      ∧ sessOf t k = some { x with phase := .out, owed := none, gain0 := some (chanOf s k).gain } ∧ (chanOf t k).route = .parked
      ∧ t.ntq = (completeOpt x.owed .ok 0 s.tb.tick s).ntq
      ∧ t = { s with fe := t.fe, cal := { s.cal with sess := t.cal.sess }, ntq := t.ntq, io := t.io })
    ∧ (parkFrom s k x.swIndex ≤ s.tb.tick * 1048576 → x.phase = .parkBack → ∃ t, exec (.calFrontEndPark b) s = .next t
      ∧ sessOf t k = none ∧ (chanOf t (512 + k / 32)).route = .parked ∧ (bankSt t b.val).legacyHeld = false
      ∧ fnOf t k = { fnOf s k with standIn := 0xFFFF, consumed := false } ∧ t.ntq = (completeOpt x.owed .ok 0 s.tb.tick s).ntq
      ∧ t = { s with fe := t.fe, cal := { s.cal with sess := t.cal.sess }, fn := t.fn, ntq := t.ntq, io := t.io }))
  ∧ (∀ (s : State) (u : Fin 20) (k : Nat) (x : Session) (p : CalPoint), unitSess s u.val = some (k, x) → x.points.find? (fun p => !p.done) = some p →
    (p.m ≤ p.vals.length → ∃ t y q, exec (.calPointComplete u) s = .next t ∧ sessOf t k = some y ∧ q ∈ y.points ∧ y.points.length = x.points.length
      ∧ q = { p with done := true, vals := [], mean := (pointStats (p.vals.drop (p.vals.length - p.m))).1,
                     sd := (pointStats (p.vals.drop (p.vals.length - p.m))).2, tick := s.tb.tick, owed := none }
      ∧ t.ntq = (completeOpt p.owed .ok 0 s.tb.tick s).ntq ∧ t = { s with cal := { s.cal with sess := t.cal.sess }, ntq := t.ntq, io := t.io })
    ∧ (p.vals.length < p.m → 4 * p.m ≤ p.seen → ∃ t, exec (.calPointComplete u) s = .next t
      ∧ sessOf t k = some { x with points := x.points.erase p } ∧ t.ntq = (completeOpt p.owed .mismatch 1 s.tb.tick s).ntq
      ∧ t = { s with cal := { s.cal with sess := t.cal.sess }, ntq := t.ntq, io := t.io })
    ∧ (p.vals.length < p.m → p.seen < 4 * p.m → exec (.calPointComplete u) s = .next s)))

/-- CAL_STORE_WRITE and CAL_COEFF_EFFECTIVE: the first waiting commit's results, merged into the page in force, go to the slot
of that page that is not in force, and every other byte of flash stays; the verified page's coefficients take effect at the
first boundary afterwards, no earlier than the tick that its request named (log 95), and no others change. -/
def Obligations.CalibrationStore : Prop :=
  (∀ (s : State) (a b : Bool), s.cal.writes = [] → exec (.calStoreWrite a b) s = .next s)
  ∧ (∀ (s : State) (a b : Bool) (w : StoreWrite) (rest : List StoreWrite), s.cal.writes = w :: rest →
    ((s.pwr.pwrfail = true ∨ ∃ x ∈ s.cal.stored, x.page = w.page) → exec (.calStoreWrite a b) s = .next s)
    ∧ ((∀ x ∈ s.cal.stored, x.page ≠ w.page) → s.pwr.pwrfail = false → fnOut s 0x2F2 = false → s.memInv →
      ((a || b) = true → ∃ t, exec (.calStoreWrite a b) s = .next t
        ∧ t.cal = { s.cal with writes := rest
                               stored := s.cal.stored ++ [{ page := w.page, bytes := commitBytes s w, tick := w.tick, owed := w.owed }] }
        ∧ rd (commitBytes s w) 4 4 = ((tget s.cal.inUse w.page (0, 0, 0)).2.1 + 1) % 2 ^ 32
        ∧ memReads 0xFF t.pwr.flash (slotOfs s w.page (1 - (tget s.cal.inUse w.page (1, 0, 0)).1)) (commitBytes s w).length = commitBytes s w
        ∧ (∀ o, (o < slotOfs s w.page (1 - (tget s.cal.inUse w.page (1, 0, 0)).1)
              ∨ slotOfs s w.page (1 - (tget s.cal.inUse w.page (1, 0, 0)).1) + (commitBytes s w).length ≤ o) →
            memRead 0xFF t.pwr.flash o = memRead 0xFF s.pwr.flash o)
        ∧ t.io.qErases = s.io.qErases + (if a then 2 else 4) ∧ t.io.qPrograms = s.io.qPrograms + (if a then 33 else 66)
        ∧ t.io.qVerify = s.io.qVerify + (if a then 0 else 1)
        ∧ t = { s with pwr := { s.pwr with flash := t.pwr.flash }, cal := t.cal, io := t.io })
      ∧ ((a || b) = false → ∃ t, exec (.calStoreWrite a b) s = .next t ∧ t.cal = { s.cal with writes := rest }
        ∧ t.io.qVerify = s.io.qVerify + 2 ∧ t.ntq = (complete w.owed .mismatch 0 s.tb.tick s).ntq)))
  ∧ (∀ s : State, (∀ w ∈ s.cal.stored, s.tb.tick < w.tick) → exec .calCoeffEffective s = .next s)
  ∧ (∀ (s : State) (w : StoredPage), s.cal.stored = [w] → w.tick ≤ s.tb.tick → ∃ t, exec .calCoeffEffective s = .next t
      ∧ t.cal = { s.cal with stored := [], inUse := t.cal.inUse }
      ∧ tget t.cal.inUse w.page (0, 0, 0) = (1 - (tget s.cal.inUse w.page (1, 0, 0)).1, rd w.bytes 4 4, rd w.bytes 8 8)
      ∧ (∀ e, e < pageEntries w.page → tget t.lin.corr (w.page * 264 + e) {}
            = { o := rdF (w.bytes.drop 64) (24 * e), g := rdF (w.bytes.drop 64) (24 * e + 8), q := rd (w.bytes.drop 64) (24 * e + 20) 2 })
      ∧ (∀ c, (c < w.page * 264 ∨ w.page * 264 + pageEntries w.page ≤ c) → tget t.lin.corr c {} = tget s.lin.corr c {})
      ∧ t.ntq = (complete w.owed .ok 0 s.tb.tick s).ntq
      ∧ t = { s with lin := { s.lin with corr := t.lin.corr, corrOld := t.lin.corrOld }, cal := t.cal, ntq := t.ntq, io := t.io })

/-! ### The tick boundary (R4, R24 to R27, R66, R369) -/

/-- TICK_BOUNDARY: the next tick and its instant; the epoch mark while firmware serves; a staged change applies at its tick and
at no earlier one; every break of a stream stands after the check. -/
def Obligations.TickBoundary : Prop :=
  (∀ (s : State) (i : TickIn), s.pwr.porn = false → exec (.tickBoundary i) s = .next s)
  ∧ (∀ (s : State) (i : TickIn), s.pwr.porn = true → s.mbx.staged = [] → s.tb.leave = false → s.tb.act = .none →
    ∃ t, exec (.tickBoundary i) s = .next t ∧ t.tb.tick = s.tb.tick + 1 ∧ t.now = max s.now ((s.tb.tick + 1) * 1048576)
      ∧ t.tb.state = s.tb.state ∧ t.glb.vcore = i.vcore ∧ t.mbx.staged = []
      ∧ (lampServes s = true → t.tb.tickNum = BitVec.ofNat 64 t.tb.tick
          ∧ t.tb.tickSec = BitVec.ofNat 48 (t.tb.tick * 1048576 / 204800000)
          ∧ t.tb.tickNsec = BitVec.ofNat 32 (t.tb.tick * 1048576 % 204800000 * 625 / 128))
      ∧ (lampServes s = false → t.tb.tickNum = s.tb.tickNum))
  ∧ (∀ (s : State) (i : TickIn) (g : Staged), s.pwr.porn = true → s.mbx.staged = [g] → isLedgerClear g.cmd = false →
    (s.tb.tick + 1 < g.tick → s.tb.leave = false → s.tb.act = .none → ∃ t, exec (.tickBoundary i) s = .next t ∧ t.mbx.staged = [g]
      ∧ t.pwr = s.pwr ∧ t.lin.desc = s.lin.desc ∧ t.lin.corr = s.lin.corr ∧ t.cop = s.cop ∧ t.tb.cfg = s.tb.cfg ∧ t.rm.plan = s.rm.plan)
    ∧ (g.tick ≤ s.tb.tick + 1 → ∃ t u, exec (.tickBoundary i) s = .next t
      ∧ u = { s with now := max s.now ((s.tb.tick + 1) * 1048576), tb := { s.tb with tick := s.tb.tick + 1 }, mbx := { s.mbx with staged := [] }, fe := u.fe }
      ∧ (∀ x ∈ t.mbx.staged, x ∈ (applyStaged u g).mbx.staged) ∧ t.pwr = (applyStaged u g).pwr
      ∧ t.lin.desc = (applyStaged u g).lin.desc ∧ t.lin.corr = (applyStaged u g).lin.corr ∧ t.cop = (applyStaged u g).cop ∧ t.tb.cfg = (applyStaged u g).tb.cfg ∧ t.rm.plan = (applyStaged u g).rm.plan))
  ∧ (∀ (s : State) (i : TickIn), s.pwr.porn = true → s.pwr.memReady = true → s.mbx.staged = [] → s.tb.leave = false → s.tb.act = .none →
    ∃ t, exec (.tickBoundary i) s = .next t ∧ t.str.checkSeq = s.str.checkSeq + 2 ∧ t.str.checkTick = s.tb.tick + 1 ∧ t.mbx.waitLedger = []
      ∧ (∀ j, j < 64 → (strOf t j).enabled = true →
          (strOf t j).cnt.p ≠ (strOf t j).cnt.a + (strOf t j).cnt.d + (strOf t j).cnt.f + (strOf t j).cnt.m → (strOf t j).brk = true)
      ∧ (t.str.fabric.free + t.str.fabric.held ≠ t.str.fabric.cap → t.str.fabBreak = true))

/-! ### Mailboxes (R355 to R371, R444) -/

/-- The 256 bytes of a response buffer (R360). -/
def Sys2Proof.Spec.resp (op : Nat) (seq : BitVec 16) (st : Status) (tick detail : Nat) (pay : List Byte) : List Byte :=
  padTo 256 (le 2 op ++ le 2 seq.toNat ++ le 2 pay.length ++ le 2 (statusCode st) ++ le 4 tick ++ le 4 detail ++ pay)

/-- A response stands in mailbox m, and BUSY is clear (R357). -/
def Sys2Proof.Spec.answered (m op : Nat) (seq : BitVec 16) (st : Status) (tick detail : Nat) (pay : List Byte) (t : State) : Prop :=
  (boxOf t m).resp = Spec.resp op seq st tick detail pay ∧ (boxOf t m).respReady = true ∧ (boxOf t m).busy = false
    ∧ (boxOf t m).taken = none ∧ (boxOf t m).lastSeq = seq

/-- MBX_RING, MBX_ACK, MULTIPART_TIMEOUT and MBX_REQ_DATAGRAM: whose write counts, what RING takes, what is answered at once,
and what waits. -/
def Obligations.MailboxEvents : Prop :=
  (∀ (s : State) (r : Requester) (m : Fin 8), r ≠ ownerOf m.val → ∃ t, exec (.mbxRing r m) s = .next t ∧ exec (.mbxAck r m) s = .next t
      ∧ boxOf t m.val = { boxOf s m.val with foreign := [(0, true), (1, true)] } ∧ (∀ k, k ≠ m.val → boxOf t k = boxOf s k)
      ∧ t = { s with mbx := { s.mbx with box := t.mbx.box } })
  ∧ (∀ (s : State) (m : Fin 8), ∃ t, exec (.mbxAck (ownerOf m.val) m) s = .next t ∧ boxOf t m.val = { boxOf s m.val with respReady := false }
      ∧ (∀ k, k ≠ m.val → boxOf t k = boxOf s k) ∧ t = { s with mbx := { s.mbx with box := t.mbx.box } })
  ∧ (∀ (s : State) (m : Fin 8), (s.pwr.fwUp = false ∨ s.pwr.pwrfail = true) → exec (.mbxRing (ownerOf m.val) m) s = .next s)
  ∧ (∀ (s : State) (m : Fin 8), s.pwr.fwUp = true → s.pwr.pwrfail = false → (boxOf s m.val).busy = true →
      ∃ t, exec (.mbxRing (ownerOf m.val) m) s = .next t ∧ boxOf t m.val = { boxOf s m.val with overrun := [(0, true), (1, true)] }
        ∧ t = { s with mbx := { s.mbx with box := t.mbx.box } })
  ∧ (∀ (s : State) (m : Fin 8) (q : Taken), s.pwr.fwUp = true → s.pwr.pwrfail = false → (boxOf s m.val).busy = false → q = takenOf m (boxOf s m.val).req →
      ∃ t, exec (.mbxRing (ownerOf m.val) m) s = .next t ∧ (boxOf t m.val).count = (boxOf s m.val).count + 1
        ∧ (∀ k, k ≠ m.val → boxOf t k = boxOf s k)
        ∧ (s.pwr.llTakeover = true → (boxOf t m.val).busy = true ∧ (boxOf t m.val).taken = some q ∧ (boxOf t m.val).respReady = false)
        ∧ (s.pwr.llTakeover = false → ∀ e, (boxOf s m.val).log.find? (fun e => e.req.hdr.seq == q.hdr.seq) = some e →
            takenBytes e.req = takenBytes q → (boxOf t m.val).resp = padTo 256 (respBytes e.resp) ∧ (boxOf t m.val).respReady = true
              ∧ (boxOf t m.val).busy = false ∧ (boxOf t m.val).replayed = (boxOf s m.val).replayed + 1
              ∧ (boxOf t m.val).log = (boxOf s m.val).log ∧ t.mbx.staged = s.mbx.staged)
        ∧ (s.pwr.llTakeover = false → ∀ e, (boxOf s m.val).log.find? (fun e => e.req.hdr.seq == q.hdr.seq) = some e →
            takenBytes e.req ≠ takenBytes q → q.opcode / 256 ≠ 0xF →
            Spec.answered m.val q.opcode q.hdr.seq .staleSequence (s.tb.tick % 2 ^ 32) 0 [] t ∧ (boxOf t m.val).log = (boxOf s m.val).log)
        ∧ (s.pwr.llTakeover = false → (∀ e ∈ (boxOf s m.val).log, e.req.hdr.seq ≠ q.hdr.seq) →
            (opInfo q.opcode = none → Spec.answered m.val q.opcode q.hdr.seq .badOpcode (s.tb.tick % 2 ^ 32) 0 [] t)
            ∧ (∀ i o, opInfo q.opcode = some i → i.multi = false → headBad i q.hdr q.pay = some o →
                Spec.answered m.val q.opcode q.hdr.seq .badArgument (s.tb.tick % 2 ^ 32) o [] t ∧ t.mbx.staged = s.mbx.staged)
            ∧ (∀ i, opInfo q.opcode = some i → headBad i q.hdr q.pay = none →
                bit (protOf s (protEntry s m.val)).classes.toNat i.cls = false →
                Spec.answered m.val q.opcode q.hdr.seq .notPermitted (s.tb.tick % 2 ^ 32) i.cls [] t ∧ t.mbx.staged = s.mbx.staged)
            ∧ (∀ i, opInfo q.opcode = some i → headBad i q.hdr q.pay = none →
                bit (protOf s (protEntry s m.val)).classes.toNat i.cls = true → (boxOf t m.val).busy = true ∧ (boxOf t m.val).taken = some q
                  ∧ (boxOf t m.val).respReady = false ∧ t = { s with mbx := { s.mbx with box := t.mbx.box } })))
  ∧ (∀ (s : State) (m : Fin 8), ∃ t, exec (.multipartTimeout m) s = .next t
      ∧ boxOf t m.val = { boxOf s m.val with asm := (boxOf s m.val).asm.filter fun a => decide (s.tb.tick < a.last + 1000) }
      ∧ t = { s with mbx := { s.mbx with box := t.mbx.box } })
  ∧ (∀ (s : State) (d : Dgram), (s.pwr.fwUp = false ∨ s.pwr.pwrfail = true ∨ rd d.body 0 1 ≠ 0x30) → exec (.mbxReqDatagram d) s = .next s)
  ∧ (∀ (s : State) (d : Dgram), s.pwr.fwUp = true → s.pwr.pwrfail = false → rd d.body 0 1 = 0x30 →
    (s.pwr.llTakeover = true → exec (.mbxReqDatagram d) s = .next { s with net := { s.net with keptReqs := s.net.keptReqs ++ [d] } })
    ∧ (s.pwr.llTakeover = false → hmacTag (keyOf s (rd d.body 2 1)) (d.body.take (24 + rd d.body 6 2)) ≠ d.body.drop (24 + rd d.body 6 2) →
      ∃ t, exec (.mbxReqDatagram d) s = .next t ∧ (netOf t d.port.val).authFail = (netOf s d.port.val).authFail + 1 ∧ t.mbx = s.mbx)
    ∧ (s.pwr.llTakeover = false → ∀ (role : Nat) (q : Taken) (i : OpInfo), (encapCheck d s).1 = some role → role < 2 →
        q = takenOf (if role = 0 then 6 else 7) (padTo 256 (encapBody d)) → (boxOf s (6 + role)).busy = false →
        (∀ e ∈ (boxOf s (6 + role)).log, e.req.hdr.seq ≠ q.hdr.seq) → opInfo q.opcode = some i → headBad i q.hdr q.pay = none →
        bit (protOf s (protEntry s (6 + role))).classes.toNat i.cls = true →
      ∃ t, exec (.mbxReqDatagram d) s = .next t ∧ (boxOf t (6 + role)).busy = true ∧ (boxOf t (6 + role)).taken = some q
        ∧ (boxOf t (6 + role)).req = padTo 256 (encapBody d) ∧ (collOf t role).rxCnt = rd d.body 16 8 ∧ (collOf t role).lastSrc = d.src
        ∧ (∀ k, k ≠ 6 + role → boxOf t k = boxOf s k)))

/-! ### Mailbox commands (R359 to R385) -/

/-- A request that an idle mailbox takes and validates: firmware serves it, its SEQ is not in the log, its opcode is known, its
header and class are sound, and its apply tick is n, or is refused. -/
def Sys2Proof.Spec.taken (op : Nat) (h : ReqHdr) (p : List Byte) (n : Option Nat) (s : State) : Prop :=
  s.pwr.fwUp = true ∧ s.pwr.pwrfail = false ∧ s.pwr.llTakeover = false ∧ (boxOf s h.mbx.val).busy = false
    ∧ (∀ e ∈ (boxOf s h.mbx.val).log, e.req.hdr.seq ≠ h.seq) ∧ p.length = h.length.toNat ∧ p.length ≤ 240
    ∧ (∃ i, opInfo op = some i ∧ headBad i h p = none ∧ bit (protOf s (protEntry s h.mbx.val)).classes.toNat i.cls = true)
    ∧ applyTickOf h s.tb.tick = n

/-- Such a request that applies at tick n, with no other change staged and no FILT_SELECT held. -/
def Sys2Proof.Spec.ready (op : Nat) (h : ReqHdr) (p : List Byte) (n : Nat) (s : State) : Prop :=
  Spec.taken op h p (some n) s ∧ s.mbx.staged = [] ∧ s.chd.held = []

/-- A response in mailbox m changes that mailbox, the monitors of its response time, its interrupt and, toward a collector, its
datagram, and nothing else. -/
def Sys2Proof.Spec.onlyAnswers (h : ReqHdr) (s t : State) : Prop :=
  (boxOf t h.mbx.val).log.head?.map (fun e => e.req.hdr) = some h ∧ (boxOf t h.mbx.val).count = (boxOf s h.mbx.val).count + 1
    ∧ (∀ k, k ≠ h.mbx.val → boxOf t k = boxOf s k) ∧ t.mbx.waitLedger = s.mbx.waitLedger
    ∧ (h.mbx.val < 6 → t.sent = s.sent ∧ t.net = s.net)
    ∧ t = { s with mbx := t.mbx, mon := t.mon, io := { s.io with msix := t.io.msix }, sent := t.sent, net := { s.net with coll := t.net.coll } }

/-- A command that observes is answered `OK` with a payload, and stages nothing. -/
def Sys2Proof.Spec.replies (op : Nat) (c : Instr) (h : ReqHdr) (detail : Nat) (pay : List Byte) (s : State) : Prop :=
  ∃ t, exec c s = .next t ∧ Spec.answered h.mbx.val op h.seq .ok (s.tb.tick % 2 ^ 32) detail pay t ∧ t.mbx.staged = s.mbx.staged
    ∧ Spec.onlyAnswers h s t

/-- A command is answered with its status and staged for tick n; an `OK` names that tick, `ACCEPTED` the present one (R360); at
its tick a state u becomes a state v with `E u v`. -/
def Sys2Proof.Spec.stages (op : Nat) (st : Status) (c : Instr) (h : ReqHdr) (p : List Byte) (func n : Nat) (s : State)
    (E : State → State → Prop) : Prop :=
  ∃ t g, exec c s = .next t ∧ Spec.answered h.mbx.val op h.seq st ((if st = .ok then n else s.tb.tick) % 2 ^ 32) 0 [] t
    ∧ t.mbx.staged = [g] ∧ g.tick = n ∧ g.opcode = op
    ∧ g.hdr = h ∧ g.cmd = c ∧ g.parts = [p] ∧ g.func = func ∧ (g.owed = true ↔ st ≠ .ok) ∧ Spec.onlyAnswers h s t
    ∧ ∀ u, E u (applyStaged u g)

/-- The requester of a staged command, who is owed its completion. -/
def Sys2Proof.Spec.owes (op : Nat) (h : ReqHdr) : Owed := { mbx := h.mbx.val, opcode := op, seq := h.seq }

/-- HUB_INFO, PERM_READ, NOP, AUX_SCAN_INFO, LIN_READ, CAL_STATUS, CAL_READ, FILT_COEF_READ, STREAM_DESCRIBE, MEM_STATUS,
TRIG_STATUS and REC_LIST: each answers `OK` with what the state holds. -/
def Obligations.ObservingCommands : Prop :=
  (∀ (s : State) (h : ReqHdr) (p : List Byte) (n k : Nat) (b : BootBlk), Spec.taken 0x0101 h p (some n) s → s.pwr.boot = some b → s.pwr.fwRun = some k →
    Spec.replies 0x0101 (.hubInfo h p) h 0 (le 1 0x11 ++ le 1 s.pwr.fwLevel ++ le 2 b.station ++ le 1 b.hubIndex ++ le 1 s.pwr.llActive
      ++ le 1 (if s.pwr.plane then 1 else 0) ++ [0] ++ le 4 (rd (fwHeader s k) 4 4) ++ le 4 s.pwr.bootCount.toNat ++ le 8 s.tb.tick) s)
  ∧ (∀ (s : State) (h : ReqHdr) (p : List Byte) (n : Nat) (e : Prot), Spec.taken 0x0102 h p (some n) s → e = protOf s (protEntry s h.mbx.val) →
    Spec.replies 0x0102 (.permRead h p) h 0 (le 1 e.classes.toNat ++ le 1 e.windows.length ++ [0, 0]
      ++ ((List.range 8).map fun k => le 4 (e.windows.getD k (0, 0)).1 ++ le 4 (e.windows.getD k (0, 0)).2).flatten) s)
  ∧ (∀ (s : State) (h : ReqHdr) (p : List Byte) (n : Nat), Spec.taken 0x0103 h p (some n) s → Spec.replies 0x0103 (.nop h p) h 0 [] s)
  ∧ (∀ (s : State) (h : ReqHdr) (p : List Byte) (n : Nat) (a : AuxConv), Spec.taken 0x0212 h p (some n) s → rd p 0 1 ≤ 3 → a = auxOf s (rd p 0 1) →
    Spec.replies 0x0212 (.auxScanInfo h p) h 0 (le 4 a.late.toNat ++ le 4 a.missed.toNat ++ le 1 (min 56 (a.table.length - rd p 1 1)) ++ [0, 0, 0]
      ++ ((List.range (min 56 (a.table.length - rd p 1 1))).map fun i => le 4 (entryOffset a.table (rd p 1 1 + i))).flatten) s)
  ∧ (∀ (s : State) (h : ReqHdr) (p : List Byte) (n : Nat) (d : LinDesc), Spec.taken 0x0221 h p (some n) s → rd p 0 2 ≤ 511 → d = linOf s (rd p 0 2) →
    Spec.replies 0x0221 (.linRead h p) h 0 (le 2 (rd p 0 2) ++ le 2 d.tsrc ++ le 4 d.stale ++ leF d.lsb ++ leF d.tscale ++ leF d.t0
      ++ ((List.range 24).map fun i => leF (d.coef.getD i 0)).flatten) s)
  ∧ (∀ (s : State) (h : ReqHdr) (p : List Byte) (n : Nat), Spec.taken 0x0317 h p (some n) s → isTarget (rd p 0 2) = true → rd p 2 1 ≤ 63 →
    (sessOf s (rd p 0 2) = none → Spec.replies 0x0317 (.calStatus h p) h 0 (zeros 28) s)
    ∧ (∀ x, sessOf s (rd p 0 2) = some x → heldPoints x = [] → Spec.replies 0x0317 (.calStatus h p) h 0
        (le 1 (phaseCode x.phase) ++ [0] ++ le 1 x.windows ++ [0] ++ le 8 x.swIndex ++ leF x.mean ++ leF x.sd) s))
  ∧ (∀ (s : State) (h : ReqHdr) (p : List Byte) (n : Nat) (u : Nat × Nat × Nat), Spec.taken 0x0318 h p (some n) s → rd p 0 1 ≤ 15 →
    u = tget s.cal.inUse (rd p 0 1) (0, 0, 0) →
    Spec.replies 0x0318 (.calRead h p) h 0 (le 4 u.2.1 ++ le 8 u.2.2 ++ leF 0 ++ le 1 (min 9 (264 - rd p 2 2)) ++ [0, 0, 0]
      ++ ((pageBody s (rd p 0 1)).drop (24 * rd p 2 2)).take (24 * min 9 (264 - rd p 2 2))) s)
  ∧ (∀ (s : State) (h : ReqHdr) (p : List Byte) (n : Nat), Spec.taken 0x040A h p (some n) s → rd p 0 1 ≤ 1 → 0 < rd p 4 1 →
    (rd p 1 1 = 0 → rd p 4 1 ≤ 64 → rd p 2 2 + rd p 4 1 ≤ 16384 → Spec.replies 0x040A (.filtCoefRead h p) h 0
      ((List.range (rd p 4 1)).map fun i => le 3 (coefOf s.chd (if rd p 0 1 = 0 then s.chd.active else 1 - s.chd.active) (rd p 2 2 + i)).toNat).flatten s)
    ∧ (rd p 1 1 = 1 → rd p 4 1 ≤ 28 → rd p 2 2 + rd p 4 1 ≤ 576 → Spec.replies 0x040A (.filtCoefRead h p) h 0
      ((List.range (rd p 4 1)).map fun i => le 8 (descOf s.chd (if rd p 0 1 = 0 then s.chd.active else 1 - s.chd.active) (rd p 2 2 + i)).toNat).flatten s))
  ∧ (∀ (s : State) (h : ReqHdr) (p : List Byte) (n k : Nat) (c : StreamDef), Spec.taken 0x0505 h p (some n) s → rd p 0 1 ≤ 63 → (strOf s (rd p 0 1)).defd = true →
    c = (strOf s (rd p 0 1)).cfg → k = rd p 1 1 → k < 1 + cdiv (c.chans - 96) 118 →
    Spec.replies 0x0505 (.streamDescribe h p) h (defCrc (rd p 0 1) c).toNat (le 2 k ++ le 1 (if k + 1 = 1 + cdiv (c.chans - 96) 118 then 1 else 0) ++ [0]
      ++ (if k = 0 then defFixed (rd p 0 1) c else []) ++ ((describeSlots c k).map (le 2)).flatten) s)
  ∧ (∀ (s : State) (h : ReqHdr) (p : List Byte) (n b : Nat) (c : PhysBank), Spec.taken 0x0541 h p (some n) s → rd p 0 1 ≤ 33 → c = tget s.rm.bankCnt (rd p 0 1) {} →
    s.rm.sparePhys ≠ some (rd p 0 1) → logOf s (rd p 0 1) = some b →
    Spec.replies 0x0541 (.memStatus h p) h 0 (le 1 b ++ [0, 0, 0] ++ le 4 c.lastSweep.toNat ++ le 4 c.uncorr.toNat ++ le 8 c.total.toNat) s)
  ∧ (∀ (s : State) (h : ReqHdr) (p : List Byte) (n : Nat) (x : Group), Spec.taken 0x0606 h p (some n) s → rd p 0 1 ≤ 7 → x = grpOf s (rd p 0 1) →
    (rd p 1 1 = 0 → Spec.replies 0x0606 (.trigStatus h p) h 0 (le 1 (if x.armed then 1 else 0) ++ le 1 (if x.lateArm then 1 else 0) ++ le 2 x.disarmed
      ++ ((List.range 8).map fun i => BitVec.ofNat 8 (seqrOf s i).state) ++ le 4 x.recNo.toNat ++ le 4 x.missHold.toNat ++ le 4 x.missSpc.toNat
      ++ le 4 (grpCrc x).toNat) s)
    ∧ (0 < rd p 1 1 → 240 * (rd p 1 1 - 1) < x.cfg.bytes.length →
        Spec.replies 0x0606 (.trigStatus h p) h 0 ((x.cfg.bytes.drop (240 * (rd p 1 1 - 1))).take 240) s))
  ∧ (∀ (s : State) (h : ReqHdr) (p : List Byte) (n : Nat) (rs : List Record), Spec.taken 0x0607 h p (some n) s → rd p 0 1 ≤ 7 →
    rs = ((grpOf s (rd p 0 1)).recs.filter fun x => x.complete && decide (rd p 4 4 ≤ x.no.toNat)).take 19 →
    Spec.replies 0x0607 (.recList h p) h 0 (le 1 rs.length ++ [0, 0, 0] ++ (rs.map fun x => le 4 x.no.toNat ++ le 4 x.ofs ++ le 4 x.length).flatten) s)

/-- TIME_STATUS, LOOP_TUNE_READ, LOOP_STATUS, WICK_STATUS, DRIVE_STATUS, COOPER_STATUS, FUNC_STATE, FW_INFO, MON_READ,
NET_STATUS, and the level-2 IDENT and STATUS: each answers `OK` with what the state holds. -/
def Obligations.StatusCommands : Prop :=
  (∀ (s : State) (h : ReqHdr) (p : List Byte) (n q y : Nat) (a : AnnounceData), Spec.taken 0x0701 h p (some n) s → s.tb.parent = some (q, a) → s.tb.synceSel = some y →
    Spec.replies 0x0701 (.timeStatus h p) h 0 (le 1 (timeCode s.tb.state) ++ le 1 q ++ le 1 y ++ le 1 (tget s.tb.ql y 0).toNat ++ leI 2 s.tb.utcOffset
      ++ [0, 0] ++ leI 8 s.tb.offset ++ be 8 a.gmId.toNat) s)
  ∧ (∀ (s : State) (h : ReqHdr) (p : List Byte) (n b : Nat), Spec.taken 0x0805 h p (some n) s → rd p 0 1 ≤ 31 → (loopOf s (rd p 0 1)).tuned = some b →
    (rd p 1 1 = 0 → Spec.replies 0x0805 (.loopTuneRead h p) h 0 (rmClean s b 232) s)
    ∧ (rd p 1 1 = 1 → Spec.replies 0x0805 (.loopTuneRead h p) h 0 (rmClean s (b + 232) 216) s))
  ∧ (∀ (s : State) (h : ReqHdr) (p : List Byte) (n : Nat), Spec.taken 0x0806 h p (some n) s → rd p 0 1 ≤ 31 →
    Spec.replies 0x0806 (.loopStatus h p) h 0 (wordsBytes (loopImage s (rd p 0 1) (mbxRequester h.mbx.val))
      ++ paramBytes (rd p 0 1) (loopOf s (rd p 0 1)).par ++ stagedBytes (rd p 0 1) (loopOf s (rd p 0 1))) s)
  ∧ (∀ (s : State) (h : ReqHdr) (p : List Byte) (n w : Nat), Spec.taken 0x0811 h p (some n) s → s.wick.active = some w →
    Spec.replies 0x0811 (.wickStatus h p) h 0 (le 1 w ++ le 1 (fnCode (fnState s 0x2D8)) ++ le 1 (fnCode (fnState s 0x2D9)) ++ le 1 s.wick.ckSlot
      ++ le 4 s.wick.ckSeq.toNat ++ le 1 (tget s.wick.fenced 0 0) ++ le 1 (tget s.wick.fenced 1 0) ++ le 2 (claimOf s w 0xC0)
      ++ le 4 s.wick.skipped.toNat ++ le 4 s.wick.failovers.toNat) s)
  ∧ (∀ (s : State) (h : ReqHdr) (p : List Byte) (n : Nat) (d : DrivePort), Spec.taken 0x0813 h p (some n) s → rd p 0 1 ≤ 31 → d = portOf s (rd p 0 1) →
    Spec.replies 0x0813 (.driveStatus h p) h 0 (le 8 d.last.toNat ++ le 4 (s.now - d.lastEnd) ++ le 4 d.missing.toNat ++ le 4 d.crcErr.toNat
      ++ le 4 d.refused.toNat) s)
  ∧ (∀ (s : State) (h : ReqHdr) (p : List Byte) (n : Nat), Spec.taken 0x0904 h p (some n) s →
    Spec.replies 0x0904 (.cooperStatus h p) h 0 (le 1 s.cop.length ++ [0, 0, 0] ++ (s.cop.map fun j =>
      le 2 j.tag.toNat ++ le 1 (if j.running then 1 else 0) ++ le 1 j.group ++ le 4 j.record.toNat ++ le 4 j.written).flatten) s)
  ∧ (∀ (s : State) (h : ReqHdr) (p : List Byte) (n : Nat), Spec.taken 0x0A04 h p (some n) s → fnExists h.func.toNat = true → 0 < rd p 0 2 → rd p 0 2 ≤ 60 →
    Spec.replies 0x0A04 (.funcState h p) h 0 ((List.range (rd p 0 2)).map fun i => if fnExists (h.func.toNat + i) then
        le 1 (fnCode (fnState s (h.func.toNat + i))) ++ le 1 (fnOf s (h.func.toNat + i)).cause ++ le 2 (fnOf s (h.func.toNat + i)).standIn
      else [0, 0, 0, 0]).flatten s)
  ∧ (∀ (s : State) (h : ReqHdr) (p : List Byte) (n : Nat), Spec.taken 0x0B01 h p (some n) s →
    Spec.replies 0x0B01 (.fwInfo h p) h 0 ((List.range 2).map fun k => le 1 (fwStateOf s k) ++ [0] ++ (if fwStateOf s k = 0 then zeros 10
      else le 2 (rd (fwHeader s k) 2 2) ++ le 4 (rd (fwHeader s k) 4 4) ++ le 4 (rd (fwHeader s k) 8 4))).flatten s)
  ∧ (∀ (s : State) (h : ReqHdr) (p : List Byte) (n : Nat) (b : MonBank), Spec.taken 0x0C02 h p (some n) s →
    (rd p 0 1 < 32 → b = (monOf s (rd p 0 1)).snap → Spec.replies 0x0C02 (.monRead h p) h 0
      (leI 4 b.min ++ leI 4 b.max ++ ((List.range 48).map fun i => le 4 (tget b.bins i 0)).flatten) s)
    ∧ (128 ≤ rd p 0 1 → rd p 0 1 < 160 → b = (monOf s (rd p 0 1 - 128)).snap → Spec.replies 0x0C02 (.monRead h p) h 0
      ((List.range 16).map fun i => le 4 (tget b.bins (48 + i) 0)).flatten s))
  ∧ (∀ (s : State) (h : ReqHdr) (p : List Byte) (n : Nat) (x : NetPort), Spec.taken 0x0D05 h p (some n) s → rd p 0 1 ≤ 3 → x = netOf s (rd p 0 1) →
    Spec.replies 0x0D05 (.netStatus h p) h 0 (le 1 (if x.link then 1 else 0) ++ le 1 s.net.ring.state ++ [0, 0] ++ le 8 x.rxFrames.toNat
      ++ le 8 x.txFrames.toNat ++ le 4 (x.rxDiscard + x.discard + x.dropped).toNat ++ le 4 x.authFail.toNat) s)
  ∧ (∀ (s : State) (h : ReqHdr) (p : List Byte) (n k : Nat) (b : BootBlk), Spec.taken 0x0F01 h p (some n) s → s.pwr.boot = some b → s.pwr.fwRun = some k →
    Spec.replies 0x0F01 (.l2Ident h p) h 0 (le 1 0x11 ++ le 1 s.pwr.fwLevel ++ le 2 b.station ++ le 1 b.hubIndex ++ le 1 s.pwr.llActive
      ++ le 1 (if s.pwr.plane then 1 else 0) ++ [0] ++ le 4 (rd (fwHeader s k) 4 4) ++ le 4 s.pwr.bootCount.toNat) s)
  ∧ (∀ (s : State) (h : ReqHdr) (p : List Byte) (n : Nat), Spec.taken 0x0F20 h p (some n) s → fnExists h.func.toNat = true →
    Spec.replies 0x0F20 (.l2Status h p) h 0 (le 1 (fnCode (fnState s h.func.toNat)) ++ le 1 (fnOf s h.func.toNat).cause
      ++ le 2 (fnOf s h.func.toNat).standIn) s)

/-- The request is the one part of its multi-part command, and no assembly is open (R371). -/
def Sys2Proof.Spec.solePart (p : List Byte) (s : State) : Prop :=
  rd p 0 2 = 0 ∧ rd p 2 1 = 1 ∧ ∀ k, k < 8 → (boxOf s k).asm = []

/-- CHAN_CONFIG, WB_CONFIG, WB_COMPARATOR, EXC_CONFIG, FE_ROUTE, AUX_SCAN_LOAD and AUX_TIMER: sound payloads are staged, and
at their tick set their slot, group, front end, table or timer and nothing else. -/
def Obligations.FrontEndCommands : Prop :=
  (∀ (s : State) (h : ReqHdr) (p : List Byte) (n k : Nat), Spec.ready 0x0201 h p n s → k = rd p 0 2 → k ≤ 543 → rd p 2 1 ≤ 1 → rd p 3 1 ≤ 7 → rd p 4 1 ≤ 1 →
    (528 ≤ k → rd p 3 1 = 0 ∧ rd p 4 1 = 0) →
    (rd p 2 1 = 0 → (chanOf s k).enabled = true → streamCarries s k = false ∧ usesSlot s k = false) →
    Spec.stages 0x0201 .ok (.chanConfig h p) h p k n s fun u v =>
      (chanOf v k).enabled = decide (rd p 2 1 = 1) ∧ (k < 528 → (chanOf v k).bias = decide (rd p 4 1 = 1))
      ∧ (k < 528 → (bankSt u (bankOf k)).deliver = none → (∀ e ∈ u.cal.sess, e.1 ≠ k) → (chanOf v k).gain = rd p 3 1)
      ∧ (∀ j, j ≠ k → j ≠ 512 + k / 32 → chanOf v j = chanOf u j)
      ∧ (rd p 2 1 = 1 → v.lin = u.lin ∧ v.ntq = u.ntq ∧ v.io = u.io)
      ∧ v = { u with fe := { u.fe with chan := v.fe.chan }, cal := { u.cal with sess := v.cal.sess }, ntq := v.ntq, io := v.io,
                     lin := { u.lin with vout := v.lin.vout, temp := v.lin.temp, descOld := v.lin.descOld } })
  ∧ (∀ (s : State) (h : ReqHdr) (p : List Byte) (n c : Nat), Spec.ready 0x0204 h p n s → c = rd p 0 1 → c ≤ 15 → rd p 1 1 ≤ 2 → rd p 2 1 ≤ 1 →
    Spec.stages 0x0204 .ok (.wbConfig h p) h p (528 + c) n s fun u v =>
      (chanOf v (528 + c)).range = rd p 1 1 ∧ (chanOf v (528 + c)).coupling = rd p 2 1 ∧ (∀ j, j ≠ 528 + c → chanOf v j = chanOf u j)
      ∧ ((chanOf u (528 + c)).range ≠ rd p 1 1 → u.tb.tick * 1048576 + 2048 ≤ (compOf v c).mutedUntil)
      ∧ ((chanOf u (528 + c)).coupling ≠ rd p 2 1 → u.tb.tick * 1048576 + 20480000 ≤ (compOf v c).mutedUntil)
      ∧ ((chanOf u (528 + c)).range = rd p 1 1 → (chanOf u (528 + c)).coupling = rd p 2 1 → chanOf v (528 + c) = chanOf u (528 + c) ∧ v.fe.comp = u.fe.comp)
      ∧ v = { u with fe := { u.fe with chan := v.fe.chan, comp := v.fe.comp } })
  ∧ (∀ (s : State) (h : ReqHdr) (p : List Byte) (n c : Nat), Spec.ready 0x0205 h p n s → c = rd p 0 1 → c ≤ 15 → rd p 1 1 ≤ 1 → rd p 2 1 ≤ 2 → rd p 4 2 ≤ 4095 →
    Spec.stages 0x0205 .ok (.wbComparator h p) h p (528 + c) n s fun u v =>
      compOf v c = { compOf u c with enable := decide (rd p 1 1 = 1), polarity := rd p 2 1, hyst := rd p 3 1, threshold := rd p 4 2 }
      ∧ (∀ j, j ≠ c → compOf v j = compOf u j) ∧ v = { u with fe := { u.fe with comp := v.fe.comp } })
  ∧ (∀ (s : State) (h : ReqHdr) (p : List Byte) (n g : Nat), Spec.ready 0x0208 h p n s → g = rd p 0 1 → g ≤ 127 → rd p 1 1 ≤ 3 → rd p 2 1 ≤ 1 →
    (rd p 1 1 = 1 → 500 ≤ rd p 4 4 ∧ rd p 4 4 ≤ 10000) → (rd p 1 1 = 2 → 1000 ≤ rd p 4 4 ∧ rd p 4 4 ≤ 1000000) →
    (rd p 1 1 = 3 → rd p 4 4 = 2 ∨ rd p 4 4 = 4 ∨ rd p 4 4 = 8) → (rd p 8 4 = 0 ∨ 10 ≤ rd p 8 4 ∧ rd p 8 4 ≤ 1000) →
    Spec.stages 0x0208 .ok (.excConfig h p) h p (0x260 + g / 8) n s fun u v =>
      (excOf v g).mode = rd p 1 1 ∧ (excOf v g).level = rd p 4 4 ∧ (excOf v g).sense = decide (rd p 2 1 = 1)
      ∧ (excOf v g).imin = (if rd p 8 4 = 0 then 100 else rd p 8 4) ∧ (excOf v g).shutOff = false
      ∧ (excMode u g ≠ rd p 1 1 → (excOf v g).suspendEnd = max (excOf u g).suspendEnd (u.tb.tick * 1048576 + excT (rd p 1 1)))
      ∧ (∀ j, j ≠ g → excOf v j = excOf u j) ∧ (∀ j, j ∉ groupSlots u g → chanOf v j = chanOf u j)
      ∧ v = { u with fe := { u.fe with exc := v.fe.exc, chan := v.fe.chan } })
  ∧ (∀ (s : State) (h : ReqHdr) (p : List Byte) (n b f j : Nat), Spec.ready 0x020C h p n s → b = rd p 0 1 → f = rd p 1 1 → b ≤ 15 → f ≤ 32 → rd p 2 1 ≤ 3 →
    (f = 32 → rd p 2 1 ≠ 0) → (f ≠ 32 → rd p 2 1 ≠ 3) → rd p 3 1 ≤ 31 → bankInSession s b = false →
    routeLegal s b f (routeOf (rd p 2 1)) (rd p 3 1) = true → j = (if f = 32 then 512 + b else 32 * b + f) →
    Spec.stages 0x020C .ok (.feRoute h p) h p j n s fun u v =>
      (chanOf v j).route = routeOf (rd p 2 1) ∧ (rd p 2 1 = 3 → (bankSt v b).spareK = rd p 3 1)
      ∧ (∀ i, i ∉ bankSlots b → chanOf v i = chanOf u i) ∧ (∀ i, i ≠ b → bankSt v i = bankSt u i)
      ∧ v = { u with fe := { u.fe with chan := v.fe.chan, bank := v.fe.bank } })
  ∧ (∀ (s : State) (h : ReqHdr) (p : List Byte) (n c : Nat) (tb : List (BitVec 64)), Spec.ready 0x0210 h p n s → Spec.solePart p s → c = rd p 4 1 → c ≤ 3 →
    1 ≤ rd p 6 1 → rd p 6 1 ≤ 28 → p.length = 8 + 8 * rd p 6 1 → rd p 5 1 + rd p 6 1 ≤ 256 →
    (∀ i, i < rd p 6 1 → auxEntryOk (BitVec.ofNat 64 (rd p (8 + 8 * i) 8)) = true) → loadTable 256 (loadEntries [p]) 0 = some tb →
    misfit (auxOf s c) tb = none →
    Spec.stages 0x0210 .ok (.auxScanLoad h p) h p (0x274 + c) n s fun u v =>
      (∀ hold rep, (auxOf u c).phase = .converting hold rep → hold ≤ u.tb.tick * 1048576 → fnOut u (0x274 + c) = false →
          auxOf v c = { auxOf u c with waiting := some tb })
      ∧ ((auxOf u c).phase = .waiting ∨ (∃ d l, (auxOf u c).phase = .delay d l) ∨ (auxOf u c).phase = .idle ∧ (auxOf u c).waiting = none
            ∨ (∃ hold rep, (auxOf u c).phase = .converting hold rep ∧ u.tb.tick * 1048576 < hold ∧ (auxOf u c).acc = []) → fnOut u (0x274 + c) = false →
          (auxOf v c).table = tb ∧ (auxOf v c).waiting = none ∧ (auxOf v c).pos = 0
          ∧ (auxWait (tb.getD 0 0) = true → (auxOf v c).phase = .waiting)
          ∧ (auxWait (tb.getD 0 0) = false → (auxOf v c).phase = .converting (max (u.tb.tick * 1048576) (auxOf u c).freeAt + 100) 0))
      ∧ (fnOut u (0x274 + c) = true → (auxOf v c).table = tb ∧ (auxOf v c).waiting = none ∧ (auxOf v c).phase = .idle)
      ∧ (∀ j, j ≠ c → auxOf v j = auxOf u j)
      ∧ ((auxOf u c).acc = [] ∨ fnOut u (0x274 + c) = true → v = { u with fe := { u.fe with aux := v.fe.aux } }))
  ∧ (∀ (s : State) (h : ReqHdr) (p : List Byte) (n c : Nat), Spec.ready 0x0211 h p n s → c = rd p 0 1 → c ≤ 3 → rd p 1 1 ≤ 1 → 200 ≤ rd p 4 4 → rd p 8 4 < rd p 4 4 →
    timerFits (auxTable (auxOf s c)) (rd p 1 1) (rd p 4 4) = true →
    Spec.stages 0x0211 .ok (.auxTimer h p) h p (0x274 + c) n s fun u v =>
      (∃ x, auxOf v c = { auxOf u c with timers := x } ∧ tget x (rd p 1 1) {} = { period := rd p 4 4, phase := rd p 8 4 }
        ∧ ∀ i, i ≠ rd p 1 1 → tget x i {} = tget (auxOf u c).timers i {})
      ∧ (∀ j, j ≠ c → auxOf v j = auxOf u j) ∧ v = { u with fe := { u.fe with aux := v.fe.aux } })

/-- LIN_SET, VOUT_SET, VOUT_STOP, FILT_SELECT, FILT_SET_DEFINE, FILT_COEF_WRITE and FILT_SWAP: at their tick a descriptor, an
output's setting, a slot's rate and set, or the shadow bank takes the payload's values; a swap starts, or is deferred. -/
def Obligations.ProcessingCommands : Prop :=
  (∀ (s : State) (h : ReqHdr) (p : List Byte) (n k : Nat) (d : LinDesc), Spec.ready 0x0220 h p n s → k = rd p 0 2 → k ≤ 511 → d = linOfBytes p →
    (d.tsrc ≠ 0xFFFF → (d.tsrc < 512 ∧ d.tsrc ≠ k ∧ (linOf s d.tsrc).tsrc = 0xFFFF ∨ 544 ≤ d.tsrc ∧ d.tsrc < 608)
      ∧ ∀ e ∈ s.lin.desc, e.1 ≠ k → e.2.tsrc ≠ k) →
    d.stale ≤ 4096000000 → F64.posNormal d.lsb = true → F64.isFinite d.tscale = true → F64.isFinite d.t0 = true →
    (∀ i, i < 24 → F64.isFinite (d.coef.getD i 0) = true) → (d.lsb ≠ (linOf s k).lsb → engStream s k = false) →
    Spec.stages 0x0220 .ok (.linSet h p) h p k n s fun u v =>
      linOf v k = d ∧ tget v.lin.temp k {} = {} ∧ (∀ j, j ≠ k → linOf v j = linOf u j ∧ tget v.lin.temp j {} = tget u.lin.temp j {})
      ∧ v = { u with lin := { u.lin with desc := v.lin.desc, descOld := v.lin.descOld, temp := v.lin.temp } })
  ∧ (∀ (s : State) (h : ReqHdr) (p : List Byte) (n o : Nat), Spec.ready 0x0230 h p n s → o = rd p 0 1 → o ≤ 31 → rd p 1 1 ≤ 1 → rd p 2 2 ≤ 607 →
    (rd p 1 1 = 1 → rd p 2 2 ≤ 511) → rd p 4 1 ≤ 1 → rd p 5 1 ≤ 2 → rd p 6 1 ≤ 1 → (rd p 4 1 = 1 → 2048 ≤ rd p 8 4 ∧ rd p 8 4 ≤ 204800) →
    (if rd p 4 1 = 1 then F64.le 0 (rdF p 32) && F64.le (rdF p 32) F64.one else F64.le f01 (rdF p 32) && F64.le (rdF p 32) f100k) = true →
    Spec.stages 0x0230 .ok (.voutSet h p) h p (0x350 + o) n s fun u v =>
      ((voutOf u o).cfg = none → (voutOf v o).cfg = some (voutOfBytes p) ∧ (voutOf v o).running = true
        ∧ (voutOf v o).level = voutLevel (voutOfBytes p) false ∧ (sourceGone u (rd p 2 2) = false → (voutOf v o).newest = none ∧ (voutOf v o).onBad = false))
      ∧ (∀ b, (voutOf u o).cfg = some b → (b.pwm ≠ (voutOfBytes p).pwm ∨ (voutOfBytes p).pwm = true ∧ b.pc ≠ (voutOfBytes p).pc) →
          ((if b.pwm then (voutOf u o).period.isNone else (voutOf u o).halted) = false → sourceGone u b.slot = false →
              voutOf v o = { voutOf u o with next := some (voutOfBytes p), stopping := false })
          ∧ ((if b.pwm then (voutOf u o).period.isNone else (voutOf u o).halted) = true → (voutOf v o).cfg = some (voutOfBytes p)
              ∧ (voutOf v o).next = none))
      ∧ (∀ b, (voutOf u o).cfg = some b → b.pwm = (voutOfBytes p).pwm → b.pc = (voutOfBytes p).pc → (voutOf v o).cfg = some (voutOfBytes p))
      ∧ (∀ j, j ≠ o → voutOf v j = voutOf u j) ∧ v = { u with freeCtr := u.freeCtr + 1, lin := { u.lin with vout := v.lin.vout } })
  ∧ (∀ (s : State) (h : ReqHdr) (p : List Byte) (n o : Nat), Spec.ready 0x0231 h p n s → o = rd p 0 1 → o ≤ 31 →
    Spec.stages 0x0231 .ok (.voutStop h p) h p (0x350 + o) n s fun u v =>
      ((voutOf u o).cfg = none → voutOf v o = voutOf u o)
      ∧ (∀ c, (voutOf u o).cfg = some c → (voutOf u o).halted = true → (voutOf v o).cfg = none ∧ (voutOf v o).level = voutLevel c false)
      ∧ (∀ c, (voutOf u o).cfg = some c → (voutOf u o).halted = false → (c.pwm = true → (voutOf u o).period.isSome = true) →
          voutOf v o = { voutOf u o with stopping := true, next := none })
      ∧ (∀ j, j ≠ o → voutOf v j = voutOf u j) ∧ v = { u with lin := { u.lin with vout := v.lin.vout } })
  ∧ (∀ (s : State) (h : ReqHdr) (p : List Byte) (n k : Nat), Spec.ready 0x0402 h p n s → k = rd p 0 2 → k ≤ 527 → rd p 2 1 ≤ 11 → rd p 3 1 ≤ 7 → rd p 4 1 ≤ 10 →
    (512 ≤ k → (chanOf s k).route = .parked) → chainDefined s.chd s.chd.active (rd p 3 1) (rd p 2 1) = true →
    (∀ j ∈ selectFes s k, rd p 2 1 ≠ (chanOf s j).rate → streamCarries s j = false ∧ usesSlot s j = false) → fadeRuns s k = false →
    (s.chd.swap = none → s.chd.late = none → s.chd.deferred = none → Spec.stages 0x0402 .ok (.filtSelect h p) h p k n s fun u v =>
      (selectWaits u k = false → (chanOf v k).rate = rd p 2 1 ∧ (chanOf v k).set = rd p 3 1
        ∧ (∀ j, j ≠ k → j ≠ 512 + k / 32 → chanOf v j = chanOf u j) ∧ v = { u with fe := { u.fe with chan := v.fe.chan } })
      ∧ (selectWaits u k = true → v = { u with chd := { u.chd with held := u.chd.held ++
            [{ slot := k, rate := rd p 2 1, set := rd p 3 1, k := rd p 4 1, tick := n, owed := Spec.owes 0x0402 h, since := u.tb.tick }] } }))
    ∧ (s.chd.swap.isSome = true → ∃ t, exec (.filtSelect h p) s = .next t
        ∧ Spec.answered h.mbx.val 0x0402 h.seq .deferred (s.tb.tick % 2 ^ 32) 0 [] t ∧ t.mbx.staged = []
        ∧ Spec.onlyAnswers h { s with chd := { s.chd with held :=
            [{ slot := k, rate := rd p 2 1, set := rd p 3 1, k := rd p 4 1, tick := n, owed := Spec.owes 0x0402 h, since := s.tb.tick }] } } t))
  ∧ (∀ (s : State) (h : ReqHdr) (p : List Byte) (n : Nat) (ds : List (BitVec 64)), Spec.ready 0x0408 h p n s → Spec.solePart p s → ds = upToLast (partDescs p) →
    4 ≤ rd p 4 1 → rd p 4 1 ≤ 7 → rd p 5 1 ≤ 11 → 1 ≤ rd p 6 1 → rd p 6 1 ≤ 6 → p.length = 8 + 8 * rd p 6 1 → (partDescs p).any dLast = true →
    (∀ i, i < rd p 6 1 → descOk i ((partDescs p).getD i 0) = true) → chainDecim ds = rateDecim (rd p 5 1) →
    2400 + chainSpanRefs 512 ds ≤ dSpan (ds.headD 0) * rateRefs (rd p 5 1) → chainCost (chainDecim ds) 1 ds ≤ 7500000 * chainDecim ds →
    s.chd.swap = none → s.chd.late = none → s.chd.deferred = none →
    Spec.stages 0x0408 .ok (.filtSetDefine h p) h p 0x2C0 n s fun u v =>
      (∀ i, i < rd p 6 1 → tget v.chd.descs ((1 - u.chd.active) * 576 + rd p 4 1 * 72 + rd p 5 1 * 6 + i) 0 = BitVec.ofNat 64 (rd p (8 + 8 * i) 8))
      ∧ (∀ e, (e < (1 - u.chd.active) * 576 + rd p 4 1 * 72 + rd p 5 1 * 6
            ∨ (1 - u.chd.active) * 576 + rd p 4 1 * 72 + rd p 5 1 * 6 + rd p 6 1 ≤ e) →
          tget v.chd.descs e 0 = tget u.chd.descs e 0)
      ∧ v = { u with chd := { u.chd with descs := v.chd.descs } })
  ∧ (∀ (s : State) (h : ReqHdr) (p : List Byte) (n : Nat), Spec.ready 0x0409 h p n s → 8192 ≤ rd p 0 2 → 1 ≤ rd p 2 1 → rd p 2 1 ≤ 64 → p.length = 4 + 3 * rd p 2 1 →
    rd p 0 2 + rd p 2 1 ≤ 16384 → s.chd.swap = none → s.chd.late = none → s.chd.deferred = none →
    Spec.stages 0x0409 .ok (.filtCoefWrite h p) h p 0x2C0 n s fun u v =>
      (∀ i, i < rd p 2 1 → tget v.chd.words ((1 - u.chd.active) * 16384 + rd p 0 2 + i) 0 = BitVec.ofNat 24 (rd p (4 + 3 * i) 3))
      ∧ (∀ e, (e < (1 - u.chd.active) * 16384 + rd p 0 2 ∨ (1 - u.chd.active) * 16384 + rd p 0 2 + rd p 2 1 ≤ e) → tget v.chd.words e 0 = tget u.chd.words e 0)
      ∧ v = { u with chd := { u.chd with words := v.chd.words } })
  ∧ (∀ (s : State) (h : ReqHdr) (p : List Byte) (n : Nat), Spec.ready 0x0410 h p n s → rd p 0 1 ≤ 10 → s.chd.deferred = none →
    (s.chd.swap = none → s.chd.late = none → allDefined s (1 - s.chd.active) = true → setChangeRuns s = false →
      Spec.stages 0x0410 .accepted (.filtSwap h p) h p 0x2C0 n s fun u v =>
        (u.chd.swap = none → setChangeRuns u = false → allDefined u (1 - u.chd.active) = false →
          v = complete (Spec.owes 0x0410 h) .mismatch 0 u.tb.tick u)
        ∧ (u.chd.swap = none → setChangeRuns u = false → allDefined u (1 - u.chd.active) = true →
          v.chd = { u.chd with swap := some { k := rd p 0 1, tick := u.tb.tick, owed := Spec.owes 0x0410 h, since := u.tb.tick } }
          ∧ (∀ k ∈ swapSlots u, ∃ f, (chanOf v k).fade = some f ∧ f.k = rd p 0 1 ∧ f.inc.bank = 1 - u.chd.active
              ∧ f.np = n0 u.tb.tick (rateRefs (chanOf u k).rate) + halfSpan u.chd (1 - u.chd.active) (chanOf u k).set (chanOf u k).rate)
          ∧ (∀ k, k ∉ swapSlots u → chanOf v k = chanOf u k) ∧ v = { u with fe := { u.fe with chan := v.fe.chan }, chd := v.chd }))
    ∧ (s.chd.swap.isSome = true → ∃ t, exec (.filtSwap h p) s = .next t ∧ Spec.answered h.mbx.val 0x0410 h.seq .deferred (s.tb.tick % 2 ^ 32) 0 [] t
        ∧ t.mbx.staged = [] ∧ Spec.onlyAnswers h { s with chd := { s.chd with deferred := some { k := rd p 0 1, tick := n, owed := Spec.owes 0x0410 h, since := s.tb.tick } } } t))

/-- CAL_BEGIN, CAL_POINT, CAL_COMPUTE, CAL_COMMIT, CAL_END and CAL_ABORT: a session opens, takes points, computes and commits its
results, and returns its target. -/
def Obligations.CalibrationCommands : Prop :=
  (∀ (s : State) (h : ReqHdr) (p : List Byte) (n k b : Nat), Spec.ready 0x0310 h p n s → k = rd p 0 2 → b = bankOf k → (rd p 4 4 = 0 ∨ 16 ≤ rd p 4 4 ∧ rd p 4 4 ≤ 65536) →
    (k < 528 → bankInSession s b = false ∧ fnState s k ≠ .renewing ∧ fnState s (512 + b) ≠ .renewing ∧ (chanOf s (512 + b)).route = .parked
      ∧ (bankSt s b).legacyHeld = false) →
    (k < 528 ∨ 0x274 ≤ k ∧ k ≤ 0x277 ∧ sessOf s k = none ∧ fnState s k ≠ .renewing) →
    (512 ≤ k → k < 528 → (rd p 2 1 = 0xFF ∨ rd p 2 1 ≤ 11) ∧ (rd p 3 1 = 0xFF ∨ rd p 3 1 ≤ 7 ∧
      chainDefined s.chd s.chd.active (rd p 3 1) (if rd p 2 1 = 0xFF then (chanOf s k).rate else rd p 2 1) = true)) →
    Spec.stages 0x0310 .accepted (.calBegin h p) h p k n s fun u v =>
      (∃ x, sessOf v k = some x ∧ x.target = k ∧ x.nMatch = (if rd p 4 4 = 0 then 256 else rd p 4 4) ∧ x.mOfs = rd p 8 2 ∧ x.mRms = rd p 10 2
        ∧ x.qMax = rd p 12 2 ∧ x.points = []
        ∧ (k < 512 → (chanOf u k).enabled = true → x.phase = .overlapOut ∧ x.owed = some (Spec.owes 0x0310 h)
            ∧ (chanOf v (512 + b)).route = .channel ∧ (bankSt v b).spareK = k % 32 ∧ v.ntq = u.ntq)
        ∧ ((k < 512 → (chanOf u k).enabled = false) → x.phase = .out ∧ x.owed = none
            ∧ v.ntq = (complete (Spec.owes 0x0310 h) .ok 0 u.tb.tick u).ntq ∧ (k < 528 → (chanOf v k).route = .parked)))
      ∧ v = { u with fe := v.fe, cal := { u.cal with sess := v.cal.sess }, ntq := v.ntq, io := v.io })
  ∧ (∀ (s : State) (h : ReqHdr) (p : List Byte) (n k g : Nat) (x : Session), Spec.ready 0x0312 h p n s → k = rd p 0 2 → k < 528 → g = rd p 2 1 → sessOf s k = some x →
    g ≤ 7 → rd p 3 1 ≤ 1 → 16 ≤ rd p 4 4 → rd p 4 4 ≤ 1048576 → (rd p 3 1 = 0 → F64.isZero (rdF p 8) = true) →
    F64.le (F64.abs (rdF p 8)) (F64.mul 0x3FEE666666666666 (fullScale false g)) = true → (x.phase = .out ∨ x.phase = .mismatchHeld) →
    (rd p 3 1 = 1 → ∀ j ∈ bankSlots (bankOf k), j ≠ k → (chanOf s j).route ≠ .refbus) → (∀ q ∈ x.points, q.done = true) →
    (x.points.filter fun q => q.gain == g).length < 8 →
    Spec.stages 0x0312 .accepted (.calPoint h p) h p k n s fun u v =>
      (chanOf v k).gain = g ∧ (chanOf v k).route = (if rd p 3 1 = 1 then .refbus else .parked)
      ∧ (∀ y, sessOf u k = some y → ∃ z, sessOf v k = some z ∧
          { gain := g, source := rd p 3 1, m := rd p 4 4, v := rdF p 8, owed := some (Spec.owes 0x0312 h) } ∈ z.points
          ∧ z = { y with points := z.points })
      ∧ v = { u with fe := v.fe, cal := { u.cal with sess := v.cal.sess } })
  ∧ (∀ (s : State) (h : ReqHdr) (p : List Byte) (n k g : Nat) (x : Session) (es : List (BitVec 64)), Spec.ready 0x0312 h p n s → k = rd p 0 2 → 0x274 ≤ k → k ≤ 0x277 →
    g = rd p 2 1 → sessOf s k = some x → g / 4 ≤ 1 → g % 4 ≠ 3 → rd p 3 1 ≤ 15 → es = feeders s (k - 0x274) (rd p 3 1) → es ≠ [] →
    (∀ e ∈ es, 4 * auxMode e + auxGain e = g) → 16 ≤ rd p 4 4 → rd p 4 4 ≤ 1048576 →
    F64.le (F64.abs (rdF p 8)) (F64.mul 0x3FEE666666666666 (fullScale true g)) = true → x.phase = .out → (∀ q ∈ x.points, q.done = true) →
    (x.points.filter fun q => q.gain == g).length < 8 →
    Spec.stages 0x0312 .accepted (.calPoint h p) h p k n s fun u v =>
      (∀ y, sessOf u k = some y → ∃ z, sessOf v k = some z ∧
          { gain := g, source := 544 + 16 * (k - 0x274) + rd p 3 1, m := rd p 4 4, v := rdF p 8, owed := some (Spec.owes 0x0312 h) } ∈ z.points)
      ∧ v = { u with cal := { u.cal with sess := v.cal.sess } })
  ∧ (∀ (s : State) (h : ReqHdr) (p : List Byte) (n k : Nat) (x : Session) (rs : List CalResult), Spec.ready 0x0313 h p n s → k = rd p 0 2 → sessOf s k = some x →
    x.target = k → fitAll k x.qMax x.points = .ok rs → rs ≠ [] →
    ∃ t u, exec (.calCompute h p) s = .next t ∧ Spec.answered h.mbx.val 0x0313 h.seq .ok (s.tb.tick % 2 ^ 32) 0
        (le 1 rs.length ++ [0, 0, 0] ++ (rs.map fun y => le 2 y.entry ++ le 2 y.quality ++ [0, 0, 0, 0] ++ leF y.o ++ leF y.g).flatten) t
      ∧ sessOf u k = some { x with results := rs } ∧ u = { s with cal := { s.cal with sess := u.cal.sess } } ∧ t.mbx.staged = [] ∧ Spec.onlyAnswers h u t)
  ∧ (∀ (s : State) (h : ReqHdr) (p : List Byte) (n k : Nat) (x : Session), Spec.ready 0x0314 h p n s → k = rd p 0 2 → sessOf s k = some x → rd p 2 1 ≤ 1 →
    x.results ≠ [] → (rd p 2 1 = 0 → ∀ y ∈ x.results, y.isOver = false) →
    ∃ t u, exec (.calCommit h p) s = .next t ∧ Spec.answered h.mbx.val 0x0314 h.seq .accepted (s.tb.tick % 2 ^ 32) 0 [] t
      ∧ sessOf u k = some { x with results := [] } ∧ (∀ j, j ≠ k → sessOf u j = sessOf s j)
      ∧ u = { s with cal := { s.cal with sess := u.cal.sess, writes := s.cal.writes ++
          [{ page := pageOf k, results := x.results, at_ := s.tb.tick, tick := n, owed := Spec.owes 0x0314 h }] } }
      ∧ t.mbx.staged = [] ∧ Spec.onlyAnswers h u t)
  ∧ (∀ (s : State) (h : ReqHdr) (p : List Byte) (n k : Nat) (x : Session), Spec.ready 0x0315 h p n s → k = rd p 0 2 → sessOf s k = some x → rd p 2 1 ≤ 1 →
    (x.phase = .out ∨ x.phase = .mismatchHeld) →
    Spec.stages 0x0315 .accepted (.calEnd h p) h p k n s fun u v =>
      (∀ y m, k < 512 → sessOf u k = some y → (bankSt u (k / 32)).deliver = some (k % 32, m) → (chanOf v k).route = .pins
        ∧ ∃ z, sessOf v k = some z ∧ z.phase = (if rd p 2 1 = 1 then .switchBack else .overlapBack) ∧ z.owed = some (Spec.owes 0x0315 h))
      ∧ (∀ y, 512 ≤ k → k < 528 → sessOf u k = some y → (∀ q ∈ y.points, q.done = true) → sessOf v k = none ∧ (chanOf v k).route = .parked
        ∧ v.ntq = (complete (Spec.owes 0x0315 h) .ok 0 u.tb.tick u).ntq)
      ∧ v = { u with fe := v.fe, cal := { u.cal with sess := v.cal.sess }, ntq := v.ntq, io := v.io })
  ∧ (∀ (s : State) (h : ReqHdr) (p : List Byte) (n k : Nat) (x : Session), Spec.ready 0x0316 h p n s → k = rd p 0 2 → sessOf s k = some x →
    (x.phase = .out ∨ x.phase = .mismatchHeld ∨ x.phase = .overlapOut ∨ x.phase = .overlapBack) →
    Spec.stages 0x0316 .accepted (.calAbort h p) h p k n s fun u v =>
      (∀ y, k < 512 → sessOf u k = some y → y.phase = .overlapOut → sessOf v k = none ∧ (chanOf v (512 + k / 32)).route = .parked)
      ∧ (∀ y, sessOf u k = some y → y.phase = .overlapBack → ∃ z, sessOf v k = some z ∧ z.phase = .switchBack ∧ z.owed = some (Spec.owes 0x0316 h))
      ∧ (∀ y m, k < 512 → sessOf u k = some y → y.phase = .out → (bankSt u (k / 32)).deliver = some (k % 32, m) → (chanOf v k).route = .pins
        ∧ ∃ z, sessOf v k = some z ∧ z.phase = .switchBack ∧ z.results = [])
      ∧ v = { u with fe := v.fe, cal := { u.cal with sess := v.cal.sess }, ntq := v.ntq, io := v.io })

/-- STREAM_DEFINE, STREAM_ENABLE, STREAM_DISABLE, STREAM_RELEASE, LEDGER_CLEAR, MEM_PLAN, SCRUB_CONFIG, HIST_DEFINE and
REC_RELEASE: definitions, retention, histories and records as the payload names them. -/
def Obligations.StreamAndMemoryCommands : Prop :=
  (∀ (s : State) (h : ReqHdr) (p : List Byte) (n i : Nat) (c : StreamDef), Spec.ready 0x0501 h p n s → Spec.solePart p s → i = rd p 4 1 → c = streamDefOf [p] → i ≤ 63 →
    48 ≤ p.length → (p.length - 48) % 2 = 0 → (p.length - 48) / 2 ≤ 96 →
    c.kind ≤ 6 → (slotClass (c.slots.headD 0) ≠ 0 → c.kind = 0 ∨ c.kind = 6) → (c.kind = 6 → slotClass (c.slots.headD 0) = 2) →
    (if c.kind = 6 then c.rate = 0xFF else c.rate < 12 ∨ c.rate = 15) → c.skind ≤ 1 → (c.skind = 1 → slotClass (c.slots.headD 0) = 0) →
    1 ≤ rd p 8 2 → rd p 8 2 = c.chans → 1 ≤ c.dest → c.dest ≤ 3 → c.opts ≤ 7 → c.roGroup ≤ 7 →
    (if 1 ≤ c.kind ∧ c.kind ≤ 3 then c.target ≤ 11 ∧ rateRefs c.target % rateRefs c.rate = 0 ∧ 2 ≤ ratio c else c.target = 0) →
    (if c.kind ≤ 3 then 1 ≤ c.block ∧ c.block ≤ 65536 ∧ bodyBytes c c.block ≤ 4194304 else if c.kind = 6 then c.block = 0 else 1 ≤ c.block ∧ c.block ≤ 16777216) →
    64 ≤ c.retain → c.retain ≤ 65536 → 2 * cdiv (64 + bodyBytes c (maxOutputs c) + 8 * b2n c.compressed) 1024 ≤ c.retain → 2 ≤ c.rto → c.rto ≤ 1000 →
    (∀ k, k < 4 → parOk c.kind k (c.pars.getD k 0) = true) → (∀ k, k < c.chans → slotEntryOk s c k = true) →
    (strOf s i).enabled = false → (strOf s i).retained = false →
    (∀ x ∈ instsOf c, (keptInsts s i).any (sameInst x) = true ∨ (distinctOn (keptInsts s i) x.slot).length < 4) →
    (∃ b, fit s 2 c.retain = .ok b) → (newInstKiB s c = 0 ∨ ∃ b, fit s 0 (newInstKiB s c) = .ok b) →
    Spec.stages 0x0501 .ok (.streamDefine h p) h p 0xFFFF n s fun u v =>
      (strOf v i).defd = true ∧ (strOf v i).cfg = c ∧ (strOf v i).enabled = false ∧ (strOf v i).cnt = {} ∧ (strOf v i).blocks = []
      ∧ (∀ b, (strOf u i).retained = false → fit u 2 c.retain = .ok b → (strOf v i).retained = true ∧ (strOf v i).base = b * 1024
          ∧ (strOf v i).pool.cap = c.retain ∧ (strOf v i).pool.free = c.retain ∧ (strOf v i).pool.held = 0)
      ∧ (∀ j, j ≠ i → strOf v j = strOf u j) ∧ v = { u with str := { u.str with s := v.str.s, red := v.str.red } })
  ∧ (∀ (s : State) (h : ReqHdr) (p : List Byte) (n i : Nat) (c : StreamDef), Spec.ready 0x0502 h p n s → i = rd p 0 1 → i ≤ 63 → (strOf s i).defd = true →
    (strOf s i).enabled = false → c = (strOf s i).cfg → (∀ k ∈ c.slots, slotUnfit s c k = false) → ((strOf s i).retained = true ∨ ∃ b, fit s 2 c.retain = .ok b) →
    (c.compressed = true → rateFits s c = true) →
    Spec.stages 0x0502 .ok (.streamEnable h p) h p 0xFFFF n s fun u v =>
      (strOf v i).enabled = true ∧ (strOf v i).cfg = (strOf u i).cfg ∧ (strOf v i).stopAt = none ∧ (∀ j, j ≠ i → strOf v j = strOf u j)
      ∧ v.fe = u.fe ∧ v.tb = u.tb ∧ v.trg = u.trg ∧ v.wick = u.wick ∧ v.pwr = u.pwr ∧ v.fn = u.fn ∧ v.mbx = u.mbx)
  ∧ (∀ (s : State) (h : ReqHdr) (p : List Byte) (n i : Nat), Spec.ready 0x0503 h p n s → i = rd p 0 1 → i ≤ 63 → (strOf s i).defd = true → (strOf s i).enabled = true →
    Spec.stages 0x0503 .ok (.streamDisable h p) h p 0xFFFF n s fun u v =>
      (strOf v i).enabled = false ∧ (strOf v i).cfg = (strOf u i).cfg ∧ (strOf v i).stopAt.isSome = true
      ∧ v.fe = u.fe ∧ v.tb = u.tb ∧ v.trg = u.trg ∧ v.wick = u.wick ∧ v.pwr = u.pwr ∧ v.fn = u.fn ∧ v.mbx = u.mbx)
  ∧ (∀ (s : State) (h : ReqHdr) (p : List Byte) (n i : Nat), Spec.ready 0x0504 h p n s → i = rd p 0 1 → i ≤ 63 → (strOf s i).defd = true → (strOf s i).enabled = false →
    ((strOf s i).retained = true → Spec.stages 0x0504 .ok (.streamRelease h p) h p 0xFFFF n s fun u v =>
      ((strOf u i).retained = true → (strOf v i).retained = false ∧ (strOf v i).blocks = [] ∧ (strOf v i).asm = [])
      ∧ ((strOf u i).retained = false → v = u) ∧ (∀ j, j ≠ i → strOf v j = strOf u j)
      ∧ v = { u with str := { u.str with s := v.str.s }, mon := v.mon })
    ∧ ((strOf s i).retained = false → Spec.replies 0x0504 (.streamRelease h p) h 0 [] s))
  ∧ (∀ (s : State) (h : ReqHdr) (p : List Byte) (n i : Nat), Spec.ready 0x0531 h p n s → i = rd p 0 1 → (i ≤ 63 ∨ i = 0x80) →
    (bit h.flags.toNat 0 = false → ∃ t q, exec (.ledgerClear h p) s = .next t ∧ q = { opcode := 0x0531, hdr := h, pay := p }
      ∧ t.mbx.waitLedger = s.mbx.waitLedger ++ [(h.mbx.val, q)] ∧ (boxOf t h.mbx.val).busy = true ∧ (boxOf t h.mbx.val).taken = some q
      ∧ t = { s with mbx := t.mbx }
      ∧ (∀ u, streamPasses u i = true → poolPasses u i = true → i ≤ 63 → (strOf (decideWaiting u (h.mbx.val, q)) i).brk = false
          ∧ Spec.answered h.mbx.val 0x0531 h.seq .ok (u.tb.tick % 2 ^ 32) 0 [] (decideWaiting u (h.mbx.val, q)))
      ∧ (∀ u, streamPasses u i = false → i ≤ 63 → (strOf (decideWaiting u (h.mbx.val, q)) i).brk = (strOf u i).brk
          ∧ Spec.answered h.mbx.val 0x0531 h.seq .ledger (u.tb.tick % 2 ^ 32) (u.tb.tick % 2 ^ 32) [] (decideWaiting u (h.mbx.val, q))))
    ∧ (bit h.flags.toNat 0 = true → Spec.stages 0x0531 .accepted (.ledgerClear h p) h p 0xFFFF n s fun u v => v = u))
  ∧ (∀ (s : State) (h : ReqHdr) (p : List Byte) (n : Nat), Spec.ready 0x0540 h p n s → (∀ i, i < 5 → rd p (4 * i) 4 % 64 = 0) →
    rd p 0 4 + rd p 4 4 + rd p 8 4 + rd p 12 4 + rd p 16 4 ≤ 65408 →
    (∀ i, i < 5 → allocs s i = [] ∨ regionBase (planOf p) i = regionBase s.rm.plan i ∧ regionSize (planOf p) i = regionSize s.rm.plan i) →
    Spec.stages 0x0540 .ok (.memPlan h p) h p 0xFFFF n s fun u v =>
      v = { u with rm := { u.rm with plan := [rd p 0 4, rd p 4 4, rd p 8 4, rd p 12 4, rd p 16 4] } })
  ∧ (∀ (s : State) (h : ReqHdr) (p : List Byte) (n : Nat), Spec.ready 0x0542 h p n s → rd p 0 2 ≤ 3600 → rd p 4 1 ≤ 1 →
    Spec.stages 0x0542 .ok (.scrubConfig h p) h p 0x328 n s fun u v =>
      v = { u with rm := { u.rm with period := if rd p 0 2 = 0 then 60 else rd p 0 2, ceLimit := rd p 2 2, ueMigrate := decide (rd p 4 1 = 1) } })
  ∧ (∀ (s : State) (h : ReqHdr) (p : List Byte) (n k d : Nat), Spec.ready 0x0610 h p n s → k = rd p 0 2 → d = rd p 2 1 → k ≤ 607 → d ≤ 1 → (d = 1 → k ≤ 527) →
    armedHist s k d = false →
    (rd p 4 4 = 0 → Spec.stages 0x0610 .ok (.histDefine h p) h p k n s fun u v =>
      (∀ e, e ∈ v.rm.hist ↔ e ∈ u.rm.hist ∧ ¬ (e.slot = k ∧ e.kind = d)) ∧ v = { u with rm := { u.rm with hist := v.rm.hist } })
    ∧ (256 ≤ rd p 4 4 → rd p 4 4 ≤ 16777216 → rd p 4 4 % 256 = 0 → (histOf s k d = none → s.rm.hist.length < 1024) →
      (∃ b, fit s 1 (cdiv (4 * rd p 4 4) 1024) = .ok b) → Spec.stages 0x0610 .ok (.histDefine h p) h p k n s fun u v =>
      (∀ b, fit u 1 (cdiv (4 * rd p 4 4) 1024) = .ok b → (∀ e, e ∈ v.rm.hist ↔ e ∈ u.rm.hist ∧ ¬ (e.slot = k ∧ e.kind = d)
          ∨ e = { slot := k, kind := d, depth := rd p 4 4, base := b * 1024, size := round64 (cdiv (4 * rd p 4 4) 1024) * 1024 }))
      ∧ v = { u with rm := { u.rm with hist := v.rm.hist } }))
  ∧ (∀ (s : State) (h : ReqHdr) (p : List Byte) (n g : Nat), Spec.ready 0x0608 h p n s → g = rd p 0 1 → g ≤ 7 → (∀ j ∈ s.cop, j.group = g → inRelease p j.record = false) →
    Spec.stages 0x0608 .ok (.recRelease h p) h p 0xFFFF n s fun u v =>
      (∀ r, r ∈ (grpOf v g).recs ↔ r ∈ (grpOf u g).recs ∧ ¬ (r.complete = true ∧ (r.no - BitVec.ofNat 32 (rd p 4 4)).toNat < rd p 2 2))
      ∧ grpOf v g = { grpOf u g with recs := (grpOf v g).recs } ∧ (∀ j, j ≠ g → grpOf v j = grpOf u j)
      ∧ v = { u with trg := { u.trg with grp := v.trg.grp } })

/-- TRIG_SEQ_LOAD, TRIG_GROUP_DEFINE, TRIG_ARM, TRIG_DISARM and TRIG_FORCE: conditions, definitions, arming and forced fires; an
ARM or DISARM that propagates sends its message at once. -/
def Obligations.TriggerCommands : Prop :=
  (∀ (s : State) (h : ReqHdr) (p : List Byte) (n i : Nat), Spec.ready 0x0601 h p n s → Spec.solePart p s → i = rd p 4 1 → i ≤ 7 → 1 ≤ rd p 6 1 → rd p 6 1 ≤ 7 →
    p.length = 8 + 32 * rd p 6 1 → rd p 5 1 + rd p 6 1 ≤ 16 → (∀ j, j < 2 * rd p 6 1 → condOk (BitVec.ofNat 128 (rd p (8 + 16 * j) 16)) = true) →
    memberArmed s i = false →
    Spec.stages 0x0601 .ok (.trigSeqLoad h p) h p (0x2C8 + i) n s fun u v =>
      (∀ j, j < 2 * rd p 6 1 → tget (seqrOf v i).table (2 * rd p 5 1 + j) 0 = BitVec.ofNat 128 (rd p (8 + 16 * j) 16))
      ∧ (∀ e, (e < 2 * rd p 5 1 ∨ 2 * rd p 5 1 + 2 * rd p 6 1 ≤ e) → tget (seqrOf v i).table e 0 = tget (seqrOf u i).table e 0)
      ∧ seqrOf v i = { seqrOf u i with table := (seqrOf v i).table } ∧ (∀ j, j ≠ i → seqrOf v j = seqrOf u j)
      ∧ v = { u with trg := { u.trg with seqr := v.trg.seqr } })
  ∧ (∀ (s : State) (h : ReqHdr) (p : List Byte) (n g b : Nat) (c : GroupDef), Spec.ready 0x0602 h p n s → Spec.solePart p s → g = rd p 4 1 → c = groupDefOf [p] → g ≤ 7 →
    52 ≤ p.length → (p.length - 52) % 8 = 0 → (p.length - 52) / 8 ≤ 23 → (c.rate < 12 ∨ c.rate = 15) →
    (∀ i, i < 8 → bit c.seqMask i = true → (∀ e ∈ s.trg.grp, e.1 ≠ g → e.2.defd = true → bit e.2.cfg.seqMask i = false)
      ∧ ∀ k ∈ condSlotsOf s i, recRate s k = some c.rate) →
    c.queues ≤ 15 → c.nflags ≤ 7 → 1 ≤ rd p 12 1 → rd p 12 1 = c.slots.length → c.keyId ≤ 7 →
    (∀ x ∈ c.slots, ∀ q, recRate s x.slot = some q → c.tPre ≤ histDepth s x.slot x.dkind (rateRefs q)) → 1 ≤ c.tPost →
    (c.mcAddr ≠ 0 → onLink s c.mcAddr = true) → recReserve c.slots.length (largestWords s c) ≤ c.area * 1024 →
    (∀ e ∈ grpEntries [p], rd e.2.2 0 2 ≤ 607 ∧ (isAux (rd e.2.2 0 2) = true → (auxRate s (rd e.2.2 0 2)).isSome = true) ∧ rd e.2.2 2 1 ≤ 1
      ∧ (rd e.2.2 2 1 = 1 → rd e.2.2 0 2 ≤ 527) ∧ rd e.2.2 3 1 = 0 ∧ rd e.2.2 4 4 ≤ 8388607) →
    armedNow (grpOf s g) = false → (grpOf s g).armed = false → fitArea s g c.area = .ok b →
    Spec.stages 0x0602 .ok (.trigGroupDefine h p) h p 0xFFFF n s fun u v =>
      (∀ a, fitArea u g c.area = .ok a → grpOf v g = { defd := true, cfg := c, base := a * 1024, size := round64 c.area * 1024, recWins := (grpOf u g).recWins })
      ∧ (∀ j, j ≠ g → grpOf v j = grpOf u j) ∧ v = { u with trg := { u.trg with grp := v.trg.grp } })
  ∧ (∀ (s : State) (h : ReqHdr) (p : List Byte) (n g : Nat), Spec.ready 0x0603 h p n s → g = rd p 0 1 → g ≤ 7 → rd p 1 1 ≤ 1 → (grpOf s g).defd = true →
    (armedNow (grpOf s g) = false → armOk s g = true → rd p 1 1 = 0 → Spec.stages 0x0603 .ok (.trigArm h p) h p 0xFFFF n s fun u v =>
      (armedNow (grpOf u g) = false → armOk u g = true → (grpOf u g).armed = false → (grpOf v g).armed = true ∧ (grpOf v g).armTick = u.tb.tick
        ∧ (grpOf v g).next = n0 u.tb.tick (rateRefs (grpOf u g).cfg.rate) ∧ (grpOf v g).fires = [] ∧ (grpOf v g).lastE = none
        ∧ (grpOf v g).cfg = (grpOf u g).cfg ∧ (∀ i, i < 8 → bit (grpOf u g).cfg.seqMask i = true → (seqrOf v i).state = 0)
        ∧ (∀ j, j ≠ g → grpOf v j = grpOf u j) ∧ v = { u with trg := { u.trg with grp := v.trg.grp, seqr := v.trg.seqr } }))
    ∧ (armedNow (grpOf s g) = false → armOk s g = true → rd p 1 1 = 1 → ∃ t, exec (.trigArm h p) s = .next t
      ∧ Spec.answered h.mbx.val 0x0603 h.seq .ok (n % 2 ^ 32) 0 [] t ∧ t.mbx.staged.length = 1
      ∧ Spec.onlyAnswers h { s with sent := s.sent ++ if onLink s (grpOf s g).cfg.mcAddr then [.udp (grpOf s g).cfg.mcAddr (grpOf s g).cfg.mcPort 7
          (trigMessage s 0x11 (grpOf s g).cfg ([0, 0, 0, 0] ++ le 8 n))] else [] } t)
    ∧ (armedNow (grpOf s g) = true → rd p 1 1 = 0 → Spec.replies 0x0603 (.trigArm h p) h 0 [] s)
    ∧ (armedNow (grpOf s g) = true → rd p 1 1 = 1 → ∃ t, exec (.trigArm h p) s = .next t
      ∧ Spec.answered h.mbx.val 0x0603 h.seq .ok (s.tb.tick % 2 ^ 32) 0 [] t ∧ t.mbx.staged = []
      ∧ Spec.onlyAnswers h { s with sent := s.sent ++ if onLink s (grpOf s g).cfg.mcAddr then [.udp (grpOf s g).cfg.mcAddr (grpOf s g).cfg.mcPort 7
          (trigMessage s 0x11 (grpOf s g).cfg ([0, 0, 0, 0] ++ le 8 n))] else [] } t))
  ∧ (∀ (s : State) (h : ReqHdr) (p : List Byte) (n g : Nat), Spec.ready 0x0604 h p n s → g = rd p 0 1 → g ≤ 7 → rd p 1 1 ≤ 1 → (grpOf s g).defd = true →
    (armedNow (grpOf s g) = true → rd p 1 1 = 0 → Spec.stages 0x0604 .ok (.trigDisarm h p) h p 0xFFFF n s fun u v =>
      ((grpOf u g).rearm = none → (grpOf u g).armed = true → n0 u.tb.tick (rateRefs (grpOf u g).cfg.rate) ≤ (grpOf u g).next →
          (grpOf v g).armed = false ∧ (grpOf v g).fires = [])
      ∧ ((grpOf u g).rearm = none → (grpOf u g).armed = true → (grpOf u g).stopAt = none → (grpOf u g).next < n0 u.tb.tick (rateRefs (grpOf u g).cfg.rate) →
          grpOf v g = { grpOf u g with stopAt := some (n0 u.tb.tick (rateRefs (grpOf u g).cfg.rate)), rearm := none })
      ∧ ((grpOf u g).rearm.isSome = true → grpOf v g = { grpOf u g with rearm := none }) ∧ (∀ j, j ≠ g → grpOf v j = grpOf u j)
      ∧ v = { u with trg := { u.trg with grp := v.trg.grp }, ntq := v.ntq, io := v.io })
    ∧ (armedNow (grpOf s g) = false → rd p 1 1 = 0 → Spec.replies 0x0604 (.trigDisarm h p) h 0 [] s)
    ∧ (rd p 1 1 = 1 → ∃ t, exec (.trigDisarm h p) s = .next t
      ∧ Spec.answered h.mbx.val 0x0604 h.seq .ok ((if armedNow (grpOf s g) then n else s.tb.tick) % 2 ^ 32) 0 [] t
      ∧ t.mbx.staged.length = (if armedNow (grpOf s g) then 1 else 0)
      ∧ Spec.onlyAnswers h { s with sent := s.sent ++ if onLink s (grpOf s g).cfg.mcAddr then [.udp (grpOf s g).cfg.mcAddr (grpOf s g).cfg.mcPort 7
          (trigMessage s 0x12 (grpOf s g).cfg ([0, 0, 0, 0] ++ le 8 n))] else [] } t))
  ∧ (∀ (s : State) (h : ReqHdr) (p : List Byte) (n g q : Nat), Spec.ready 0x0605 h p n s → g = rd p 0 1 → g ≤ 7 → rd p 1 1 ≤ 3 → (grpOf s g).defd = true →
    (bit (rd p 1 1) 0 = true → rd p 4 4 ≤ 999999999) → q = (if bit (rd p 1 1) 0 then fuOf (rd p 8 8) (rd p 4 4) (rd p 2 2) else n * 1048576 * 320000) →
    q ≤ n * 1048576 * 320000 →
    Spec.stages 0x0605 .accepted (.trigForce h p) h p 0xFFFF n s fun u v =>
      ((grpOf u g).armed = true → ∀ x : Fire,
          x = { trig := q, cause := 2 ^ 19, forced := true, named := bit (rd p 1 1) 0, send := bit (rd p 1 1) 1, owed := some (Spec.owes 0x0605 h) } →
          grpOf v g = { grpOf u g with fires := (grpOf u g).fires ++ [if bit (rd p 1 1) 0 then handled u (grpOf u g).cfg x else x] }
          ∧ (∀ j, j ≠ g → grpOf v j = grpOf u j) ∧ v = { u with trg := { u.trg with grp := v.trg.grp } })
      ∧ ((grpOf u g).armed = false → v = complete (Spec.owes 0x0605 h) .functionState 0 u.tb.tick u))

/-- PTP_CONFIG, TIME_SET, SYNCE_CONFIG, TS_CORRECTION, BEACON_SET, BEACON_STOP, EVENT_CONFIG, MON_CONFIG, NET_PORT_CONFIG, NET_ADDR,
RING_CONFIG and COLLECTOR_SET: the setting is the payload's, and nothing else changes. -/
def Obligations.TimeAndNetworkCommands : Prop :=
  (∀ (s : State) (h : ReqHdr) (p : List Byte) (n : Nat) (c : PtpCfg), Spec.ready 0x0702 h p n s → c = ptpOf p → c.domain ≤ 127 → c.profile ≤ 1 → c.transport ≤ 3 →
    2 ≤ c.annTimeout → c.annTimeout ≤ 10 → -7 ≤ c.syncLog → c.syncLog ≤ 0 → -3 ≤ c.annLog → c.annLog ≤ 3 → -7 ≤ c.dreqLog → c.dreqLog ≤ 0 → c.slewPpm ≤ 100 →
    (c.bwMhz = 0 ∨ 10 ≤ c.bwMhz ∧ c.bwMhz ≤ 1000) → (∀ i, i < 4 → -65536000 ≤ c.asym.getD i 0 ∧ c.asym.getD i 0 ≤ 65536000) →
    Spec.stages 0x0702 .ok (.ptpConfig h p) h p 0x3F0 n s fun u v =>
      (u.tb.slewTerm = 0 → v.tb.slewTerm = 0) ∧ (0 < u.tb.slewTerm → v.tb.slewTerm = (c.slewPpm * 2 ^ 40 / 1000000 : Nat))
      ∧ (u.tb.slewTerm < 0 → v.tb.slewTerm = -((c.slewPpm * 2 ^ 40 / 1000000 : Nat) : Int))
      ∧ v = { u with tb := { u.tb with cfg := c, slewTerm := v.tb.slewTerm } })
  ∧ (∀ (s : State) (h : ReqHdr) (p : List Byte) (n : Nat), Spec.ready 0x0703 h p n s → rd p 0 4 < 1000000000 → rd p 8 8 < 2 ^ 48 → s.pwr.plane = false →
    Spec.stages 0x0703 .ok (.timeSet h p) h p 0x3F0 n s fun u v =>
      v.now = (rd p 8 8 * 1000000000 + rd p 0 4) * 128 / 625 ∧ v.tb.tick = (rd p 8 8 * 1000000000 + rd p 0 4) * 128 / 625 / 1048576
      ∧ v.tb.state = .holdover ∧ v.tb.qAnn = 0 ∧ v.tb.slewTerm = 0 ∧ holdAt v.tb.holdLog v.now = true
      ∧ v.tb.cfg = u.tb.cfg ∧ v.tb.masters.length = u.tb.masters.length ∧ (∀ k, (chanOf v k).rate = (chanOf u k).rate ∧ (chanOf v k).wire = (chanOf u k).wire)
      ∧ v = { u with now := v.now, tb := v.tb, fe := v.fe, wick := v.wick })
  ∧ (∀ (s : State) (h : ReqHdr) (p : List Byte) (n : Nat), Spec.ready 0x0704 h p n s → rd p 0 1 ≤ 2 → rd p 1 1 ≤ 3 →
    Spec.stages 0x0704 .ok (.synceConfig h p) h p 0x3F0 n s fun u v =>
      v = { u with tb := { u.tb with synceMode := rd p 0 1, syncePort := rd p 1 1, syncePrio := [rd p 2 1, rd p 3 1, rd p 4 1, rd p 5 1],
                                     synceSel := if rd p 0 1 = 0 then none else u.tb.synceSel, syncePull := if rd p 0 1 = 0 then none else u.tb.syncePull } })
  ∧ (∀ (s : State) (h : ReqHdr) (p : List Byte) (n : Nat), Spec.ready 0x0705 h p n s → rd p 0 1 ≤ 3 → rd p 1 1 ≤ 1 →
    Spec.stages 0x0705 .ok (.tsCorrection h p) h p (0x2E8 + rd p 0 1) n s fun u v =>
      tget v.tb.tsReport (rd p 0 1) false = decide (rd p 1 1 = 0) ∧ (∀ j, j ≠ rd p 0 1 → tget v.tb.tsReport j false = tget u.tb.tsReport j false)
      ∧ v = { u with tb := { u.tb with tsReport := v.tb.tsReport } })
  ∧ (∀ (s : State) (h : ReqHdr) (p : List Byte) (n k : Nat) (c : BeaconSet), Spec.ready 0x0710 h p n s → k = rd p 0 1 → c = beaconOfBytes p → k ≤ 15 → rd p 1 1 ≤ 1 → rd p 2 1 ≤ 1 →
    rd p 4 4 < 1000000000 → rd p 12 8 < 2 ^ 48 → (rd p 1 1 = 0 → (n + 1) * 1048576 * 16 < c.start ∧ c.width ≤ 2 ^ 36) →
    (rd p 1 1 = 1 → 2048 ≤ c.period ∧ c.period ≤ 2 ^ 44 ∧ c.width + 16 ≤ c.period) → 1 ≤ c.width → s.tb.state ≠ .unset →
    Spec.stages 0x0710 .ok (.beaconSet h p) h p (0x3A0 + k) n s fun u v =>
      ((beaconOf u k).inPulse = true → beaconOf v k = { beaconOf u k with next := some c, stopping := false })
      ∧ ((beaconOf u k).inPulse = false → (beaconOf v k).cfg = some c ∧ (beaconOf v k).level = c.activeLow ∧ (beaconOf v k).next = none
          ∧ (u.tb.tick * 1048576 * 16 < c.start → (beaconOf v k).edge = some c.start))
      ∧ (∀ j, j ≠ k → beaconOf v j = beaconOf u j) ∧ v = { u with tb := { u.tb with beacon := v.tb.beacon } })
  ∧ (∀ (s : State) (h : ReqHdr) (p : List Byte) (n k : Nat), Spec.ready 0x0711 h p n s → k = rd p 0 1 → k ≤ 15 →
    Spec.stages 0x0711 .ok (.beaconStop h p) h p (0x3A0 + k) n s fun u v =>
      ((beaconOf u k).inPulse = true → beaconOf v k = { beaconOf u k with next := none, stopping := true })
      ∧ ((beaconOf u k).inPulse = false → (beaconOf v k).cfg = none ∧ (beaconOf v k).edge = none ∧ (beaconOf v k).pulses = (beaconOf u k).pulses)
      ∧ (∀ j, j ≠ k → beaconOf v j = beaconOf u j) ∧ v = { u with tb := { u.tb with beacon := v.tb.beacon } })
  ∧ (∀ (s : State) (h : ReqHdr) (p : List Byte) (n : Nat), Spec.ready 0x0718 h p n s → rd p 0 1 ≤ 15 → rd p 1 1 ≤ 3 →
    Spec.stages 0x0718 .ok (.eventConfig h p) h p (0x390 + rd p 0 1) n s fun u v =>
      tget v.tb.evtEdges (rd p 0 1) 0 = rd p 1 1 ∧ (∀ j, j ≠ rd p 0 1 → tget v.tb.evtEdges j 0 = tget u.tb.evtEdges j 0)
      ∧ v = { u with tb := { u.tb with evtEdges := v.tb.evtEdges } })
  ∧ (∀ (s : State) (h : ReqHdr) (p : List Byte) (n m : Nat), Spec.ready 0x0C01 h p n s → m = rd p 0 1 → m ≤ 31 → monSourceOk (rd p 2 2) = true → 1 ≤ rd p 8 4 →
    rd p 8 4 ≤ 2 ^ 31 →
    Spec.stages 0x0C01 .ok (.monConfig h p) h p (0x330 + m) n s fun u v =>
      monOf v m = { monOf u m with owner := ownerOfMbx h.mbx.val, running := true, auto := true, source := rd p 2 2, binLo := rdS p 4 4, binW := rd p 8 4,
                                   live := {}, snap := {}, snapSeq := (monOf u m).snapSeq + 2 }
      ∧ (∀ j, j ≠ m → monOf v j = monOf u j) ∧ v = { u with mon := v.mon })
  ∧ (∀ (s : State) (h : ReqHdr) (p : List Byte) (n k : Nat), Spec.ready 0x0D01 h p n s → k = rd p 0 1 → k ≤ 3 → rd p 1 1 ≤ 2 →
    Spec.stages 0x0D01 .ok (.netPortConfig h p) h p (0x2E8 + k) n s fun u v =>
      netOf v k = { netOf u k with mode := rd p 1 1, link := (netOf u k).link && decide ((netOf u k).mode = rd p 1 1) }
      ∧ (∀ j, j ≠ k → netOf v j = netOf u j) ∧ v = { u with net := { u.net with port := v.net.port } })
  ∧ (∀ (s : State) (h : ReqHdr) (p : List Byte) (n : Nat) (c : NetCfg), Spec.ready 0x0D02 h p n s → c = netCfgOf p → groupBit c.mac = false → c.vlan ≤ 4094 →
    c.prefix4 ≤ 32 → c.prefix6 ≤ 128 → bits c.ipv6.toNat 127 120 ≠ 0xFF →
    Spec.stages 0x0D02 .ok (.netAddr h p) h p 0xFFFF n s fun u v =>
      v = { u with net := { u.net with own := c, v6Usable := u.net.v6Usable && decide (c.ipv6 = u.net.own.ipv6) } })
  ∧ (∀ (s : State) (h : ReqHdr) (p : List Byte) (n : Nat), Spec.ready 0x0D03 h p n s → rd p 0 1 ≤ 1 → rd p 1 1 ≤ 1 → rd p 2 2 ≤ 4094 →
    Spec.stages 0x0D03 .ok (.ringConfig h p) h p 0xFFFF n s fun u v =>
      v.net.ring.configured = true ∧ v.net.ring.role = rd p 0 1 ∧ v.net.ring.blockedPort = rd p 1 1 ∧ v.net.ring.vlan = rd p 2 2
      ∧ v.net.ring.broken = false ∧ v.net.ring.out = 0
      ∧ (∀ k, k < 2 → (netOf v k).blocked = decide (rd p 0 1 = 1 ∧ k = rd p 1 1 ∨ rd p 0 1 = 0 ∧ (netOf u k).los = true))
      ∧ netOf v 2 = netOf u 2 ∧ netOf v 3 = netOf u 3 ∧ v = { u with net := { u.net with port := v.net.port, ring := v.net.ring } })
  ∧ (∀ (s : State) (h : ReqHdr) (p : List Byte) (n r : Nat), Spec.ready 0x0D04 h p n s → r = rd p 0 1 → r ≤ 1 → rd p 1 1 ≤ 7 →
    (BitVec.ofNat 128 (rdB p 4 16) ≠ 0 → onLink s (BitVec.ofNat 128 (rdB p 4 16)) = true) →
    Spec.stages 0x0D04 .ok (.collectorSet h p) h p 0xFFFF n s fun u v =>
      collOf v r = { collOf u r with cfg := { keyId := rd p 1 1, udpPort := rd p 2 2, addr := BitVec.ofNat 128 (rdB p 4 16) } }
      ∧ (∀ j, j ≠ r → collOf v j = collOf u j) ∧ v = { u with net := { u.net with coll := v.net.coll } })

/-- LOOP_DEFINE, LOOP_MODE, LOOP_PARAM, LOOP_INJECT, WICK_CONFIG, PAIR_DEFINE, COOPER_JOB, COOPER_FLUSH and COOPER_CANCEL: the
change waits for its tick, or stands in its loop for the first evaluation after it, or is made at once (R279, R290, R292, R300,
R381). -/
def Obligations.LoopAndCooperCommands : Prop :=
  (∀ (s : State) (h : ReqHdr) (p : List Byte) (n k : Nat), Spec.ready 0x0801 h p n s → k = rd p 0 1 → k ≤ 31 → rd p 1 1 ≤ 1 →
    544 ≤ rd p 2 2 → rd p 2 2 ≤ 607 → (544 ≤ rd p 4 2 ∧ rd p 4 2 ≤ 607 ∨ rd p 4 2 = 0xFFFF) → (rd p 6 2 < 512 ∨ rd p 6 2 = 0xFFFF) →
    4096 ≤ rd p 8 4 → rd p 8 4 ≤ 2048000 → rd p 8 4 % 64 = 0 → rd p 12 4 < rd p 8 4 → (loopOf s k).run.mode = .off → (loopOf s k).stgMode = none →
    Spec.stages 0x0801 .ok (.loopDefine h p) h p 0xFFFF n s fun u v =>
      loopOf v k = { loopOf u k with defd := true, from_ := u.tb.tick * 1048576, reg := { (loopOf u k).reg with snapSeq := (loopOf u k).reg.snapSeq + 2 },
                                     cfg := { fb := rd p 2 2, vbus := rd p 4 2, acc := rd p 6 2, accKind := rd p 1 1, period := rd p 8 4, phase := rd p 12 4 } }
      ∧ (∀ j, j ≠ k → loopOf v j = loopOf u j) ∧ v = { u with wick := { u.wick with loop := v.wick.loop } })
  ∧ (∀ (s : State) (h : ReqHdr) (p : List Byte) (n k : Nat), Spec.ready 0x0802 h p n s → k = rd p 0 1 → k ≤ 31 → rd p 1 1 ≤ 3 → rd p 2 1 ≤ 1 →
    (loopOf s k).defd = true → (loopOf s k).stgMode = none →
    (rd p 1 1 = 3 → (loopOf s k).run.mode = .closed ∧ injBusy s = false ∧ ∃ j, (loopOf s k).inj = some j ∧ capClash s j.base j.count = false) →
    ∃ t, exec (.loopMode h p) s = .next t ∧ Spec.answered h.mbx.val 0x0802 h.seq .ok (n % 2 ^ 32) 0 [] t ∧ t.mbx.staged = []
      ∧ loopOf t k = { loopOf s k with stgMode := some (n, modeOfCode (rd p 1 1), bit (rd p 2 1) 0), modeOwed := some (Spec.owes 0x0802 h) }
      ∧ (∀ j, j ≠ k → loopOf t j = loopOf s j) ∧ t.wick = { s.wick with loop := t.wick.loop } ∧ Spec.onlyAnswers h { s with wick := t.wick } t)
  ∧ (∀ (s : State) (h : ReqHdr) (p : List Byte) (n k : Nat) (q : LoopParam), Spec.ready 0x0803 h p n s → k = rd p 0 1 → k ≤ 31 →
    q = { safeState := rd p 1 1, staleMax := rd p 2 1, rSet := rdS p 4 4, ki := rd p 8 4, iMin := rdS p 12 4, iMax := rdS p 16 4, kv := rdS p 20 4,
          vNom := rdS p 24 4, ka := rdS p 28 4, h := rd p 32 4, tOnMin := rd p 36 4, tOffMin := rd p 40 4, lFe := rd p 44 4, tFe := rd p 48 4,
          nFrz := rd p 52 2, ffHold := rd p 54 2 } →
    q.safeState ≤ 2 → q.iMin ≤ 0 → 0 ≤ q.iMax → -8388608 ≤ q.vNom → q.vNom ≤ 8388607 → 1 ≤ q.h → q.h ≤ 1073741824 → q.tOnMin ≤ 16777215 →
    q.tOffMin ≤ 16777215 → (q.nFrz = 0 ∨ 8 ≤ q.nFrz) → (loopOf s k).stgPar = none →
    ∃ t, exec (.loopParam h p) s = .next t ∧ Spec.answered h.mbx.val 0x0803 h.seq .ok (n % 2 ^ 32) 0 [] t ∧ t.mbx.staged = []
      ∧ loopOf t k = { loopOf s k with stgPar := some (n, q) }
      ∧ (∀ j, j ≠ k → loopOf t j = loopOf s j) ∧ t.wick = { s.wick with loop := t.wick.loop } ∧ Spec.onlyAnswers h { s with wick := t.wick } t)
  ∧ (∀ (s : State) (h : ReqHdr) (p : List Byte) (n k : Nat) (j : Inject), Spec.ready 0x0804 h p n s → k = rd p 0 1 → j = injectOf p → k ≤ 31 → j.signal ≤ 2 →
    (j.signal = 1 → j.order ∈ [9, 11, 15, 20, 23] ∧ 1 ≤ j.bitLen ∧ j.bitLen ≤ 256) → rd p 3 1 ≤ 16 → 1 ≤ j.ampl → j.ampl ≤ 1073741824 → 64 ≤ j.count →
    j.count ≤ 16384 → j.base % 64 = 0 → cooperLo s ≤ j.base → j.base + (448 + 16 * j.count) ≤ cooperHi s → (loopOf s k).defd = true →
    (j.signal ≠ 1 → freqOk j.f0 (loopOf s k).cfg.period = true) → (j.signal = 2 → freqOk j.f1 (loopOf s k).cfg.period = true) →
    (j.signal ≠ 0 → ∀ f ∈ j.freqs, F64.isFinite f = true) → (loopOf s k).run.mode = .closed → (loopOf s k).stgMode = none → injBusy s = false →
    capClash s j.base j.count = false →
    ∃ t, exec (.loopInject h p) s = .next t ∧ Spec.answered h.mbx.val 0x0804 h.seq .accepted (s.tb.tick % 2 ^ 32) 0 [] t ∧ t.mbx.staged = []
      ∧ loopOf t k = { loopOf s k with inj := some j, stgInj := some (n, some (Spec.owes 0x0804 h)) }
      ∧ (∀ i, i ≠ k → loopOf t i = loopOf s i) ∧ t.wick = { s.wick with loop := t.wick.loop } ∧ Spec.onlyAnswers h { s with wick := t.wick } t)
  ∧ (∀ (s : State) (h : ReqHdr) (p : List Byte) (n iv : Nat), Spec.ready 0x0810 h p n s → iv = ckInterval p → rd p 0 1 ≤ 1 → 51200 ≤ iv → iv ≤ 1024000 →
    Spec.stages 0x0810 .ok (.wickConfig h p) h p 0xFFFF n s fun u v =>
      v.wick.home = rd p 0 1 ∧ v.wick.interval = iv ∧ (rd p 2 2 ≠ 0 → v.wick.station = rd p 2 2)
      ∧ v.wick.ckJ * iv < u.tb.tick * 1048576 + iv ∧ u.tb.tick * 1048576 ≤ v.wick.ckJ * iv
      ∧ v = { u with wick := { u.wick with home := v.wick.home, interval := v.wick.interval, station := v.wick.station, ckJ := v.wick.ckJ } })
  ∧ (∀ (s : State) (h : ReqHdr) (p : List Byte) (n : Nat), Spec.ready 0x0812 h p n s → rd p 2 1 ≤ 7 → rd p 3 1 ≤ 32 → p.length = 4 + 2 * rd p 3 1 →
    (∀ i, i < rd p 3 1 → rd p (4 + 2 * i) 1 ≤ 31 ∧ rd p (5 + 2 * i) 1 ≤ 31) →
    Spec.stages 0x0812 .ok (.pairDefine h p) h p 0xFFFF n s fun u v =>
      v.wick.pairs = (List.range (rd p 3 1)).map (fun i => (rd p (4 + 2 * i) 1, rd p (5 + 2 * i) 1))
      ∧ v = { u with wick := { u.wick with partner := BitVec.ofNat 16 (rd p 0 2), pairKey := rd p 2 1, paired := true, pairs := v.wick.pairs,
                                           hbLast := u.tb.tick * 1048576, hbMask := 0xFFFFFFFF, pairLost := false } })
  ∧ (∀ (s : State) (h : ReqHdr) (p : List Byte) (n lo hi : Nat) (x : Record), Spec.ready 0x0901 h p n s → rd p 2 1 ≤ 7 → rd p 3 1 / 2 % 8 = 0 →
    recOf s (rd p 2 1) (BitVec.ofNat 32 (rd p 4 4)) = some x → lo = regionBase s.rm.plan 4 * 1024 → hi = lo + regionSize s.rm.plan 4 * 1024 →
    rd p 8 4 % 64 = 0 → lo ≤ rd p 8 4 → rd p 8 4 < hi → rd p 12 4 % 64 = 0 → rd p 8 4 + rd p 12 4 ≤ hi →
    4096 ≤ rd p 16 4 → rd p 16 4 ≤ 65536 → fnIdle s 0x2D0 = false → (bit (rd p 3 1) 0 = true ∨ x.complete = true) →
    (s.cop.filter fun j => !j.running).length < 16 → (∀ j ∈ s.cop, rd p 8 4 + rd p 12 4 ≤ j.base ∨ j.base + j.size ≤ rd p 8 4) →
    Spec.stages 0x0901 .accepted (.cooperJob h p) h p 0x2D0 n s fun u v =>
      v.cop = u.cop ++ [{ tag := BitVec.ofNat 16 (rd p 0 2), group := rd p 2 1, options := rd p 3 1, record := BitVec.ofNat 32 (rd p 4 4),
                          base := rd p 8 4, size := rd p 12 4, bwords := rd p 16 4, owed := Spec.owes 0x0901 h }]
      ∧ (u.memInv → 0 < rd p 12 4 → memReads 0 v.rm.mem (rd p 8 4) 32 = zeros 32
          ∧ ∀ a, (a < rd p 8 4 ∨ rd p 8 4 + 32 ≤ a) → memRead 0 v.rm.mem a = memRead 0 u.rm.mem a)
      ∧ (rd p 12 4 = 0 → v.rm = u.rm) ∧ v = { u with cop := v.cop, rm := { u.rm with mem := v.rm.mem, poison := v.rm.poison } })
  ∧ (∀ (s : State) (h : ReqHdr) (p : List Byte) (n m : Nat) (j : Job) (rest : List Job) (x : Record) (q : RecPart) (b : List Byte), Spec.ready 0x0902 h p n s →
    s.cop = j :: rest → j.running = true → j.started = true → j.tag = BitVec.ofNat 16 (rd p 0 2) → bit j.options 0 = true → recOf s j.group j.record = some x →
    x.parts[j.slotPos]? = some q → m = (jobWords s x j.slotPos).length - j.wordPos → m < j.bwords → j.wordPos + m ≠ q.nPre + q.nPost → 0 < q.nPre + q.nPost →
    b = jobBlock j.slotPos 1 (codeBody 3 1 (((jobWords s x j.slotPos).drop j.wordPos).take m)).1 → 32 + j.span + b.length ≤ j.size → s.memInv →
    (m = 0 → ∃ t, exec (.cooperFlush h p) s = .next t ∧ Spec.answered h.mbx.val 0x0902 h.seq .ok (s.tb.tick % 2 ^ 32) j.written [] t
      ∧ t.mbx.staged = [] ∧ Spec.onlyAnswers h s t)
    ∧ (0 < m → ∃ t, exec (.cooperFlush h p) s = .next t
      ∧ Spec.answered h.mbx.val 0x0902 h.seq .ok (s.tb.tick % 2 ^ 32) (j.written + b.length) [] t ∧ t.mbx.staged = []
      ∧ t.cop = { j with written := j.written + b.length, span := j.span + b.length, blocks := j.blocks + 1, wordPos := j.wordPos + m } :: rest
      ∧ memReads 0 t.rm.mem (j.base + 32 + j.span) b.length = b
      ∧ (∀ a, (a < j.base + 32 + j.span ∨ j.base + 32 + j.span + b.length ≤ a) → memRead 0 t.rm.mem a = memRead 0 s.rm.mem a)
      ∧ Spec.onlyAnswers h { s with cop := t.cop, rm := { s.rm with mem := t.rm.mem, poison := t.rm.poison } } t))
  ∧ (∀ (s : State) (h : ReqHdr) (p : List Byte) (n : Nat), Spec.ready 0x0903 h p n s → (∃ j ∈ s.cop, j.tag = BitVec.ofNat 16 (rd p 0 2)) →
    Spec.stages 0x0903 .ok (.cooperCancel h p) h p 0x2D0 n s fun u v =>
      (∀ j, u.cop.find? (fun j => j.tag == BitVec.ofNat 16 (rd p 0 2)) = some j → v.cop = u.cop.erase j)
      ∧ (u.cop.find? (fun j => j.tag == BitVec.ofNat 16 (rd p 0 2)) = none → v = u) ∧ v = { u with cop := v.cop, ntq := v.ntq, io := v.io })

/-- FUNC_ENABLE, FUNC_DISABLE and FUNC_RENEW at their ticks (R461 to R467): a function starts, drains or renews, and one that
cannot is completed at once.

LEGACY_SUBSTITUTE and LEGACY_RELEASE with `LEGACY` set, and the level-2 commands L2_SUBST and L2_UNSUBST, which take channels
0 to 127 (R354, R382): the spare comes beside an enabled channel, or takes the place of one that is not enabled; and the channel
returns. -/
def Obligations.FunctionCommands : Prop :=
  ((∀ (s : State) (h : ReqHdr) (p : List Byte) (n id : Nat), Spec.ready 0x0A01 h p n s → id = h.func.toNat → fnExists id = true →
    (fnOf s id).held = false → (fnOf s id).testing = false → (fnOf s id).starting = false →
    (fnState s id = .off → Spec.stages 0x0A01 .ok (.funcEnable h p) h p id n s fun u v =>
      (fnState u id = .off → fnState v id = .running ∧ (fnOf v id).enOwed = none
        ∧ (0x2C8 ≤ id → id ≤ 0x2CF → ((fnOf u id).enOwed = none → v = { u with fn := v.fn }) ∧ ∀ j, j ≠ id → fnOf v j = fnOf u j))
      ∧ (fnState u id = .running → v = u))
    ∧ (fnState s id = .draining → ∃ t g, exec (.funcEnable h p) s = .next t
      ∧ Spec.answered h.mbx.val 0x0A01 h.seq .deferred (s.tb.tick % 2 ^ 32) 1 [] t ∧ t.mbx.staged = [g] ∧ g.tick = n ∧ g.owed = true
      ∧ g.func = id ∧ Spec.onlyAnswers h s t
      ∧ ∀ u, fnState u id = .draining → ∃ v, applyStaged u g = v ∧ fnOf v id = { fnOf u id with state := .enablePending, enOwed := some (Spec.owes 0x0A01 h) }
          ∧ (∀ j, j ≠ id → fnOf v j = fnOf u j) ∧ v = { u with fn := v.fn })
    ∧ (fnState s id = .running → ∃ t, exec (.funcEnable h p) s = .next t
      ∧ Spec.answered h.mbx.val 0x0A01 h.seq .functionState (s.tb.tick % 2 ^ 32) (fnCode .running) [] t ∧ t.mbx.staged = [] ∧ Spec.onlyAnswers h s t))
  ∧ (∀ (s : State) (h : ReqHdr) (p : List Byte) (n id : Nat) (o : Owed), Spec.ready 0x0A02 h p n s → id = h.func.toNat → fnExists id = true → o = Spec.owes 0x0A02 h →
    Spec.stages 0x0A02 .accepted (.funcDisable h p) h p id n s fun u v =>
      (fnState u id = .running → carriesWork u id = false →
        fnOf v id = { fnOf u id with state := .draining, drainTo := drainEndAt u id (u.tb.tick * 1048576), disOwed := (fnOf u id).disOwed ++ [o] }
        ∧ (∀ j, j ≠ id → fnOf v j = fnOf u j) ∧ (∀ j, j ≠ id → j ∉ slotsOfFn u id → chanOf v j = chanOf u j)
        ∧ v = { u with fn := v.fn, fe := { u.fe with chan := v.fe.chan } })
      ∧ (fnState u id = .running → carriesWork u id = true → handOff id o u = none → v = complete o .functionState 0 u.tb.tick u)
      ∧ ((fnState u id = .draining ∨ fnState u id = .quiescent) → fnOf v id = { fnOf u id with disOwed := (fnOf u id).disOwed ++ [o] }
        ∧ (∀ j, j ≠ id → fnOf v j = fnOf u j) ∧ v = { u with fn := v.fn })
      ∧ (fnState u id = .off → v = complete o .ok 0 u.tb.tick { u with fn := v.fn } ∧ fnOf v id = { fnOf u id with starting := false }
        ∧ ∀ j, j ≠ id → fnOf v j = fnOf u j)
      ∧ (fnState u id = .fault → v = complete o .ok 0 u.tb.tick { u with fn := v.fn } ∧ fnOf v id = { fnOf u id with state := .off }
        ∧ ∀ j, j ≠ id → fnOf v j = fnOf u j))
  ∧ (∀ (s : State) (h : ReqHdr) (p : List Byte) (n id : Nat) (o : Owed), Spec.ready 0x0A03 h p n s → id = h.func.toNat → fnExists id = true → o = Spec.owes 0x0A03 h →
    ((fnState s id = .running ∧ (fnOf s id).renew = none ∧ (fnOf s id).testing = false ∧ fnSession s id = none
        ∧ ∀ c ∈ renewRefusals s h.mbx.val id n, c.1 = false)
      ∨ ((fnState s id = .off ∨ fnState s id = .fault) ∧ (fnOf s id).held = false ∧ (fnOf s id).testing = false ∧ (fnOf s id).starting = false)) →
    Spec.stages 0x0A03 .accepted (.funcRenew h p) h p id n s fun u v =>
      ((fnState u id = .off ∨ fnState u id = .fault) → fnOf v id = { fnOf u id with testing := true, testOnly := some .off, renOwed := some o }
        ∧ (∀ j, j ≠ id → fnOf v j = fnOf u j) ∧ v = { u with fn := v.fn })
      ∧ (fnState u id = .running → fnState v id = .renewing
        ∧ (0x2C8 ≤ id → id ≤ 0x2CF → fnOf v id = { fnOf u id with state := .renewing, renOwed := some o, renew := some .going }
            ∧ (∀ j, j ≠ id → fnOf v j = fnOf u j) ∧ v = { u with fn := v.fn })
        ∧ (0x300 ≤ id → id ≤ 0x31F → v.rm.wantMig = u.rm.wantMig ++ [(id - 0x300, some o)]))))
  ∧ ((∀ (s : State) (h : ReqHdr) (p : List Byte) (n k op : Nat) (c : Instr), Spec.ready op h p n s → k = h.func.toNat →
    (op = 0x0A10 ∧ c = .legacySubstitute h p ∧ bit h.flags.toNat 1 = true ∧ k ≤ 511 ∨ op = 0x0F10 ∧ c = .l2Subst h p ∧ k ≤ 127) →
    bankInSession s (k / 32) = false → fnState s k ≠ .renewing → fnState s (512 + k / 32) ≠ .renewing → (chanOf s (512 + k / 32)).route = .parked →
    (bankSt s (k / 32)).legacyHeld = false →
    Spec.stages op .accepted c h p k n s fun u v =>
      ((chanOf u k).enabled = true → sessOf v k = some { target := k, phase := .overlapOut, legacy := true, owed := some (Spec.owes op h) }
        ∧ (chanOf v (512 + k / 32)).route = .channel ∧ (bankSt v (k / 32)).spareK = k % 32 ∧ (chanOf v (512 + k / 32)).gain = (chanOf u k).gain
        ∧ v.fn = u.fn ∧ v.str = u.str ∧ v.ntq = u.ntq ∧ v.tb = u.tb)
      ∧ ((chanOf u k).enabled = false → (bankSt v (k / 32)).deliver = some (k % 32, n0 u.tb.tick (rateRefs (chanOf u k).rate))
        ∧ (bankSt v (k / 32)).legacyHeld = true ∧ (chanOf v (512 + k / 32)).route = .channel ∧ (chanOf v k).route = .parked
        ∧ (fnOf v k).standIn = 512 + k / 32 ∧ (fnOf v k).consumed = true ∧ v.cal = u.cal ∧ v.tb = u.tb))
  ∧ (∀ (s : State) (h : ReqHdr) (p : List Byte) (n k op : Nat) (c : Instr), Spec.ready op h p n s → k = h.func.toNat →
    (op = 0x0A11 ∧ c = .legacyRelease h p ∧ bit h.flags.toNat 1 = true ∧ k ≤ 511 ∨ op = 0x0F11 ∧ c = .l2Unsubst h p ∧ k ≤ 127) →
    bankInSession s (k / 32) = false → (bankSt s (k / 32)).legacyHeld = true → (∃ m, (bankSt s (k / 32)).deliver = some (k % 32, m)) →
    Spec.stages op .accepted c h p k n s fun u v =>
      (∀ m, (bankSt u (k / 32)).deliver = some (k % 32, m) → (∃ x, sessOf v k = some x ∧ x.phase = .overlapBack ∧ x.owed = some (Spec.owes op h)
          ∧ x.forFunc = none) ∧ (chanOf v k).route = .pins ∧ (bankSt v (k / 32)).deliver = some (k % 32, m) ∧ v.fn = u.fn ∧ v.str = u.str)))

/-- PLANE_START, PLANE_STOP, FW_WRITE, FW_VERIFY, FW_ACTIVATE and L2_CHAN (R382, R383, R458, R460, R469). -/
def Obligations.PlaneAndFirmwareCommands : Prop :=
  (∀ (s : State) (h : ReqHdr) (p : List Byte) (n : Nat), Spec.ready 0x0A20 h p n s → s.tb.state ≠ .unset →
    Spec.stages 0x0A20 .ok (.planeStart h p) h p 0xFFFF n s fun u v =>
      (u.pwr.plane = true → v = u)
      ∧ (u.pwr.plane = false → v.pwr = { u.pwr with plane := true } ∧ v.chd.round = u.tb.tick * 2048
        ∧ (∀ k, k < 544 → (chanOf v k).enabled = (chanOf u k).enabled)
        ∧ (∀ k, k < 528 → (chanOf u k).enabled = false → chanOf v k = { chanOf u k with seqNext := none, seqIn := none })
        ∧ (∀ k, 528 ≤ k → k < 544 → (chanOf u k).enabled = false → chanOf v k = chanOf u k)
        ∧ (∀ i, i < 64 → (strOf u i).enabled = false → strOf v i = strOf u i) ∧ v.tb = u.tb ∧ v.fn = u.fn ∧ v.trg = u.trg ∧ v.wick = u.wick))
  ∧ (∀ (s : State) (h : ReqHdr) (p : List Byte) (n : Nat), Spec.ready 0x0A21 h p n s → (∀ e ∈ s.str.s, e.2.enabled = false) →
    (∀ e ∈ s.trg.grp, e.2.armed = false) → (∀ e ∈ s.wick.loop, e.2.defd = true → modeAt e.2 n = .off) →
    Spec.stages 0x0A21 .ok (.planeStop h p) h p 0xFFFF n s fun u v =>
      (u.pwr.plane = false → v = u)
      ∧ (u.pwr.plane = true → v.pwr = { u.pwr with plane := false } ∧ (∀ k, k < 544 → (chanOf u k).enabled = true → ∀ x ∈ (chanOf v k).chains, x.hi.isSome = true)
        ∧ (u.tb.state ≠ .slewing → v.tb = u.tb) ∧ (u.tb.state = .slewing → v.tb = { u.tb with slewTerm := 0, act := .master })
        ∧ (∀ b, b < 16 → bankSt v b = { bankSt u b with cicBuf := [], sarBuf := [] })
        ∧ v = { u with pwr := v.pwr, tb := v.tb, fe := { u.fe with chan := v.fe.chan, bank := v.fe.bank } }))
  ∧ (∀ (s : State) (h : ReqHdr) (p : List Byte) (n k : Nat), Spec.ready 0x0B02 h p n s → k = rd p 0 1 → k ≤ 1 → 1 ≤ rd p 2 2 → rd p 2 2 ≤ 232 →
    p.length = 8 + rd p 2 2 → rd p 4 4 + rd p 2 2 ≤ fwMaxOf s → s.pwr.fwRun ≠ some k → (∀ u, s.pwr.fwUpdate = some u → u.probation = false ∨ u.prev ≠ k) →
    Spec.stages 0x0B02 .ok (.fwWrite h p) h p 0xFFFF n s fun u v =>
      (u.pwr.pwrfail = false → u.memInv → memReads 0xFF v.pwr.flash (fwBase u k + rd p 4 4) (rd p 2 2) = p.drop 8
        ∧ (∀ a, (a < fwBase u k + rd p 4 4 ∨ fwBase u k + rd p 4 4 + rd p 2 2 ≤ a) → memRead 0xFF v.pwr.flash a = memRead 0xFF u.pwr.flash a)
        ∧ tget v.pwr.fwState k 0 = 1 ∧ tget v.pwr.fwState (1 - k) 0 = tget u.pwr.fwState (1 - k) 0
        ∧ v = { u with pwr := { u.pwr with flash := v.pwr.flash, fwState := v.pwr.fwState }, io := { u.io with qPrograms := v.io.qPrograms } })
      ∧ (u.pwr.pwrfail = true → v = u))
  ∧ (∀ (s : State) (h : ReqHdr) (p : List Byte) (n : Nat), Spec.ready 0x0B03 h p n s → rd p 0 1 ≤ 1 →
    Spec.stages 0x0B03 .accepted (.fwVerify h p) h p 0xFFFF n s fun u v =>
      v = { u with pwr := { u.pwr with fwVerify := u.pwr.fwVerify ++ [(rd p 0 1, Spec.owes 0x0B03 h)] } })
  ∧ (∀ (s : State) (h : ReqHdr) (p : List Byte) (n k : Nat), Spec.ready 0x0B04 h p n s → k = rd p 0 1 → k ≤ 1 → s.pwr.fwUpdate = none → tget s.pwr.fwState k 0 = 2 →
    Spec.stages 0x0B04 .accepted (.fwActivate h p) h p 0xFFFF n s fun u v =>
      ∀ run, u.pwr.fwRun = some run →
        (rd (fwHeader u k) 12 4 = rd (fwHeader u run) 12 4 →
          v = { u with pwr := { u.pwr with fwUpdate := some { slot := k, prev := run, owed := Spec.owes 0x0B04 h } } })
        ∧ (rd (fwHeader u k) 12 4 ≠ rd (fwHeader u run) 12 4 → v = complete (Spec.owes 0x0B04 h) .mismatch 0 u.tb.tick u))
  ∧ (∀ (s : State) (h : ReqHdr) (p : List Byte) (n k : Nat), Spec.ready 0x0F02 h p n s → k = rd p 0 1 → k ≤ 127 → rd p 1 1 ≤ 1 → rd p 2 1 ≤ 7 →
    (rd p 1 1 = 0 → (chanOf s k).enabled = true → streamCarries s k = false ∧ usesSlot s k = false) →
    Spec.stages 0x0F02 .ok (.l2Chan h p) h p k n s fun u v =>
      (chanOf v k).enabled = decide (rd p 1 1 = 1) ∧ (chanOf v k).bias = (chanOf u k).bias
      ∧ ((bankSt u (bankOf k)).deliver = none → (∀ e ∈ u.cal.sess, e.1 ≠ k) → (chanOf v k).gain = rd p 2 1)
      ∧ (∀ j, j ≠ k → j ≠ 512 + k / 32 → chanOf v j = chanOf u j)
      ∧ (rd p 1 1 = 1 → v.lin = u.lin ∧ v.ntq = u.ntq ∧ v.io = u.io)
      ∧ v = { u with fe := { u.fe with chan := v.fe.chan }, cal := { u.cal with sess := v.cal.sess }, ntq := v.ntq, io := v.io,
                     lin := { u.lin with vout := v.lin.vout, temp := v.lin.temp, descOld := v.lin.descOld } })

/-- Staged changes (R362, R369, R371, R494): the apply tick of a request; the order in which changes apply; a change for a target
that a staged one holds; the 513th change; and the parts of a multi-part command. -/
def Obligations.StagedChanges : Prop :=
  (∀ (h : ReqHdr) (cur : Nat), bit h.flags.toNat 0 = false → applyTickOf h cur = some (cur + 1))
  ∧ (∀ (h : ReqHdr) (cur d : Nat), bit h.flags.toNat 0 = true → d < 2 ^ 32 → h.applyTick.toNat = (cur + d) % 2 ^ 32 →
    (0 < d → d ≤ 2 ^ 24 → applyTickOf h cur = some (cur + d)) ∧ (2 ^ 24 < d → d < 2 ^ 31 → applyTickOf h cur = none)
    ∧ ((d = 0 ∨ 2 ^ 31 ≤ d) → applyTickOf h cur = if bit h.flags.toNat 2 then some (cur + 1) else none))
  ∧ (∀ (s : State) (h : ReqHdr) (p : List Byte), Spec.taken 0x0D04 h p none s → ∃ t, exec (.collectorSet h p) s = .next t
    ∧ Spec.answered h.mbx.val 0x0D04 h.seq .badArgument (s.tb.tick % 2 ^ 32) 8 [] t ∧ t.mbx.staged = s.mbx.staged ∧ Spec.onlyAnswers h s t)
  ∧ (∀ xs : List Staged, (inOrder xs).Perm xs ∧ (inOrder xs).Pairwise (fun a b => a.tick ≤ b.tick)
    ∧ ∀ n, (inOrder xs).filter (fun g => decide (g.tick = n)) = xs.filter fun g => decide (g.tick = n))
  ∧ (∀ (s : State) (h h' : ReqHdr) (p p' : List Byte) (n : Nat) (g : Staged), Spec.taken 0x0220 h p (some n) s → s.mbx.staged = [g] → n < g.tick →
    g.cmd = .linSet h' p' → g.parts = [p'] → rd p' 0 2 = rd p 0 2 → isBadArg (chkLinSet s { h, op := 0x0220, parts := [p], tick := n }) = false →
    ∃ t, exec (.linSet h p) s = .next t ∧ Spec.answered h.mbx.val 0x0220 h.seq .busy (s.tb.tick % 2 ^ 32) 0 [] t ∧ t.mbx.staged = [g]
      ∧ Spec.onlyAnswers h s t)
  ∧ (∀ (s : State) (h : ReqHdr) (p : List Byte) (n : Nat), Spec.taken 0x0D04 h p (some n) s → (∀ g ∈ s.mbx.staged, n < g.tick) →
    512 ≤ s.mbx.staged.length + s.chd.held.length → rd p 0 1 ≤ 1 → rd p 1 1 ≤ 7 →
    (BitVec.ofNat 128 (rdB p 4 16) ≠ 0 → onLink s (BitVec.ofNat 128 (rdB p 4 16)) = true) →
    ∃ t, exec (.collectorSet h p) s = .next t ∧ Spec.answered h.mbx.val 0x0D04 h.seq .noSpace (s.tb.tick % 2 ^ 32) 0 [] t
      ∧ t.mbx.staged = s.mbx.staged ∧ Spec.onlyAnswers h s t)
  ∧ (∀ (s : State) (h : ReqHdr) (p : List Byte) (n : Option Nat), Spec.taken 0x0501 h p n s → (∀ k, k < 8 → (boxOf s k).asm = []) → rd p 2 1 = 0 →
    (rd p 0 2 = 0 → (∀ st d, chkPart 0x0501 0 p ≠ .refuse st d) → ∃ t, exec (.streamDefine h p) s = .next t
      ∧ Spec.answered h.mbx.val 0x0501 h.seq .ok (s.tb.tick % 2 ^ 32) 0 [] t ∧ t.mbx.staged = s.mbx.staged
      ∧ (boxOf t h.mbx.val).asm = [{ opcode := 0x0501, target := rd p 4 1, parts := [p], last := s.tb.tick }] ∧ Spec.onlyAnswers h s t)
    ∧ (0 < rd p 0 2 → ∃ t, exec (.streamDefine h p) s = .next t
      ∧ Spec.answered h.mbx.val 0x0501 h.seq .badArgument (s.tb.tick % 2 ^ 32) (65536 * rd p 0 2 + 16) [] t ∧ t.mbx.staged = s.mbx.staged
      ∧ (boxOf t h.mbx.val).asm = [] ∧ Spec.onlyAnswers h s t))

/-! ### Single rules -/

/-- R68: the first grid sample of tick N at rate f has the index n0(N, f) = ceil(N × 2^20 / (204 800 000 / f)), the first index
whose instant is at or after the boundary of tick N; for each rate code with its f, the whole rates in Hz. -/
def Obligations.FirstGridIndex : Prop :=
  (∀ c f : Nat, (c, f) ∈ [(0, 50000), (1, 20000), (2, 10000), (3, 5000), (4, 2000), (5, 1000), (6, 500), (7, 200), (8, 100), (9, 50), (10, 20),
      (11, 10), (15, 1600000)] →
    204800000 / f = rateRefs c ∧ 0 < rateRefs c)
  ∧ (∀ tick q : Nat, 0 < q → n0 tick q = (tick * 2 ^ 20 + (q - 1)) / q ∧ (∀ k, n0 tick q ≤ k ↔ tick * 2 ^ 20 ≤ k * q))

/-- R419: the bin of a value, with bins 0 and 63 open to both sides; bins saturate at 2^32 − 1; BIN_W 1 to 2^31 is accepted, and
0 is refused with BAD_ARGUMENT. -/
def Obligations.MonitorBins : Prop :=
  (∀ (s : State) (m cls i : Nat) (x : Int) (b : Nat), (monOf s m).running = true → (monOf s m).source = cls * 4096 + i → 1 ≤ (monOf s m).binW →
    fnState s (fnMon m) = .running → (fnOf s (fnMon m)).held = false →
    b = (max 0 (min 63 ((x - (monOf s m).binLo) / ((monOf s m).binW : Int)))).toNat →
    b ≤ 63 ∧ (x < (monOf s m).binLo → b = 0) ∧ ((monOf s m).binLo + 63 * ((monOf s m).binW : Int) ≤ x → b = 63)
    ∧ tget (monOf (monValue s cls i x) m).live.bins b 0 = min (tget (monOf s m).live.bins b 0 + 1) 4294967295
    ∧ (∀ j, j ≠ b → tget (monOf (monValue s cls i x) m).live.bins j 0 = tget (monOf s m).live.bins j 0)
    ∧ (monOf (monValue s cls i x) m).live.count = (monOf s m).live.count + 1)
  ∧ (∀ (s : State) (h : ReqHdr) (p : List Byte) (n : Nat), Spec.ready 0x0C01 h p n s → rd p 0 1 ≤ 31 → monSourceOk (rd p 2 2) = true →
    (1 ≤ rd p 8 4 → rd p 8 4 ≤ 2 ^ 31 → ∃ t, exec (.monConfig h p) s = .next t ∧ Spec.answered h.mbx.val 0x0C01 h.seq .ok (n % 2 ^ 32) 0 [] t)
    ∧ ((rd p 8 4 = 0 ∨ 2 ^ 31 < rd p 8 4) → ∃ t, exec (.monConfig h p) s = .next t ∧ t.mbx.staged = []
        ∧ Spec.answered h.mbx.val 0x0C01 h.seq .badArgument (s.tb.tick % 2 ^ 32) 24 [] t))

/-- R51: while the state is UNSET a request to start the data plane is answered FUNCTION_STATE; TIME_SET moves the state to
HOLDOVER at its tick, and PLANE_START then starts the data plane at its own. -/
def Obligations.PlaneNeedsTime : Prop :=
  (∀ (s : State) (h : ReqHdr) (p : List Byte) (n : Nat), Spec.ready 0x0A20 h p n s → s.tb.state = .unset →
    ∃ t, exec (.planeStart h p) s = .next t ∧ t.mbx.staged = [] ∧ t.pwr = s.pwr
      ∧ Spec.answered h.mbx.val 0x0A20 h.seq .functionState (s.tb.tick % 2 ^ 32) 0 [] t)
  ∧ (∀ (s : State) (h : ReqHdr) (p : List Byte) (n : Nat), Spec.ready 0x0703 h p n s → rd p 0 4 < 1000000000 → rd p 8 8 < 2 ^ 48 → s.pwr.plane = false →
    Spec.stages 0x0703 .ok (.timeSet h p) h p 0x3F0 n s fun _ v => v.tb.state = .holdover)
  ∧ (∀ (s : State) (h : ReqHdr) (p : List Byte) (n : Nat), Spec.ready 0x0A20 h p n s → s.tb.state = .holdover →
    Spec.stages 0x0A20 .ok (.planeStart h p) h p 0xFFFF n s fun _ v => v.pwr.plane = true)

/-- Every command answers a next state in every state, but a BAR2 access past the 64 MiB of record memory (R242, R261). -/
def Obligations.EveryCommandAnswers : Prop :=
  ∀ (c : Instr) (s : State), (∀ addr len errs, c = .bar2Read addr len errs → addr + len ≤ 67108864) →
    (∀ addr data, c = .bar2Write addr data → addr + data.length ≤ 67108864) → ∃ t, exec c s = .next t

end Statements
end

