-- ==== Sys2Proof/Laws/Table.lean ====
section
/-! SUPPORT. What a read of a table gives after an update, and folds that keep a property. -/
namespace Sys2Proof.Machine

@[simp] theorem tget_nil {α : Type} (k : Nat) (d : α) : tget ([] : Tab α) k d = d := rfl

/-- The number that was set reads back. -/
@[simp] theorem tget_tset_same {α : Type} (t : Tab α) (k : Nat) (v d : α) : tget (tset t k v) k d = v := by
  induction t with
  | nil => simp [tset, tget]
  | cons e t ih =>
    obtain ⟨j, w⟩ := e
    simp only [tset]
    split
    · simp [tget]
    · split
      · simp [tget]
      · rename_i h; simp [tget, h, ih]

/-- Every other number reads as before. -/
theorem tget_tset_other {α : Type} (t : Tab α) (k j : Nat) (v d : α) (h : j ≠ k) : tget (tset t k v) j d = tget t j d := by
  induction t with
  | nil => simp [tset, tget, Ne.symm h]
  | cons e t ih =>
    obtain ⟨i, w⟩ := e
    simp only [tset]
    split
    · simp [tget, Ne.symm h]
    · split
      · rename_i h2; simp [tget, h2, Ne.symm h]
      · simp [tget, ih]

theorem tget_tset {α : Type} (t : Tab α) (k j : Nat) (v d : α) : tget (tset t k v) j d = if j = k then v else tget t j d := by
  by_cases h : j = k
  · simp [h]
  · simp [h, tget_tset_other t k j v d h]

/-- A fold keeps what each of its steps keeps. -/
theorem foldl_keeps {σ α : Type} (P : σ → Prop) (f : σ → α → σ) (hf : ∀ s a, P s → P (f s a)) :
    ∀ (xs : List α) (s : σ), P s → P (xs.foldl f s)
  | [], _, h => h
  | x :: xs, s, h => foldl_keeps P f hf xs (f s x) (hf s x h)

/-- A fold keeps a field that each of its steps keeps. -/
theorem foldl_field {σ α β : Type} (g : σ → β) (f : σ → α → σ) (hf : ∀ s a, g (f s a) = g s) (xs : List α) (s : σ) :
    g (xs.foldl f s) = g s :=
  foldl_keeps (fun x => g x = g s) f (fun x a h => (hf x a).trans h) xs s rfl

end Sys2Proof.Machine
end

