-- ==== Sys2Proof/Laws/State.lean ====
section
/-! SUPPORT. The state's updates: what each leaves of every field, and what its own part reads after it. -/
namespace Sys2Proof.Machine

section
variable (s : State) (n : Nat) (f : Chan → Chan)
@[simp] theorem onChan_pending : (s.onChan n f).pending = s.pending := rfl
@[simp] theorem onChan_now : (s.onChan n f).now = s.now := rfl
@[simp] theorem onChan_freeCtr : (s.onChan n f).freeCtr = s.freeCtr := rfl
@[simp] theorem onChan_sent : (s.onChan n f).sent = s.sent := rfl
@[simp] theorem onChan_pwr : (s.onChan n f).pwr = s.pwr := rfl
@[simp] theorem onChan_glb : (s.onChan n f).glb = s.glb := rfl
@[simp] theorem onChan_io : (s.onChan n f).io = s.io := rfl
@[simp] theorem onChan_tb : (s.onChan n f).tb = s.tb := rfl
@[simp] theorem onChan_chd : (s.onChan n f).chd = s.chd := rfl
@[simp] theorem onChan_lin : (s.onChan n f).lin = s.lin := rfl
@[simp] theorem onChan_str : (s.onChan n f).str = s.str := rfl
@[simp] theorem onChan_trg : (s.onChan n f).trg = s.trg := rfl
@[simp] theorem onChan_rm : (s.onChan n f).rm = s.rm := rfl
@[simp] theorem onChan_cop : (s.onChan n f).cop = s.cop := rfl
@[simp] theorem onChan_wick : (s.onChan n f).wick = s.wick := rfl
@[simp] theorem onChan_cal : (s.onChan n f).cal = s.cal := rfl
@[simp] theorem onChan_mbx : (s.onChan n f).mbx = s.mbx := rfl
@[simp] theorem onChan_ntq : (s.onChan n f).ntq = s.ntq := rfl
@[simp] theorem onChan_fn : (s.onChan n f).fn = s.fn := rfl
@[simp] theorem onChan_pace : (s.onChan n f).pace = s.pace := rfl
@[simp] theorem onChan_mon : (s.onChan n f).mon = s.mon := rfl
@[simp] theorem onChan_net : (s.onChan n f).net = s.net := rfl
@[simp] theorem onChan_fe_bank : (s.onChan n f).fe.bank = s.fe.bank := rfl
@[simp] theorem onChan_fe_exc : (s.onChan n f).fe.exc = s.fe.exc := rfl
@[simp] theorem onChan_fe_tile : (s.onChan n f).fe.tile = s.fe.tile := rfl
@[simp] theorem onChan_fe_comp : (s.onChan n f).fe.comp = s.fe.comp := rfl
@[simp] theorem onChan_fe_aux : (s.onChan n f).fe.aux = s.fe.aux := rfl
@[simp] theorem onChan_fe_auxLast : (s.onChan n f).fe.auxLast = s.fe.auxLast := rfl
@[simp] theorem onChan_fe_auxClamp : (s.onChan n f).fe.auxClamp = s.fe.auxClamp := rfl
/-- What `onChan` puts reads back. -/
@[simp] theorem chanOf_onChan : chanOf (s.onChan n f) n = f (chanOf s n) := tget_tset_same _ _ _ _
theorem chanOf_onChan_other (k : Nat) (h : k ≠ n) : chanOf (s.onChan n f) k = chanOf s k := tget_tset_other _ _ _ _ _ h
@[simp] theorem bankSt_onChan : bankSt (s.onChan n f) = bankSt s := rfl
@[simp] theorem excOf_onChan : excOf (s.onChan n f) = excOf s := rfl
@[simp] theorem tileOf_onChan : tileOf (s.onChan n f) = tileOf s := rfl
@[simp] theorem compOf_onChan : compOf (s.onChan n f) = compOf s := rfl
@[simp] theorem auxOf_onChan : auxOf (s.onChan n f) = auxOf s := rfl
@[simp] theorem voutOf_onChan : voutOf (s.onChan n f) = voutOf s := rfl
@[simp] theorem strOf_onChan : strOf (s.onChan n f) = strOf s := rfl
@[simp] theorem grpOf_onChan : grpOf (s.onChan n f) = grpOf s := rfl
@[simp] theorem seqrOf_onChan : seqrOf (s.onChan n f) = seqrOf s := rfl
@[simp] theorem loopOf_onChan : loopOf (s.onChan n f) = loopOf s := rfl
@[simp] theorem portOf_onChan : portOf (s.onChan n f) = portOf s := rfl
@[simp] theorem fnOf_onChan : fnOf (s.onChan n f) = fnOf s := rfl
@[simp] theorem ntqOf_onChan : ntqOf (s.onChan n f) = ntqOf s := rfl
@[simp] theorem boxOf_onChan : boxOf (s.onChan n f) = boxOf s := rfl
@[simp] theorem monOf_onChan : monOf (s.onChan n f) = monOf s := rfl
@[simp] theorem paceOf_onChan : paceOf (s.onChan n f) = paceOf s := rfl
@[simp] theorem netOf_onChan : netOf (s.onChan n f) = netOf s := rfl
@[simp] theorem collOf_onChan : collOf (s.onChan n f) = collOf s := rfl
@[simp] theorem tdcOf_onChan : tdcOf (s.onChan n f) = tdcOf s := rfl
@[simp] theorem beaconOf_onChan : beaconOf (s.onChan n f) = beaconOf s := rfl
end

section
variable (s : State) (n : Nat) (f : Bank → Bank)
@[simp] theorem onBank_pending : (s.onBank n f).pending = s.pending := rfl
@[simp] theorem onBank_now : (s.onBank n f).now = s.now := rfl
@[simp] theorem onBank_freeCtr : (s.onBank n f).freeCtr = s.freeCtr := rfl
@[simp] theorem onBank_sent : (s.onBank n f).sent = s.sent := rfl
@[simp] theorem onBank_pwr : (s.onBank n f).pwr = s.pwr := rfl
@[simp] theorem onBank_glb : (s.onBank n f).glb = s.glb := rfl
@[simp] theorem onBank_io : (s.onBank n f).io = s.io := rfl
@[simp] theorem onBank_tb : (s.onBank n f).tb = s.tb := rfl
@[simp] theorem onBank_chd : (s.onBank n f).chd = s.chd := rfl
@[simp] theorem onBank_lin : (s.onBank n f).lin = s.lin := rfl
@[simp] theorem onBank_str : (s.onBank n f).str = s.str := rfl
@[simp] theorem onBank_trg : (s.onBank n f).trg = s.trg := rfl
@[simp] theorem onBank_rm : (s.onBank n f).rm = s.rm := rfl
@[simp] theorem onBank_cop : (s.onBank n f).cop = s.cop := rfl
@[simp] theorem onBank_wick : (s.onBank n f).wick = s.wick := rfl
@[simp] theorem onBank_cal : (s.onBank n f).cal = s.cal := rfl
@[simp] theorem onBank_mbx : (s.onBank n f).mbx = s.mbx := rfl
@[simp] theorem onBank_ntq : (s.onBank n f).ntq = s.ntq := rfl
@[simp] theorem onBank_fn : (s.onBank n f).fn = s.fn := rfl
@[simp] theorem onBank_pace : (s.onBank n f).pace = s.pace := rfl
@[simp] theorem onBank_mon : (s.onBank n f).mon = s.mon := rfl
@[simp] theorem onBank_net : (s.onBank n f).net = s.net := rfl
@[simp] theorem onBank_fe_chan : (s.onBank n f).fe.chan = s.fe.chan := rfl
@[simp] theorem onBank_fe_exc : (s.onBank n f).fe.exc = s.fe.exc := rfl
@[simp] theorem onBank_fe_tile : (s.onBank n f).fe.tile = s.fe.tile := rfl
@[simp] theorem onBank_fe_comp : (s.onBank n f).fe.comp = s.fe.comp := rfl
@[simp] theorem onBank_fe_aux : (s.onBank n f).fe.aux = s.fe.aux := rfl
@[simp] theorem onBank_fe_auxLast : (s.onBank n f).fe.auxLast = s.fe.auxLast := rfl
@[simp] theorem onBank_fe_auxClamp : (s.onBank n f).fe.auxClamp = s.fe.auxClamp := rfl
@[simp] theorem chanOf_onBank : chanOf (s.onBank n f) = chanOf s := rfl
/-- What `onBank` puts reads back. -/
@[simp] theorem bankSt_onBank : bankSt (s.onBank n f) n = f (bankSt s n) := tget_tset_same _ _ _ _
theorem bankSt_onBank_other (k : Nat) (h : k ≠ n) : bankSt (s.onBank n f) k = bankSt s k := tget_tset_other _ _ _ _ _ h
@[simp] theorem excOf_onBank : excOf (s.onBank n f) = excOf s := rfl
@[simp] theorem tileOf_onBank : tileOf (s.onBank n f) = tileOf s := rfl
@[simp] theorem compOf_onBank : compOf (s.onBank n f) = compOf s := rfl
@[simp] theorem auxOf_onBank : auxOf (s.onBank n f) = auxOf s := rfl
@[simp] theorem voutOf_onBank : voutOf (s.onBank n f) = voutOf s := rfl
@[simp] theorem strOf_onBank : strOf (s.onBank n f) = strOf s := rfl
@[simp] theorem grpOf_onBank : grpOf (s.onBank n f) = grpOf s := rfl
@[simp] theorem seqrOf_onBank : seqrOf (s.onBank n f) = seqrOf s := rfl
@[simp] theorem loopOf_onBank : loopOf (s.onBank n f) = loopOf s := rfl
@[simp] theorem portOf_onBank : portOf (s.onBank n f) = portOf s := rfl
@[simp] theorem fnOf_onBank : fnOf (s.onBank n f) = fnOf s := rfl
@[simp] theorem ntqOf_onBank : ntqOf (s.onBank n f) = ntqOf s := rfl
@[simp] theorem boxOf_onBank : boxOf (s.onBank n f) = boxOf s := rfl
@[simp] theorem monOf_onBank : monOf (s.onBank n f) = monOf s := rfl
@[simp] theorem paceOf_onBank : paceOf (s.onBank n f) = paceOf s := rfl
@[simp] theorem netOf_onBank : netOf (s.onBank n f) = netOf s := rfl
@[simp] theorem collOf_onBank : collOf (s.onBank n f) = collOf s := rfl
@[simp] theorem tdcOf_onBank : tdcOf (s.onBank n f) = tdcOf s := rfl
@[simp] theorem beaconOf_onBank : beaconOf (s.onBank n f) = beaconOf s := rfl
end

section
variable (s : State) (n : Nat) (f : Exc → Exc)
@[simp] theorem onExc_pending : (s.onExc n f).pending = s.pending := rfl
@[simp] theorem onExc_now : (s.onExc n f).now = s.now := rfl
@[simp] theorem onExc_freeCtr : (s.onExc n f).freeCtr = s.freeCtr := rfl
@[simp] theorem onExc_sent : (s.onExc n f).sent = s.sent := rfl
@[simp] theorem onExc_pwr : (s.onExc n f).pwr = s.pwr := rfl
@[simp] theorem onExc_glb : (s.onExc n f).glb = s.glb := rfl
@[simp] theorem onExc_io : (s.onExc n f).io = s.io := rfl
@[simp] theorem onExc_tb : (s.onExc n f).tb = s.tb := rfl
@[simp] theorem onExc_chd : (s.onExc n f).chd = s.chd := rfl
@[simp] theorem onExc_lin : (s.onExc n f).lin = s.lin := rfl
@[simp] theorem onExc_str : (s.onExc n f).str = s.str := rfl
@[simp] theorem onExc_trg : (s.onExc n f).trg = s.trg := rfl
@[simp] theorem onExc_rm : (s.onExc n f).rm = s.rm := rfl
@[simp] theorem onExc_cop : (s.onExc n f).cop = s.cop := rfl
@[simp] theorem onExc_wick : (s.onExc n f).wick = s.wick := rfl
@[simp] theorem onExc_cal : (s.onExc n f).cal = s.cal := rfl
@[simp] theorem onExc_mbx : (s.onExc n f).mbx = s.mbx := rfl
@[simp] theorem onExc_ntq : (s.onExc n f).ntq = s.ntq := rfl
@[simp] theorem onExc_fn : (s.onExc n f).fn = s.fn := rfl
@[simp] theorem onExc_pace : (s.onExc n f).pace = s.pace := rfl
@[simp] theorem onExc_mon : (s.onExc n f).mon = s.mon := rfl
@[simp] theorem onExc_net : (s.onExc n f).net = s.net := rfl
@[simp] theorem onExc_fe_chan : (s.onExc n f).fe.chan = s.fe.chan := rfl
@[simp] theorem onExc_fe_bank : (s.onExc n f).fe.bank = s.fe.bank := rfl
@[simp] theorem onExc_fe_tile : (s.onExc n f).fe.tile = s.fe.tile := rfl
@[simp] theorem onExc_fe_comp : (s.onExc n f).fe.comp = s.fe.comp := rfl
@[simp] theorem onExc_fe_aux : (s.onExc n f).fe.aux = s.fe.aux := rfl
@[simp] theorem onExc_fe_auxLast : (s.onExc n f).fe.auxLast = s.fe.auxLast := rfl
@[simp] theorem onExc_fe_auxClamp : (s.onExc n f).fe.auxClamp = s.fe.auxClamp := rfl
@[simp] theorem chanOf_onExc : chanOf (s.onExc n f) = chanOf s := rfl
@[simp] theorem bankSt_onExc : bankSt (s.onExc n f) = bankSt s := rfl
/-- What `onExc` puts reads back. -/
@[simp] theorem excOf_onExc : excOf (s.onExc n f) n = f (excOf s n) := tget_tset_same _ _ _ _
theorem excOf_onExc_other (k : Nat) (h : k ≠ n) : excOf (s.onExc n f) k = excOf s k := tget_tset_other _ _ _ _ _ h
@[simp] theorem tileOf_onExc : tileOf (s.onExc n f) = tileOf s := rfl
@[simp] theorem compOf_onExc : compOf (s.onExc n f) = compOf s := rfl
@[simp] theorem auxOf_onExc : auxOf (s.onExc n f) = auxOf s := rfl
@[simp] theorem voutOf_onExc : voutOf (s.onExc n f) = voutOf s := rfl
@[simp] theorem strOf_onExc : strOf (s.onExc n f) = strOf s := rfl
@[simp] theorem grpOf_onExc : grpOf (s.onExc n f) = grpOf s := rfl
@[simp] theorem seqrOf_onExc : seqrOf (s.onExc n f) = seqrOf s := rfl
@[simp] theorem loopOf_onExc : loopOf (s.onExc n f) = loopOf s := rfl
@[simp] theorem portOf_onExc : portOf (s.onExc n f) = portOf s := rfl
@[simp] theorem fnOf_onExc : fnOf (s.onExc n f) = fnOf s := rfl
@[simp] theorem ntqOf_onExc : ntqOf (s.onExc n f) = ntqOf s := rfl
@[simp] theorem boxOf_onExc : boxOf (s.onExc n f) = boxOf s := rfl
@[simp] theorem monOf_onExc : monOf (s.onExc n f) = monOf s := rfl
@[simp] theorem paceOf_onExc : paceOf (s.onExc n f) = paceOf s := rfl
@[simp] theorem netOf_onExc : netOf (s.onExc n f) = netOf s := rfl
@[simp] theorem collOf_onExc : collOf (s.onExc n f) = collOf s := rfl
@[simp] theorem tdcOf_onExc : tdcOf (s.onExc n f) = tdcOf s := rfl
@[simp] theorem beaconOf_onExc : beaconOf (s.onExc n f) = beaconOf s := rfl
end

section
variable (s : State) (n : Nat) (f : Tile → Tile)
@[simp] theorem onTile_pending : (s.onTile n f).pending = s.pending := rfl
@[simp] theorem onTile_now : (s.onTile n f).now = s.now := rfl
@[simp] theorem onTile_freeCtr : (s.onTile n f).freeCtr = s.freeCtr := rfl
@[simp] theorem onTile_sent : (s.onTile n f).sent = s.sent := rfl
@[simp] theorem onTile_pwr : (s.onTile n f).pwr = s.pwr := rfl
@[simp] theorem onTile_glb : (s.onTile n f).glb = s.glb := rfl
@[simp] theorem onTile_io : (s.onTile n f).io = s.io := rfl
@[simp] theorem onTile_tb : (s.onTile n f).tb = s.tb := rfl
@[simp] theorem onTile_chd : (s.onTile n f).chd = s.chd := rfl
@[simp] theorem onTile_lin : (s.onTile n f).lin = s.lin := rfl
@[simp] theorem onTile_str : (s.onTile n f).str = s.str := rfl
@[simp] theorem onTile_trg : (s.onTile n f).trg = s.trg := rfl
@[simp] theorem onTile_rm : (s.onTile n f).rm = s.rm := rfl
@[simp] theorem onTile_cop : (s.onTile n f).cop = s.cop := rfl
@[simp] theorem onTile_wick : (s.onTile n f).wick = s.wick := rfl
@[simp] theorem onTile_cal : (s.onTile n f).cal = s.cal := rfl
@[simp] theorem onTile_mbx : (s.onTile n f).mbx = s.mbx := rfl
@[simp] theorem onTile_ntq : (s.onTile n f).ntq = s.ntq := rfl
@[simp] theorem onTile_fn : (s.onTile n f).fn = s.fn := rfl
@[simp] theorem onTile_pace : (s.onTile n f).pace = s.pace := rfl
@[simp] theorem onTile_mon : (s.onTile n f).mon = s.mon := rfl
@[simp] theorem onTile_net : (s.onTile n f).net = s.net := rfl
@[simp] theorem onTile_fe_chan : (s.onTile n f).fe.chan = s.fe.chan := rfl
@[simp] theorem onTile_fe_bank : (s.onTile n f).fe.bank = s.fe.bank := rfl
@[simp] theorem onTile_fe_exc : (s.onTile n f).fe.exc = s.fe.exc := rfl
@[simp] theorem onTile_fe_comp : (s.onTile n f).fe.comp = s.fe.comp := rfl
@[simp] theorem onTile_fe_aux : (s.onTile n f).fe.aux = s.fe.aux := rfl
@[simp] theorem onTile_fe_auxLast : (s.onTile n f).fe.auxLast = s.fe.auxLast := rfl
@[simp] theorem onTile_fe_auxClamp : (s.onTile n f).fe.auxClamp = s.fe.auxClamp := rfl
@[simp] theorem chanOf_onTile : chanOf (s.onTile n f) = chanOf s := rfl
@[simp] theorem bankSt_onTile : bankSt (s.onTile n f) = bankSt s := rfl
@[simp] theorem excOf_onTile : excOf (s.onTile n f) = excOf s := rfl
/-- What `onTile` puts reads back. -/
@[simp] theorem tileOf_onTile : tileOf (s.onTile n f) n = f (tileOf s n) := tget_tset_same _ _ _ _
theorem tileOf_onTile_other (k : Nat) (h : k ≠ n) : tileOf (s.onTile n f) k = tileOf s k := tget_tset_other _ _ _ _ _ h
@[simp] theorem compOf_onTile : compOf (s.onTile n f) = compOf s := rfl
@[simp] theorem auxOf_onTile : auxOf (s.onTile n f) = auxOf s := rfl
@[simp] theorem voutOf_onTile : voutOf (s.onTile n f) = voutOf s := rfl
@[simp] theorem strOf_onTile : strOf (s.onTile n f) = strOf s := rfl
@[simp] theorem grpOf_onTile : grpOf (s.onTile n f) = grpOf s := rfl
@[simp] theorem seqrOf_onTile : seqrOf (s.onTile n f) = seqrOf s := rfl
@[simp] theorem loopOf_onTile : loopOf (s.onTile n f) = loopOf s := rfl
@[simp] theorem portOf_onTile : portOf (s.onTile n f) = portOf s := rfl
@[simp] theorem fnOf_onTile : fnOf (s.onTile n f) = fnOf s := rfl
@[simp] theorem ntqOf_onTile : ntqOf (s.onTile n f) = ntqOf s := rfl
@[simp] theorem boxOf_onTile : boxOf (s.onTile n f) = boxOf s := rfl
@[simp] theorem monOf_onTile : monOf (s.onTile n f) = monOf s := rfl
@[simp] theorem paceOf_onTile : paceOf (s.onTile n f) = paceOf s := rfl
@[simp] theorem netOf_onTile : netOf (s.onTile n f) = netOf s := rfl
@[simp] theorem collOf_onTile : collOf (s.onTile n f) = collOf s := rfl
@[simp] theorem tdcOf_onTile : tdcOf (s.onTile n f) = tdcOf s := rfl
@[simp] theorem beaconOf_onTile : beaconOf (s.onTile n f) = beaconOf s := rfl
end

section
variable (s : State) (n : Nat) (f : Comparator → Comparator)
@[simp] theorem onComp_pending : (s.onComp n f).pending = s.pending := rfl
@[simp] theorem onComp_now : (s.onComp n f).now = s.now := rfl
@[simp] theorem onComp_freeCtr : (s.onComp n f).freeCtr = s.freeCtr := rfl
@[simp] theorem onComp_sent : (s.onComp n f).sent = s.sent := rfl
@[simp] theorem onComp_pwr : (s.onComp n f).pwr = s.pwr := rfl
@[simp] theorem onComp_glb : (s.onComp n f).glb = s.glb := rfl
@[simp] theorem onComp_io : (s.onComp n f).io = s.io := rfl
@[simp] theorem onComp_tb : (s.onComp n f).tb = s.tb := rfl
@[simp] theorem onComp_chd : (s.onComp n f).chd = s.chd := rfl
@[simp] theorem onComp_lin : (s.onComp n f).lin = s.lin := rfl
@[simp] theorem onComp_str : (s.onComp n f).str = s.str := rfl
@[simp] theorem onComp_trg : (s.onComp n f).trg = s.trg := rfl
@[simp] theorem onComp_rm : (s.onComp n f).rm = s.rm := rfl
@[simp] theorem onComp_cop : (s.onComp n f).cop = s.cop := rfl
@[simp] theorem onComp_wick : (s.onComp n f).wick = s.wick := rfl
@[simp] theorem onComp_cal : (s.onComp n f).cal = s.cal := rfl
@[simp] theorem onComp_mbx : (s.onComp n f).mbx = s.mbx := rfl
@[simp] theorem onComp_ntq : (s.onComp n f).ntq = s.ntq := rfl
@[simp] theorem onComp_fn : (s.onComp n f).fn = s.fn := rfl
@[simp] theorem onComp_pace : (s.onComp n f).pace = s.pace := rfl
@[simp] theorem onComp_mon : (s.onComp n f).mon = s.mon := rfl
@[simp] theorem onComp_net : (s.onComp n f).net = s.net := rfl
@[simp] theorem onComp_fe_chan : (s.onComp n f).fe.chan = s.fe.chan := rfl
@[simp] theorem onComp_fe_bank : (s.onComp n f).fe.bank = s.fe.bank := rfl
@[simp] theorem onComp_fe_exc : (s.onComp n f).fe.exc = s.fe.exc := rfl
@[simp] theorem onComp_fe_tile : (s.onComp n f).fe.tile = s.fe.tile := rfl
@[simp] theorem onComp_fe_aux : (s.onComp n f).fe.aux = s.fe.aux := rfl
@[simp] theorem onComp_fe_auxLast : (s.onComp n f).fe.auxLast = s.fe.auxLast := rfl
@[simp] theorem onComp_fe_auxClamp : (s.onComp n f).fe.auxClamp = s.fe.auxClamp := rfl
@[simp] theorem chanOf_onComp : chanOf (s.onComp n f) = chanOf s := rfl
@[simp] theorem bankSt_onComp : bankSt (s.onComp n f) = bankSt s := rfl
@[simp] theorem excOf_onComp : excOf (s.onComp n f) = excOf s := rfl
@[simp] theorem tileOf_onComp : tileOf (s.onComp n f) = tileOf s := rfl
/-- What `onComp` puts reads back. -/
@[simp] theorem compOf_onComp : compOf (s.onComp n f) n = f (compOf s n) := tget_tset_same _ _ _ _
theorem compOf_onComp_other (k : Nat) (h : k ≠ n) : compOf (s.onComp n f) k = compOf s k := tget_tset_other _ _ _ _ _ h
@[simp] theorem auxOf_onComp : auxOf (s.onComp n f) = auxOf s := rfl
@[simp] theorem voutOf_onComp : voutOf (s.onComp n f) = voutOf s := rfl
@[simp] theorem strOf_onComp : strOf (s.onComp n f) = strOf s := rfl
@[simp] theorem grpOf_onComp : grpOf (s.onComp n f) = grpOf s := rfl
@[simp] theorem seqrOf_onComp : seqrOf (s.onComp n f) = seqrOf s := rfl
@[simp] theorem loopOf_onComp : loopOf (s.onComp n f) = loopOf s := rfl
@[simp] theorem portOf_onComp : portOf (s.onComp n f) = portOf s := rfl
@[simp] theorem fnOf_onComp : fnOf (s.onComp n f) = fnOf s := rfl
@[simp] theorem ntqOf_onComp : ntqOf (s.onComp n f) = ntqOf s := rfl
@[simp] theorem boxOf_onComp : boxOf (s.onComp n f) = boxOf s := rfl
@[simp] theorem monOf_onComp : monOf (s.onComp n f) = monOf s := rfl
@[simp] theorem paceOf_onComp : paceOf (s.onComp n f) = paceOf s := rfl
@[simp] theorem netOf_onComp : netOf (s.onComp n f) = netOf s := rfl
@[simp] theorem collOf_onComp : collOf (s.onComp n f) = collOf s := rfl
@[simp] theorem tdcOf_onComp : tdcOf (s.onComp n f) = tdcOf s := rfl
@[simp] theorem beaconOf_onComp : beaconOf (s.onComp n f) = beaconOf s := rfl
end

section
variable (s : State) (n : Nat) (f : AuxConv → AuxConv)
@[simp] theorem onAux_pending : (s.onAux n f).pending = s.pending := rfl
@[simp] theorem onAux_now : (s.onAux n f).now = s.now := rfl
@[simp] theorem onAux_freeCtr : (s.onAux n f).freeCtr = s.freeCtr := rfl
@[simp] theorem onAux_sent : (s.onAux n f).sent = s.sent := rfl
@[simp] theorem onAux_pwr : (s.onAux n f).pwr = s.pwr := rfl
@[simp] theorem onAux_glb : (s.onAux n f).glb = s.glb := rfl
@[simp] theorem onAux_io : (s.onAux n f).io = s.io := rfl
@[simp] theorem onAux_tb : (s.onAux n f).tb = s.tb := rfl
@[simp] theorem onAux_chd : (s.onAux n f).chd = s.chd := rfl
@[simp] theorem onAux_lin : (s.onAux n f).lin = s.lin := rfl
@[simp] theorem onAux_str : (s.onAux n f).str = s.str := rfl
@[simp] theorem onAux_trg : (s.onAux n f).trg = s.trg := rfl
@[simp] theorem onAux_rm : (s.onAux n f).rm = s.rm := rfl
@[simp] theorem onAux_cop : (s.onAux n f).cop = s.cop := rfl
@[simp] theorem onAux_wick : (s.onAux n f).wick = s.wick := rfl
@[simp] theorem onAux_cal : (s.onAux n f).cal = s.cal := rfl
@[simp] theorem onAux_mbx : (s.onAux n f).mbx = s.mbx := rfl
@[simp] theorem onAux_ntq : (s.onAux n f).ntq = s.ntq := rfl
@[simp] theorem onAux_fn : (s.onAux n f).fn = s.fn := rfl
@[simp] theorem onAux_pace : (s.onAux n f).pace = s.pace := rfl
@[simp] theorem onAux_mon : (s.onAux n f).mon = s.mon := rfl
@[simp] theorem onAux_net : (s.onAux n f).net = s.net := rfl
@[simp] theorem onAux_fe_chan : (s.onAux n f).fe.chan = s.fe.chan := rfl
@[simp] theorem onAux_fe_bank : (s.onAux n f).fe.bank = s.fe.bank := rfl
@[simp] theorem onAux_fe_exc : (s.onAux n f).fe.exc = s.fe.exc := rfl
@[simp] theorem onAux_fe_tile : (s.onAux n f).fe.tile = s.fe.tile := rfl
@[simp] theorem onAux_fe_comp : (s.onAux n f).fe.comp = s.fe.comp := rfl
@[simp] theorem onAux_fe_auxLast : (s.onAux n f).fe.auxLast = s.fe.auxLast := rfl
@[simp] theorem onAux_fe_auxClamp : (s.onAux n f).fe.auxClamp = s.fe.auxClamp := rfl
@[simp] theorem chanOf_onAux : chanOf (s.onAux n f) = chanOf s := rfl
@[simp] theorem bankSt_onAux : bankSt (s.onAux n f) = bankSt s := rfl
@[simp] theorem excOf_onAux : excOf (s.onAux n f) = excOf s := rfl
@[simp] theorem tileOf_onAux : tileOf (s.onAux n f) = tileOf s := rfl
@[simp] theorem compOf_onAux : compOf (s.onAux n f) = compOf s := rfl
/-- What `onAux` puts reads back. -/
@[simp] theorem auxOf_onAux : auxOf (s.onAux n f) n = f (auxOf s n) := tget_tset_same _ _ _ _
theorem auxOf_onAux_other (k : Nat) (h : k ≠ n) : auxOf (s.onAux n f) k = auxOf s k := tget_tset_other _ _ _ _ _ h
@[simp] theorem voutOf_onAux : voutOf (s.onAux n f) = voutOf s := rfl
@[simp] theorem strOf_onAux : strOf (s.onAux n f) = strOf s := rfl
@[simp] theorem grpOf_onAux : grpOf (s.onAux n f) = grpOf s := rfl
@[simp] theorem seqrOf_onAux : seqrOf (s.onAux n f) = seqrOf s := rfl
@[simp] theorem loopOf_onAux : loopOf (s.onAux n f) = loopOf s := rfl
@[simp] theorem portOf_onAux : portOf (s.onAux n f) = portOf s := rfl
@[simp] theorem fnOf_onAux : fnOf (s.onAux n f) = fnOf s := rfl
@[simp] theorem ntqOf_onAux : ntqOf (s.onAux n f) = ntqOf s := rfl
@[simp] theorem boxOf_onAux : boxOf (s.onAux n f) = boxOf s := rfl
@[simp] theorem monOf_onAux : monOf (s.onAux n f) = monOf s := rfl
@[simp] theorem paceOf_onAux : paceOf (s.onAux n f) = paceOf s := rfl
@[simp] theorem netOf_onAux : netOf (s.onAux n f) = netOf s := rfl
@[simp] theorem collOf_onAux : collOf (s.onAux n f) = collOf s := rfl
@[simp] theorem tdcOf_onAux : tdcOf (s.onAux n f) = tdcOf s := rfl
@[simp] theorem beaconOf_onAux : beaconOf (s.onAux n f) = beaconOf s := rfl
end

section
variable (s : State) (n : Nat) (f : Vout → Vout)
@[simp] theorem onVout_pending : (s.onVout n f).pending = s.pending := rfl
@[simp] theorem onVout_now : (s.onVout n f).now = s.now := rfl
@[simp] theorem onVout_freeCtr : (s.onVout n f).freeCtr = s.freeCtr := rfl
@[simp] theorem onVout_sent : (s.onVout n f).sent = s.sent := rfl
@[simp] theorem onVout_pwr : (s.onVout n f).pwr = s.pwr := rfl
@[simp] theorem onVout_glb : (s.onVout n f).glb = s.glb := rfl
@[simp] theorem onVout_io : (s.onVout n f).io = s.io := rfl
@[simp] theorem onVout_tb : (s.onVout n f).tb = s.tb := rfl
@[simp] theorem onVout_fe : (s.onVout n f).fe = s.fe := rfl
@[simp] theorem onVout_chd : (s.onVout n f).chd = s.chd := rfl
@[simp] theorem onVout_str : (s.onVout n f).str = s.str := rfl
@[simp] theorem onVout_trg : (s.onVout n f).trg = s.trg := rfl
@[simp] theorem onVout_rm : (s.onVout n f).rm = s.rm := rfl
@[simp] theorem onVout_cop : (s.onVout n f).cop = s.cop := rfl
@[simp] theorem onVout_wick : (s.onVout n f).wick = s.wick := rfl
@[simp] theorem onVout_cal : (s.onVout n f).cal = s.cal := rfl
@[simp] theorem onVout_mbx : (s.onVout n f).mbx = s.mbx := rfl
@[simp] theorem onVout_ntq : (s.onVout n f).ntq = s.ntq := rfl
@[simp] theorem onVout_fn : (s.onVout n f).fn = s.fn := rfl
@[simp] theorem onVout_pace : (s.onVout n f).pace = s.pace := rfl
@[simp] theorem onVout_mon : (s.onVout n f).mon = s.mon := rfl
@[simp] theorem onVout_net : (s.onVout n f).net = s.net := rfl
@[simp] theorem onVout_lin_desc : (s.onVout n f).lin.desc = s.lin.desc := rfl
@[simp] theorem onVout_lin_temp : (s.onVout n f).lin.temp = s.lin.temp := rfl
@[simp] theorem onVout_lin_descOld : (s.onVout n f).lin.descOld = s.lin.descOld := rfl
@[simp] theorem onVout_lin_corrOld : (s.onVout n f).lin.corrOld = s.lin.corrOld := rfl
@[simp] theorem onVout_lin_corr : (s.onVout n f).lin.corr = s.lin.corr := rfl
@[simp] theorem chanOf_onVout : chanOf (s.onVout n f) = chanOf s := rfl
@[simp] theorem bankSt_onVout : bankSt (s.onVout n f) = bankSt s := rfl
@[simp] theorem excOf_onVout : excOf (s.onVout n f) = excOf s := rfl
@[simp] theorem tileOf_onVout : tileOf (s.onVout n f) = tileOf s := rfl
@[simp] theorem compOf_onVout : compOf (s.onVout n f) = compOf s := rfl
@[simp] theorem auxOf_onVout : auxOf (s.onVout n f) = auxOf s := rfl
/-- What `onVout` puts reads back. -/
@[simp] theorem voutOf_onVout : voutOf (s.onVout n f) n = f (voutOf s n) := tget_tset_same _ _ _ _
theorem voutOf_onVout_other (k : Nat) (h : k ≠ n) : voutOf (s.onVout n f) k = voutOf s k := tget_tset_other _ _ _ _ _ h
@[simp] theorem strOf_onVout : strOf (s.onVout n f) = strOf s := rfl
@[simp] theorem grpOf_onVout : grpOf (s.onVout n f) = grpOf s := rfl
@[simp] theorem seqrOf_onVout : seqrOf (s.onVout n f) = seqrOf s := rfl
@[simp] theorem loopOf_onVout : loopOf (s.onVout n f) = loopOf s := rfl
@[simp] theorem portOf_onVout : portOf (s.onVout n f) = portOf s := rfl
@[simp] theorem fnOf_onVout : fnOf (s.onVout n f) = fnOf s := rfl
@[simp] theorem ntqOf_onVout : ntqOf (s.onVout n f) = ntqOf s := rfl
@[simp] theorem boxOf_onVout : boxOf (s.onVout n f) = boxOf s := rfl
@[simp] theorem monOf_onVout : monOf (s.onVout n f) = monOf s := rfl
@[simp] theorem paceOf_onVout : paceOf (s.onVout n f) = paceOf s := rfl
@[simp] theorem netOf_onVout : netOf (s.onVout n f) = netOf s := rfl
@[simp] theorem collOf_onVout : collOf (s.onVout n f) = collOf s := rfl
@[simp] theorem tdcOf_onVout : tdcOf (s.onVout n f) = tdcOf s := rfl
@[simp] theorem beaconOf_onVout : beaconOf (s.onVout n f) = beaconOf s := rfl
end

section
variable (s : State) (n : Nat) (f : Stream → Stream)
@[simp] theorem onStr_pending : (s.onStr n f).pending = s.pending := rfl
@[simp] theorem onStr_now : (s.onStr n f).now = s.now := rfl
@[simp] theorem onStr_freeCtr : (s.onStr n f).freeCtr = s.freeCtr := rfl
@[simp] theorem onStr_sent : (s.onStr n f).sent = s.sent := rfl
@[simp] theorem onStr_pwr : (s.onStr n f).pwr = s.pwr := rfl
@[simp] theorem onStr_glb : (s.onStr n f).glb = s.glb := rfl
@[simp] theorem onStr_io : (s.onStr n f).io = s.io := rfl
@[simp] theorem onStr_tb : (s.onStr n f).tb = s.tb := rfl
@[simp] theorem onStr_fe : (s.onStr n f).fe = s.fe := rfl
@[simp] theorem onStr_chd : (s.onStr n f).chd = s.chd := rfl
@[simp] theorem onStr_lin : (s.onStr n f).lin = s.lin := rfl
@[simp] theorem onStr_trg : (s.onStr n f).trg = s.trg := rfl
@[simp] theorem onStr_rm : (s.onStr n f).rm = s.rm := rfl
@[simp] theorem onStr_cop : (s.onStr n f).cop = s.cop := rfl
@[simp] theorem onStr_wick : (s.onStr n f).wick = s.wick := rfl
@[simp] theorem onStr_cal : (s.onStr n f).cal = s.cal := rfl
@[simp] theorem onStr_mbx : (s.onStr n f).mbx = s.mbx := rfl
@[simp] theorem onStr_ntq : (s.onStr n f).ntq = s.ntq := rfl
@[simp] theorem onStr_fn : (s.onStr n f).fn = s.fn := rfl
@[simp] theorem onStr_pace : (s.onStr n f).pace = s.pace := rfl
@[simp] theorem onStr_mon : (s.onStr n f).mon = s.mon := rfl
@[simp] theorem onStr_net : (s.onStr n f).net = s.net := rfl
@[simp] theorem onStr_str_red : (s.onStr n f).str.red = s.str.red := rfl
@[simp] theorem onStr_str_fabric : (s.onStr n f).str.fabric = s.str.fabric := rfl
@[simp] theorem onStr_str_fabHeldR : (s.onStr n f).str.fabHeldR = s.str.fabHeldR := rfl
@[simp] theorem onStr_str_fabBreak : (s.onStr n f).str.fabBreak = s.str.fabBreak := rfl
@[simp] theorem onStr_str_snap : (s.onStr n f).str.snap = s.str.snap := rfl
@[simp] theorem onStr_str_snapFab : (s.onStr n f).str.snapFab = s.str.snapFab := rfl
@[simp] theorem onStr_str_snapHeldR : (s.onStr n f).str.snapHeldR = s.str.snapHeldR := rfl
@[simp] theorem onStr_str_snapBreak : (s.onStr n f).str.snapBreak = s.str.snapBreak := rfl
@[simp] theorem onStr_str_checkSeq : (s.onStr n f).str.checkSeq = s.str.checkSeq := rfl
@[simp] theorem onStr_str_checkTick : (s.onStr n f).str.checkTick = s.str.checkTick := rfl
@[simp] theorem onStr_str_poolBreak : (s.onStr n f).str.poolBreak = s.str.poolBreak := rfl
@[simp] theorem onStr_str_handovers : (s.onStr n f).str.handovers = s.str.handovers := rfl
@[simp] theorem onStr_str_keptAcks : (s.onStr n f).str.keptAcks = s.str.keptAcks := rfl
@[simp] theorem chanOf_onStr : chanOf (s.onStr n f) = chanOf s := rfl
@[simp] theorem bankSt_onStr : bankSt (s.onStr n f) = bankSt s := rfl
@[simp] theorem excOf_onStr : excOf (s.onStr n f) = excOf s := rfl
@[simp] theorem tileOf_onStr : tileOf (s.onStr n f) = tileOf s := rfl
@[simp] theorem compOf_onStr : compOf (s.onStr n f) = compOf s := rfl
@[simp] theorem auxOf_onStr : auxOf (s.onStr n f) = auxOf s := rfl
@[simp] theorem voutOf_onStr : voutOf (s.onStr n f) = voutOf s := rfl
/-- What `onStr` puts reads back. -/
@[simp] theorem strOf_onStr : strOf (s.onStr n f) n = f (strOf s n) := tget_tset_same _ _ _ _
theorem strOf_onStr_other (k : Nat) (h : k ≠ n) : strOf (s.onStr n f) k = strOf s k := tget_tset_other _ _ _ _ _ h
@[simp] theorem grpOf_onStr : grpOf (s.onStr n f) = grpOf s := rfl
@[simp] theorem seqrOf_onStr : seqrOf (s.onStr n f) = seqrOf s := rfl
@[simp] theorem loopOf_onStr : loopOf (s.onStr n f) = loopOf s := rfl
@[simp] theorem portOf_onStr : portOf (s.onStr n f) = portOf s := rfl
@[simp] theorem fnOf_onStr : fnOf (s.onStr n f) = fnOf s := rfl
@[simp] theorem ntqOf_onStr : ntqOf (s.onStr n f) = ntqOf s := rfl
@[simp] theorem boxOf_onStr : boxOf (s.onStr n f) = boxOf s := rfl
@[simp] theorem monOf_onStr : monOf (s.onStr n f) = monOf s := rfl
@[simp] theorem paceOf_onStr : paceOf (s.onStr n f) = paceOf s := rfl
@[simp] theorem netOf_onStr : netOf (s.onStr n f) = netOf s := rfl
@[simp] theorem collOf_onStr : collOf (s.onStr n f) = collOf s := rfl
@[simp] theorem tdcOf_onStr : tdcOf (s.onStr n f) = tdcOf s := rfl
@[simp] theorem beaconOf_onStr : beaconOf (s.onStr n f) = beaconOf s := rfl
end

section
variable (s : State) (n : Nat) (f : Group → Group)
@[simp] theorem onGrp_pending : (s.onGrp n f).pending = s.pending := rfl
@[simp] theorem onGrp_now : (s.onGrp n f).now = s.now := rfl
@[simp] theorem onGrp_freeCtr : (s.onGrp n f).freeCtr = s.freeCtr := rfl
@[simp] theorem onGrp_sent : (s.onGrp n f).sent = s.sent := rfl
@[simp] theorem onGrp_pwr : (s.onGrp n f).pwr = s.pwr := rfl
@[simp] theorem onGrp_glb : (s.onGrp n f).glb = s.glb := rfl
@[simp] theorem onGrp_io : (s.onGrp n f).io = s.io := rfl
@[simp] theorem onGrp_tb : (s.onGrp n f).tb = s.tb := rfl
@[simp] theorem onGrp_fe : (s.onGrp n f).fe = s.fe := rfl
@[simp] theorem onGrp_chd : (s.onGrp n f).chd = s.chd := rfl
@[simp] theorem onGrp_lin : (s.onGrp n f).lin = s.lin := rfl
@[simp] theorem onGrp_str : (s.onGrp n f).str = s.str := rfl
@[simp] theorem onGrp_rm : (s.onGrp n f).rm = s.rm := rfl
@[simp] theorem onGrp_cop : (s.onGrp n f).cop = s.cop := rfl
@[simp] theorem onGrp_wick : (s.onGrp n f).wick = s.wick := rfl
@[simp] theorem onGrp_cal : (s.onGrp n f).cal = s.cal := rfl
@[simp] theorem onGrp_mbx : (s.onGrp n f).mbx = s.mbx := rfl
@[simp] theorem onGrp_ntq : (s.onGrp n f).ntq = s.ntq := rfl
@[simp] theorem onGrp_fn : (s.onGrp n f).fn = s.fn := rfl
@[simp] theorem onGrp_pace : (s.onGrp n f).pace = s.pace := rfl
@[simp] theorem onGrp_mon : (s.onGrp n f).mon = s.mon := rfl
@[simp] theorem onGrp_net : (s.onGrp n f).net = s.net := rfl
@[simp] theorem onGrp_trg_seqr : (s.onGrp n f).trg.seqr = s.trg.seqr := rfl
@[simp] theorem onGrp_trg_stamps : (s.onGrp n f).trg.stamps = s.trg.stamps := rfl
@[simp] theorem onGrp_trg_handled : (s.onGrp n f).trg.handled = s.trg.handled := rfl
@[simp] theorem chanOf_onGrp : chanOf (s.onGrp n f) = chanOf s := rfl
@[simp] theorem bankSt_onGrp : bankSt (s.onGrp n f) = bankSt s := rfl
@[simp] theorem excOf_onGrp : excOf (s.onGrp n f) = excOf s := rfl
@[simp] theorem tileOf_onGrp : tileOf (s.onGrp n f) = tileOf s := rfl
@[simp] theorem compOf_onGrp : compOf (s.onGrp n f) = compOf s := rfl
@[simp] theorem auxOf_onGrp : auxOf (s.onGrp n f) = auxOf s := rfl
@[simp] theorem voutOf_onGrp : voutOf (s.onGrp n f) = voutOf s := rfl
@[simp] theorem strOf_onGrp : strOf (s.onGrp n f) = strOf s := rfl
/-- What `onGrp` puts reads back. -/
@[simp] theorem grpOf_onGrp : grpOf (s.onGrp n f) n = f (grpOf s n) := tget_tset_same _ _ _ _
theorem grpOf_onGrp_other (k : Nat) (h : k ≠ n) : grpOf (s.onGrp n f) k = grpOf s k := tget_tset_other _ _ _ _ _ h
@[simp] theorem seqrOf_onGrp : seqrOf (s.onGrp n f) = seqrOf s := rfl
@[simp] theorem loopOf_onGrp : loopOf (s.onGrp n f) = loopOf s := rfl
@[simp] theorem portOf_onGrp : portOf (s.onGrp n f) = portOf s := rfl
@[simp] theorem fnOf_onGrp : fnOf (s.onGrp n f) = fnOf s := rfl
@[simp] theorem ntqOf_onGrp : ntqOf (s.onGrp n f) = ntqOf s := rfl
@[simp] theorem boxOf_onGrp : boxOf (s.onGrp n f) = boxOf s := rfl
@[simp] theorem monOf_onGrp : monOf (s.onGrp n f) = monOf s := rfl
@[simp] theorem paceOf_onGrp : paceOf (s.onGrp n f) = paceOf s := rfl
@[simp] theorem netOf_onGrp : netOf (s.onGrp n f) = netOf s := rfl
@[simp] theorem collOf_onGrp : collOf (s.onGrp n f) = collOf s := rfl
@[simp] theorem tdcOf_onGrp : tdcOf (s.onGrp n f) = tdcOf s := rfl
@[simp] theorem beaconOf_onGrp : beaconOf (s.onGrp n f) = beaconOf s := rfl
end

section
variable (s : State) (n : Nat) (f : Sequencer → Sequencer)
@[simp] theorem onSeqr_pending : (s.onSeqr n f).pending = s.pending := rfl
@[simp] theorem onSeqr_now : (s.onSeqr n f).now = s.now := rfl
@[simp] theorem onSeqr_freeCtr : (s.onSeqr n f).freeCtr = s.freeCtr := rfl
@[simp] theorem onSeqr_sent : (s.onSeqr n f).sent = s.sent := rfl
@[simp] theorem onSeqr_pwr : (s.onSeqr n f).pwr = s.pwr := rfl
@[simp] theorem onSeqr_glb : (s.onSeqr n f).glb = s.glb := rfl
@[simp] theorem onSeqr_io : (s.onSeqr n f).io = s.io := rfl
@[simp] theorem onSeqr_tb : (s.onSeqr n f).tb = s.tb := rfl
@[simp] theorem onSeqr_fe : (s.onSeqr n f).fe = s.fe := rfl
@[simp] theorem onSeqr_chd : (s.onSeqr n f).chd = s.chd := rfl
@[simp] theorem onSeqr_lin : (s.onSeqr n f).lin = s.lin := rfl
@[simp] theorem onSeqr_str : (s.onSeqr n f).str = s.str := rfl
@[simp] theorem onSeqr_rm : (s.onSeqr n f).rm = s.rm := rfl
@[simp] theorem onSeqr_cop : (s.onSeqr n f).cop = s.cop := rfl
@[simp] theorem onSeqr_wick : (s.onSeqr n f).wick = s.wick := rfl
@[simp] theorem onSeqr_cal : (s.onSeqr n f).cal = s.cal := rfl
@[simp] theorem onSeqr_mbx : (s.onSeqr n f).mbx = s.mbx := rfl
@[simp] theorem onSeqr_ntq : (s.onSeqr n f).ntq = s.ntq := rfl
@[simp] theorem onSeqr_fn : (s.onSeqr n f).fn = s.fn := rfl
@[simp] theorem onSeqr_pace : (s.onSeqr n f).pace = s.pace := rfl
@[simp] theorem onSeqr_mon : (s.onSeqr n f).mon = s.mon := rfl
@[simp] theorem onSeqr_net : (s.onSeqr n f).net = s.net := rfl
@[simp] theorem onSeqr_trg_grp : (s.onSeqr n f).trg.grp = s.trg.grp := rfl
@[simp] theorem onSeqr_trg_stamps : (s.onSeqr n f).trg.stamps = s.trg.stamps := rfl
@[simp] theorem onSeqr_trg_handled : (s.onSeqr n f).trg.handled = s.trg.handled := rfl
@[simp] theorem chanOf_onSeqr : chanOf (s.onSeqr n f) = chanOf s := rfl
@[simp] theorem bankSt_onSeqr : bankSt (s.onSeqr n f) = bankSt s := rfl
@[simp] theorem excOf_onSeqr : excOf (s.onSeqr n f) = excOf s := rfl
@[simp] theorem tileOf_onSeqr : tileOf (s.onSeqr n f) = tileOf s := rfl
@[simp] theorem compOf_onSeqr : compOf (s.onSeqr n f) = compOf s := rfl
@[simp] theorem auxOf_onSeqr : auxOf (s.onSeqr n f) = auxOf s := rfl
@[simp] theorem voutOf_onSeqr : voutOf (s.onSeqr n f) = voutOf s := rfl
@[simp] theorem strOf_onSeqr : strOf (s.onSeqr n f) = strOf s := rfl
@[simp] theorem grpOf_onSeqr : grpOf (s.onSeqr n f) = grpOf s := rfl
/-- What `onSeqr` puts reads back. -/
@[simp] theorem seqrOf_onSeqr : seqrOf (s.onSeqr n f) n = f (seqrOf s n) := tget_tset_same _ _ _ _
theorem seqrOf_onSeqr_other (k : Nat) (h : k ≠ n) : seqrOf (s.onSeqr n f) k = seqrOf s k := tget_tset_other _ _ _ _ _ h
@[simp] theorem loopOf_onSeqr : loopOf (s.onSeqr n f) = loopOf s := rfl
@[simp] theorem portOf_onSeqr : portOf (s.onSeqr n f) = portOf s := rfl
@[simp] theorem fnOf_onSeqr : fnOf (s.onSeqr n f) = fnOf s := rfl
@[simp] theorem ntqOf_onSeqr : ntqOf (s.onSeqr n f) = ntqOf s := rfl
@[simp] theorem boxOf_onSeqr : boxOf (s.onSeqr n f) = boxOf s := rfl
@[simp] theorem monOf_onSeqr : monOf (s.onSeqr n f) = monOf s := rfl
@[simp] theorem paceOf_onSeqr : paceOf (s.onSeqr n f) = paceOf s := rfl
@[simp] theorem netOf_onSeqr : netOf (s.onSeqr n f) = netOf s := rfl
@[simp] theorem collOf_onSeqr : collOf (s.onSeqr n f) = collOf s := rfl
@[simp] theorem tdcOf_onSeqr : tdcOf (s.onSeqr n f) = tdcOf s := rfl
@[simp] theorem beaconOf_onSeqr : beaconOf (s.onSeqr n f) = beaconOf s := rfl
end

section
variable (s : State) (n : Nat) (f : Loop → Loop)
@[simp] theorem onLoop_pending : (s.onLoop n f).pending = s.pending := rfl
@[simp] theorem onLoop_now : (s.onLoop n f).now = s.now := rfl
@[simp] theorem onLoop_freeCtr : (s.onLoop n f).freeCtr = s.freeCtr := rfl
@[simp] theorem onLoop_sent : (s.onLoop n f).sent = s.sent := rfl
@[simp] theorem onLoop_pwr : (s.onLoop n f).pwr = s.pwr := rfl
@[simp] theorem onLoop_glb : (s.onLoop n f).glb = s.glb := rfl
@[simp] theorem onLoop_io : (s.onLoop n f).io = s.io := rfl
@[simp] theorem onLoop_tb : (s.onLoop n f).tb = s.tb := rfl
@[simp] theorem onLoop_fe : (s.onLoop n f).fe = s.fe := rfl
@[simp] theorem onLoop_chd : (s.onLoop n f).chd = s.chd := rfl
@[simp] theorem onLoop_lin : (s.onLoop n f).lin = s.lin := rfl
@[simp] theorem onLoop_str : (s.onLoop n f).str = s.str := rfl
@[simp] theorem onLoop_trg : (s.onLoop n f).trg = s.trg := rfl
@[simp] theorem onLoop_rm : (s.onLoop n f).rm = s.rm := rfl
@[simp] theorem onLoop_cop : (s.onLoop n f).cop = s.cop := rfl
@[simp] theorem onLoop_cal : (s.onLoop n f).cal = s.cal := rfl
@[simp] theorem onLoop_mbx : (s.onLoop n f).mbx = s.mbx := rfl
@[simp] theorem onLoop_ntq : (s.onLoop n f).ntq = s.ntq := rfl
@[simp] theorem onLoop_fn : (s.onLoop n f).fn = s.fn := rfl
@[simp] theorem onLoop_pace : (s.onLoop n f).pace = s.pace := rfl
@[simp] theorem onLoop_mon : (s.onLoop n f).mon = s.mon := rfl
@[simp] theorem onLoop_net : (s.onLoop n f).net = s.net := rfl
@[simp] theorem onLoop_wick_active : (s.onLoop n f).wick.active = s.wick.active := rfl
@[simp] theorem onLoop_wick_fenced : (s.onLoop n f).wick.fenced = s.wick.fenced := rfl
@[simp] theorem onLoop_wick_home : (s.onLoop n f).wick.home = s.wick.home := rfl
@[simp] theorem onLoop_wick_station : (s.onLoop n f).wick.station = s.wick.station := rfl
@[simp] theorem onLoop_wick_interval : (s.onLoop n f).wick.interval = s.wick.interval := rfl
@[simp] theorem onLoop_wick_ckJ : (s.onLoop n f).wick.ckJ = s.wick.ckJ := rfl
@[simp] theorem onLoop_wick_ckSlot : (s.onLoop n f).wick.ckSlot = s.wick.ckSlot := rfl
@[simp] theorem onLoop_wick_ckSeq : (s.onLoop n f).wick.ckSeq = s.wick.ckSeq := rfl
@[simp] theorem onLoop_wick_skipped : (s.onLoop n f).wick.skipped = s.wick.skipped := rfl
@[simp] theorem onLoop_wick_failovers : (s.onLoop n f).wick.failovers = s.wick.failovers := rfl
@[simp] theorem onLoop_wick_fail : (s.onLoop n f).wick.fail = s.wick.fail := rfl
@[simp] theorem onLoop_wick_takeback : (s.onLoop n f).wick.takeback = s.wick.takeback := rfl
@[simp] theorem onLoop_wick_port : (s.onLoop n f).wick.port = s.wick.port := rfl
@[simp] theorem onLoop_wick_partner : (s.onLoop n f).wick.partner = s.wick.partner := rfl
@[simp] theorem onLoop_wick_pairKey : (s.onLoop n f).wick.pairKey = s.wick.pairKey := rfl
@[simp] theorem onLoop_wick_paired : (s.onLoop n f).wick.paired = s.wick.paired := rfl
@[simp] theorem onLoop_wick_pairs : (s.onLoop n f).wick.pairs = s.wick.pairs := rfl
@[simp] theorem onLoop_wick_hbSeq : (s.onLoop n f).wick.hbSeq = s.wick.hbSeq := rfl
@[simp] theorem onLoop_wick_hbLast : (s.onLoop n f).wick.hbLast = s.wick.hbLast := rfl
@[simp] theorem onLoop_wick_hbMask : (s.onLoop n f).wick.hbMask = s.wick.hbMask := rfl
@[simp] theorem onLoop_wick_pairLost : (s.onLoop n f).wick.pairLost = s.wick.pairLost := rfl
@[simp] theorem chanOf_onLoop : chanOf (s.onLoop n f) = chanOf s := rfl
@[simp] theorem bankSt_onLoop : bankSt (s.onLoop n f) = bankSt s := rfl
@[simp] theorem excOf_onLoop : excOf (s.onLoop n f) = excOf s := rfl
@[simp] theorem tileOf_onLoop : tileOf (s.onLoop n f) = tileOf s := rfl
@[simp] theorem compOf_onLoop : compOf (s.onLoop n f) = compOf s := rfl
@[simp] theorem auxOf_onLoop : auxOf (s.onLoop n f) = auxOf s := rfl
@[simp] theorem voutOf_onLoop : voutOf (s.onLoop n f) = voutOf s := rfl
@[simp] theorem strOf_onLoop : strOf (s.onLoop n f) = strOf s := rfl
@[simp] theorem grpOf_onLoop : grpOf (s.onLoop n f) = grpOf s := rfl
@[simp] theorem seqrOf_onLoop : seqrOf (s.onLoop n f) = seqrOf s := rfl
/-- What `onLoop` puts reads back. -/
@[simp] theorem loopOf_onLoop : loopOf (s.onLoop n f) n = f (loopOf s n) := tget_tset_same _ _ _ _
theorem loopOf_onLoop_other (k : Nat) (h : k ≠ n) : loopOf (s.onLoop n f) k = loopOf s k := tget_tset_other _ _ _ _ _ h
@[simp] theorem portOf_onLoop : portOf (s.onLoop n f) = portOf s := rfl
@[simp] theorem fnOf_onLoop : fnOf (s.onLoop n f) = fnOf s := rfl
@[simp] theorem ntqOf_onLoop : ntqOf (s.onLoop n f) = ntqOf s := rfl
@[simp] theorem boxOf_onLoop : boxOf (s.onLoop n f) = boxOf s := rfl
@[simp] theorem monOf_onLoop : monOf (s.onLoop n f) = monOf s := rfl
@[simp] theorem paceOf_onLoop : paceOf (s.onLoop n f) = paceOf s := rfl
@[simp] theorem netOf_onLoop : netOf (s.onLoop n f) = netOf s := rfl
@[simp] theorem collOf_onLoop : collOf (s.onLoop n f) = collOf s := rfl
@[simp] theorem tdcOf_onLoop : tdcOf (s.onLoop n f) = tdcOf s := rfl
@[simp] theorem beaconOf_onLoop : beaconOf (s.onLoop n f) = beaconOf s := rfl
end

section
variable (s : State) (n : Nat) (f : DrivePort → DrivePort)
@[simp] theorem onPort_pending : (s.onPort n f).pending = s.pending := rfl
@[simp] theorem onPort_now : (s.onPort n f).now = s.now := rfl
@[simp] theorem onPort_freeCtr : (s.onPort n f).freeCtr = s.freeCtr := rfl
@[simp] theorem onPort_sent : (s.onPort n f).sent = s.sent := rfl
@[simp] theorem onPort_pwr : (s.onPort n f).pwr = s.pwr := rfl
@[simp] theorem onPort_glb : (s.onPort n f).glb = s.glb := rfl
@[simp] theorem onPort_io : (s.onPort n f).io = s.io := rfl
@[simp] theorem onPort_tb : (s.onPort n f).tb = s.tb := rfl
@[simp] theorem onPort_fe : (s.onPort n f).fe = s.fe := rfl
@[simp] theorem onPort_chd : (s.onPort n f).chd = s.chd := rfl
@[simp] theorem onPort_lin : (s.onPort n f).lin = s.lin := rfl
@[simp] theorem onPort_str : (s.onPort n f).str = s.str := rfl
@[simp] theorem onPort_trg : (s.onPort n f).trg = s.trg := rfl
@[simp] theorem onPort_rm : (s.onPort n f).rm = s.rm := rfl
@[simp] theorem onPort_cop : (s.onPort n f).cop = s.cop := rfl
@[simp] theorem onPort_cal : (s.onPort n f).cal = s.cal := rfl
@[simp] theorem onPort_mbx : (s.onPort n f).mbx = s.mbx := rfl
@[simp] theorem onPort_ntq : (s.onPort n f).ntq = s.ntq := rfl
@[simp] theorem onPort_fn : (s.onPort n f).fn = s.fn := rfl
@[simp] theorem onPort_pace : (s.onPort n f).pace = s.pace := rfl
@[simp] theorem onPort_mon : (s.onPort n f).mon = s.mon := rfl
@[simp] theorem onPort_net : (s.onPort n f).net = s.net := rfl
@[simp] theorem onPort_wick_active : (s.onPort n f).wick.active = s.wick.active := rfl
@[simp] theorem onPort_wick_fenced : (s.onPort n f).wick.fenced = s.wick.fenced := rfl
@[simp] theorem onPort_wick_home : (s.onPort n f).wick.home = s.wick.home := rfl
@[simp] theorem onPort_wick_station : (s.onPort n f).wick.station = s.wick.station := rfl
@[simp] theorem onPort_wick_interval : (s.onPort n f).wick.interval = s.wick.interval := rfl
@[simp] theorem onPort_wick_ckJ : (s.onPort n f).wick.ckJ = s.wick.ckJ := rfl
@[simp] theorem onPort_wick_ckSlot : (s.onPort n f).wick.ckSlot = s.wick.ckSlot := rfl
@[simp] theorem onPort_wick_ckSeq : (s.onPort n f).wick.ckSeq = s.wick.ckSeq := rfl
@[simp] theorem onPort_wick_skipped : (s.onPort n f).wick.skipped = s.wick.skipped := rfl
@[simp] theorem onPort_wick_failovers : (s.onPort n f).wick.failovers = s.wick.failovers := rfl
@[simp] theorem onPort_wick_fail : (s.onPort n f).wick.fail = s.wick.fail := rfl
@[simp] theorem onPort_wick_takeback : (s.onPort n f).wick.takeback = s.wick.takeback := rfl
@[simp] theorem onPort_wick_loop : (s.onPort n f).wick.loop = s.wick.loop := rfl
@[simp] theorem onPort_wick_partner : (s.onPort n f).wick.partner = s.wick.partner := rfl
@[simp] theorem onPort_wick_pairKey : (s.onPort n f).wick.pairKey = s.wick.pairKey := rfl
@[simp] theorem onPort_wick_paired : (s.onPort n f).wick.paired = s.wick.paired := rfl
@[simp] theorem onPort_wick_pairs : (s.onPort n f).wick.pairs = s.wick.pairs := rfl
@[simp] theorem onPort_wick_hbSeq : (s.onPort n f).wick.hbSeq = s.wick.hbSeq := rfl
@[simp] theorem onPort_wick_hbLast : (s.onPort n f).wick.hbLast = s.wick.hbLast := rfl
@[simp] theorem onPort_wick_hbMask : (s.onPort n f).wick.hbMask = s.wick.hbMask := rfl
@[simp] theorem onPort_wick_pairLost : (s.onPort n f).wick.pairLost = s.wick.pairLost := rfl
@[simp] theorem chanOf_onPort : chanOf (s.onPort n f) = chanOf s := rfl
@[simp] theorem bankSt_onPort : bankSt (s.onPort n f) = bankSt s := rfl
@[simp] theorem excOf_onPort : excOf (s.onPort n f) = excOf s := rfl
@[simp] theorem tileOf_onPort : tileOf (s.onPort n f) = tileOf s := rfl
@[simp] theorem compOf_onPort : compOf (s.onPort n f) = compOf s := rfl
@[simp] theorem auxOf_onPort : auxOf (s.onPort n f) = auxOf s := rfl
@[simp] theorem voutOf_onPort : voutOf (s.onPort n f) = voutOf s := rfl
@[simp] theorem strOf_onPort : strOf (s.onPort n f) = strOf s := rfl
@[simp] theorem grpOf_onPort : grpOf (s.onPort n f) = grpOf s := rfl
@[simp] theorem seqrOf_onPort : seqrOf (s.onPort n f) = seqrOf s := rfl
@[simp] theorem loopOf_onPort : loopOf (s.onPort n f) = loopOf s := rfl
/-- What `onPort` puts reads back. -/
@[simp] theorem portOf_onPort : portOf (s.onPort n f) n = f (portOf s n) := tget_tset_same _ _ _ _
theorem portOf_onPort_other (k : Nat) (h : k ≠ n) : portOf (s.onPort n f) k = portOf s k := tget_tset_other _ _ _ _ _ h
@[simp] theorem fnOf_onPort : fnOf (s.onPort n f) = fnOf s := rfl
@[simp] theorem ntqOf_onPort : ntqOf (s.onPort n f) = ntqOf s := rfl
@[simp] theorem boxOf_onPort : boxOf (s.onPort n f) = boxOf s := rfl
@[simp] theorem monOf_onPort : monOf (s.onPort n f) = monOf s := rfl
@[simp] theorem paceOf_onPort : paceOf (s.onPort n f) = paceOf s := rfl
@[simp] theorem netOf_onPort : netOf (s.onPort n f) = netOf s := rfl
@[simp] theorem collOf_onPort : collOf (s.onPort n f) = collOf s := rfl
@[simp] theorem tdcOf_onPort : tdcOf (s.onPort n f) = tdcOf s := rfl
@[simp] theorem beaconOf_onPort : beaconOf (s.onPort n f) = beaconOf s := rfl
end

section
variable (s : State) (n : Nat) (f : Func → Func)
@[simp] theorem onFn_pending : (s.onFn n f).pending = s.pending := rfl
@[simp] theorem onFn_now : (s.onFn n f).now = s.now := rfl
@[simp] theorem onFn_freeCtr : (s.onFn n f).freeCtr = s.freeCtr := rfl
@[simp] theorem onFn_sent : (s.onFn n f).sent = s.sent := rfl
@[simp] theorem onFn_pwr : (s.onFn n f).pwr = s.pwr := rfl
@[simp] theorem onFn_glb : (s.onFn n f).glb = s.glb := rfl
@[simp] theorem onFn_io : (s.onFn n f).io = s.io := rfl
@[simp] theorem onFn_tb : (s.onFn n f).tb = s.tb := rfl
@[simp] theorem onFn_fe : (s.onFn n f).fe = s.fe := rfl
@[simp] theorem onFn_chd : (s.onFn n f).chd = s.chd := rfl
@[simp] theorem onFn_lin : (s.onFn n f).lin = s.lin := rfl
@[simp] theorem onFn_str : (s.onFn n f).str = s.str := rfl
@[simp] theorem onFn_trg : (s.onFn n f).trg = s.trg := rfl
@[simp] theorem onFn_rm : (s.onFn n f).rm = s.rm := rfl
@[simp] theorem onFn_cop : (s.onFn n f).cop = s.cop := rfl
@[simp] theorem onFn_wick : (s.onFn n f).wick = s.wick := rfl
@[simp] theorem onFn_cal : (s.onFn n f).cal = s.cal := rfl
@[simp] theorem onFn_mbx : (s.onFn n f).mbx = s.mbx := rfl
@[simp] theorem onFn_ntq : (s.onFn n f).ntq = s.ntq := rfl
@[simp] theorem onFn_pace : (s.onFn n f).pace = s.pace := rfl
@[simp] theorem onFn_mon : (s.onFn n f).mon = s.mon := rfl
@[simp] theorem onFn_net : (s.onFn n f).net = s.net := rfl
@[simp] theorem chanOf_onFn : chanOf (s.onFn n f) = chanOf s := rfl
@[simp] theorem bankSt_onFn : bankSt (s.onFn n f) = bankSt s := rfl
@[simp] theorem excOf_onFn : excOf (s.onFn n f) = excOf s := rfl
@[simp] theorem tileOf_onFn : tileOf (s.onFn n f) = tileOf s := rfl
@[simp] theorem compOf_onFn : compOf (s.onFn n f) = compOf s := rfl
@[simp] theorem auxOf_onFn : auxOf (s.onFn n f) = auxOf s := rfl
@[simp] theorem voutOf_onFn : voutOf (s.onFn n f) = voutOf s := rfl
@[simp] theorem strOf_onFn : strOf (s.onFn n f) = strOf s := rfl
@[simp] theorem grpOf_onFn : grpOf (s.onFn n f) = grpOf s := rfl
@[simp] theorem seqrOf_onFn : seqrOf (s.onFn n f) = seqrOf s := rfl
@[simp] theorem loopOf_onFn : loopOf (s.onFn n f) = loopOf s := rfl
@[simp] theorem portOf_onFn : portOf (s.onFn n f) = portOf s := rfl
/-- What `onFn` puts reads back. -/
@[simp] theorem fnOf_onFn : fnOf (s.onFn n f) n = f (fnOf s n) := tget_tset_same _ _ _ _
theorem fnOf_onFn_other (k : Nat) (h : k ≠ n) : fnOf (s.onFn n f) k = fnOf s k := tget_tset_other _ _ _ _ _ h
@[simp] theorem ntqOf_onFn : ntqOf (s.onFn n f) = ntqOf s := rfl
@[simp] theorem boxOf_onFn : boxOf (s.onFn n f) = boxOf s := rfl
@[simp] theorem monOf_onFn : monOf (s.onFn n f) = monOf s := rfl
@[simp] theorem paceOf_onFn : paceOf (s.onFn n f) = paceOf s := rfl
@[simp] theorem netOf_onFn : netOf (s.onFn n f) = netOf s := rfl
@[simp] theorem collOf_onFn : collOf (s.onFn n f) = collOf s := rfl
@[simp] theorem tdcOf_onFn : tdcOf (s.onFn n f) = tdcOf s := rfl
@[simp] theorem beaconOf_onFn : beaconOf (s.onFn n f) = beaconOf s := rfl
end

section
variable (s : State) (n : Nat) (f : Ntq → Ntq)
@[simp] theorem onNtq_pending : (s.onNtq n f).pending = s.pending := rfl
@[simp] theorem onNtq_now : (s.onNtq n f).now = s.now := rfl
@[simp] theorem onNtq_freeCtr : (s.onNtq n f).freeCtr = s.freeCtr := rfl
@[simp] theorem onNtq_sent : (s.onNtq n f).sent = s.sent := rfl
@[simp] theorem onNtq_pwr : (s.onNtq n f).pwr = s.pwr := rfl
@[simp] theorem onNtq_glb : (s.onNtq n f).glb = s.glb := rfl
@[simp] theorem onNtq_io : (s.onNtq n f).io = s.io := rfl
@[simp] theorem onNtq_tb : (s.onNtq n f).tb = s.tb := rfl
@[simp] theorem onNtq_fe : (s.onNtq n f).fe = s.fe := rfl
@[simp] theorem onNtq_chd : (s.onNtq n f).chd = s.chd := rfl
@[simp] theorem onNtq_lin : (s.onNtq n f).lin = s.lin := rfl
@[simp] theorem onNtq_str : (s.onNtq n f).str = s.str := rfl
@[simp] theorem onNtq_trg : (s.onNtq n f).trg = s.trg := rfl
@[simp] theorem onNtq_rm : (s.onNtq n f).rm = s.rm := rfl
@[simp] theorem onNtq_cop : (s.onNtq n f).cop = s.cop := rfl
@[simp] theorem onNtq_wick : (s.onNtq n f).wick = s.wick := rfl
@[simp] theorem onNtq_cal : (s.onNtq n f).cal = s.cal := rfl
@[simp] theorem onNtq_mbx : (s.onNtq n f).mbx = s.mbx := rfl
@[simp] theorem onNtq_fn : (s.onNtq n f).fn = s.fn := rfl
@[simp] theorem onNtq_pace : (s.onNtq n f).pace = s.pace := rfl
@[simp] theorem onNtq_mon : (s.onNtq n f).mon = s.mon := rfl
@[simp] theorem onNtq_net : (s.onNtq n f).net = s.net := rfl
@[simp] theorem chanOf_onNtq : chanOf (s.onNtq n f) = chanOf s := rfl
@[simp] theorem bankSt_onNtq : bankSt (s.onNtq n f) = bankSt s := rfl
@[simp] theorem excOf_onNtq : excOf (s.onNtq n f) = excOf s := rfl
@[simp] theorem tileOf_onNtq : tileOf (s.onNtq n f) = tileOf s := rfl
@[simp] theorem compOf_onNtq : compOf (s.onNtq n f) = compOf s := rfl
@[simp] theorem auxOf_onNtq : auxOf (s.onNtq n f) = auxOf s := rfl
@[simp] theorem voutOf_onNtq : voutOf (s.onNtq n f) = voutOf s := rfl
@[simp] theorem strOf_onNtq : strOf (s.onNtq n f) = strOf s := rfl
@[simp] theorem grpOf_onNtq : grpOf (s.onNtq n f) = grpOf s := rfl
@[simp] theorem seqrOf_onNtq : seqrOf (s.onNtq n f) = seqrOf s := rfl
@[simp] theorem loopOf_onNtq : loopOf (s.onNtq n f) = loopOf s := rfl
@[simp] theorem portOf_onNtq : portOf (s.onNtq n f) = portOf s := rfl
@[simp] theorem fnOf_onNtq : fnOf (s.onNtq n f) = fnOf s := rfl
/-- What `onNtq` puts reads back. -/
@[simp] theorem ntqOf_onNtq : ntqOf (s.onNtq n f) n = f (ntqOf s n) := tget_tset_same _ _ _ _
theorem ntqOf_onNtq_other (k : Nat) (h : k ≠ n) : ntqOf (s.onNtq n f) k = ntqOf s k := tget_tset_other _ _ _ _ _ h
@[simp] theorem boxOf_onNtq : boxOf (s.onNtq n f) = boxOf s := rfl
@[simp] theorem monOf_onNtq : monOf (s.onNtq n f) = monOf s := rfl
@[simp] theorem paceOf_onNtq : paceOf (s.onNtq n f) = paceOf s := rfl
@[simp] theorem netOf_onNtq : netOf (s.onNtq n f) = netOf s := rfl
@[simp] theorem collOf_onNtq : collOf (s.onNtq n f) = collOf s := rfl
@[simp] theorem tdcOf_onNtq : tdcOf (s.onNtq n f) = tdcOf s := rfl
@[simp] theorem beaconOf_onNtq : beaconOf (s.onNtq n f) = beaconOf s := rfl
end

section
variable (s : State) (n : Nat) (f : Mailbox → Mailbox)
@[simp] theorem onBox_pending : (s.onBox n f).pending = s.pending := rfl
@[simp] theorem onBox_now : (s.onBox n f).now = s.now := rfl
@[simp] theorem onBox_freeCtr : (s.onBox n f).freeCtr = s.freeCtr := rfl
@[simp] theorem onBox_sent : (s.onBox n f).sent = s.sent := rfl
@[simp] theorem onBox_pwr : (s.onBox n f).pwr = s.pwr := rfl
@[simp] theorem onBox_glb : (s.onBox n f).glb = s.glb := rfl
@[simp] theorem onBox_io : (s.onBox n f).io = s.io := rfl
@[simp] theorem onBox_tb : (s.onBox n f).tb = s.tb := rfl
@[simp] theorem onBox_fe : (s.onBox n f).fe = s.fe := rfl
@[simp] theorem onBox_chd : (s.onBox n f).chd = s.chd := rfl
@[simp] theorem onBox_lin : (s.onBox n f).lin = s.lin := rfl
@[simp] theorem onBox_str : (s.onBox n f).str = s.str := rfl
@[simp] theorem onBox_trg : (s.onBox n f).trg = s.trg := rfl
@[simp] theorem onBox_rm : (s.onBox n f).rm = s.rm := rfl
@[simp] theorem onBox_cop : (s.onBox n f).cop = s.cop := rfl
@[simp] theorem onBox_wick : (s.onBox n f).wick = s.wick := rfl
@[simp] theorem onBox_cal : (s.onBox n f).cal = s.cal := rfl
@[simp] theorem onBox_ntq : (s.onBox n f).ntq = s.ntq := rfl
@[simp] theorem onBox_fn : (s.onBox n f).fn = s.fn := rfl
@[simp] theorem onBox_pace : (s.onBox n f).pace = s.pace := rfl
@[simp] theorem onBox_mon : (s.onBox n f).mon = s.mon := rfl
@[simp] theorem onBox_net : (s.onBox n f).net = s.net := rfl
@[simp] theorem onBox_mbx_staged : (s.onBox n f).mbx.staged = s.mbx.staged := rfl
@[simp] theorem onBox_mbx_waitLedger : (s.onBox n f).mbx.waitLedger = s.mbx.waitLedger := rfl
@[simp] theorem chanOf_onBox : chanOf (s.onBox n f) = chanOf s := rfl
@[simp] theorem bankSt_onBox : bankSt (s.onBox n f) = bankSt s := rfl
@[simp] theorem excOf_onBox : excOf (s.onBox n f) = excOf s := rfl
@[simp] theorem tileOf_onBox : tileOf (s.onBox n f) = tileOf s := rfl
@[simp] theorem compOf_onBox : compOf (s.onBox n f) = compOf s := rfl
@[simp] theorem auxOf_onBox : auxOf (s.onBox n f) = auxOf s := rfl
@[simp] theorem voutOf_onBox : voutOf (s.onBox n f) = voutOf s := rfl
@[simp] theorem strOf_onBox : strOf (s.onBox n f) = strOf s := rfl
@[simp] theorem grpOf_onBox : grpOf (s.onBox n f) = grpOf s := rfl
@[simp] theorem seqrOf_onBox : seqrOf (s.onBox n f) = seqrOf s := rfl
@[simp] theorem loopOf_onBox : loopOf (s.onBox n f) = loopOf s := rfl
@[simp] theorem portOf_onBox : portOf (s.onBox n f) = portOf s := rfl
@[simp] theorem fnOf_onBox : fnOf (s.onBox n f) = fnOf s := rfl
@[simp] theorem ntqOf_onBox : ntqOf (s.onBox n f) = ntqOf s := rfl
/-- What `onBox` puts reads back. -/
@[simp] theorem boxOf_onBox : boxOf (s.onBox n f) n = f (boxOf s n) := tget_tset_same _ _ _ _
theorem boxOf_onBox_other (k : Nat) (h : k ≠ n) : boxOf (s.onBox n f) k = boxOf s k := tget_tset_other _ _ _ _ _ h
@[simp] theorem monOf_onBox : monOf (s.onBox n f) = monOf s := rfl
@[simp] theorem paceOf_onBox : paceOf (s.onBox n f) = paceOf s := rfl
@[simp] theorem netOf_onBox : netOf (s.onBox n f) = netOf s := rfl
@[simp] theorem collOf_onBox : collOf (s.onBox n f) = collOf s := rfl
@[simp] theorem tdcOf_onBox : tdcOf (s.onBox n f) = tdcOf s := rfl
@[simp] theorem beaconOf_onBox : beaconOf (s.onBox n f) = beaconOf s := rfl
end

section
variable (s : State) (n : Nat) (f : Monitor → Monitor)
@[simp] theorem onMon_pending : (s.onMon n f).pending = s.pending := rfl
@[simp] theorem onMon_now : (s.onMon n f).now = s.now := rfl
@[simp] theorem onMon_freeCtr : (s.onMon n f).freeCtr = s.freeCtr := rfl
@[simp] theorem onMon_sent : (s.onMon n f).sent = s.sent := rfl
@[simp] theorem onMon_pwr : (s.onMon n f).pwr = s.pwr := rfl
@[simp] theorem onMon_glb : (s.onMon n f).glb = s.glb := rfl
@[simp] theorem onMon_io : (s.onMon n f).io = s.io := rfl
@[simp] theorem onMon_tb : (s.onMon n f).tb = s.tb := rfl
@[simp] theorem onMon_fe : (s.onMon n f).fe = s.fe := rfl
@[simp] theorem onMon_chd : (s.onMon n f).chd = s.chd := rfl
@[simp] theorem onMon_lin : (s.onMon n f).lin = s.lin := rfl
@[simp] theorem onMon_str : (s.onMon n f).str = s.str := rfl
@[simp] theorem onMon_trg : (s.onMon n f).trg = s.trg := rfl
@[simp] theorem onMon_rm : (s.onMon n f).rm = s.rm := rfl
@[simp] theorem onMon_cop : (s.onMon n f).cop = s.cop := rfl
@[simp] theorem onMon_wick : (s.onMon n f).wick = s.wick := rfl
@[simp] theorem onMon_cal : (s.onMon n f).cal = s.cal := rfl
@[simp] theorem onMon_mbx : (s.onMon n f).mbx = s.mbx := rfl
@[simp] theorem onMon_ntq : (s.onMon n f).ntq = s.ntq := rfl
@[simp] theorem onMon_fn : (s.onMon n f).fn = s.fn := rfl
@[simp] theorem onMon_pace : (s.onMon n f).pace = s.pace := rfl
@[simp] theorem onMon_net : (s.onMon n f).net = s.net := rfl
@[simp] theorem chanOf_onMon : chanOf (s.onMon n f) = chanOf s := rfl
@[simp] theorem bankSt_onMon : bankSt (s.onMon n f) = bankSt s := rfl
@[simp] theorem excOf_onMon : excOf (s.onMon n f) = excOf s := rfl
@[simp] theorem tileOf_onMon : tileOf (s.onMon n f) = tileOf s := rfl
@[simp] theorem compOf_onMon : compOf (s.onMon n f) = compOf s := rfl
@[simp] theorem auxOf_onMon : auxOf (s.onMon n f) = auxOf s := rfl
@[simp] theorem voutOf_onMon : voutOf (s.onMon n f) = voutOf s := rfl
@[simp] theorem strOf_onMon : strOf (s.onMon n f) = strOf s := rfl
@[simp] theorem grpOf_onMon : grpOf (s.onMon n f) = grpOf s := rfl
@[simp] theorem seqrOf_onMon : seqrOf (s.onMon n f) = seqrOf s := rfl
@[simp] theorem loopOf_onMon : loopOf (s.onMon n f) = loopOf s := rfl
@[simp] theorem portOf_onMon : portOf (s.onMon n f) = portOf s := rfl
@[simp] theorem fnOf_onMon : fnOf (s.onMon n f) = fnOf s := rfl
@[simp] theorem ntqOf_onMon : ntqOf (s.onMon n f) = ntqOf s := rfl
@[simp] theorem boxOf_onMon : boxOf (s.onMon n f) = boxOf s := rfl
/-- What `onMon` puts reads back. -/
@[simp] theorem monOf_onMon : monOf (s.onMon n f) n = f (monOf s n) := tget_tset_same _ _ _ _
theorem monOf_onMon_other (k : Nat) (h : k ≠ n) : monOf (s.onMon n f) k = monOf s k := tget_tset_other _ _ _ _ _ h
@[simp] theorem paceOf_onMon : paceOf (s.onMon n f) = paceOf s := rfl
@[simp] theorem netOf_onMon : netOf (s.onMon n f) = netOf s := rfl
@[simp] theorem collOf_onMon : collOf (s.onMon n f) = collOf s := rfl
@[simp] theorem tdcOf_onMon : tdcOf (s.onMon n f) = tdcOf s := rfl
@[simp] theorem beaconOf_onMon : beaconOf (s.onMon n f) = beaconOf s := rfl
end

section
variable (s : State) (n : Nat) (f : Pace → Pace)
@[simp] theorem onPace_pending : (s.onPace n f).pending = s.pending := rfl
@[simp] theorem onPace_now : (s.onPace n f).now = s.now := rfl
@[simp] theorem onPace_freeCtr : (s.onPace n f).freeCtr = s.freeCtr := rfl
@[simp] theorem onPace_sent : (s.onPace n f).sent = s.sent := rfl
@[simp] theorem onPace_pwr : (s.onPace n f).pwr = s.pwr := rfl
@[simp] theorem onPace_glb : (s.onPace n f).glb = s.glb := rfl
@[simp] theorem onPace_io : (s.onPace n f).io = s.io := rfl
@[simp] theorem onPace_tb : (s.onPace n f).tb = s.tb := rfl
@[simp] theorem onPace_fe : (s.onPace n f).fe = s.fe := rfl
@[simp] theorem onPace_chd : (s.onPace n f).chd = s.chd := rfl
@[simp] theorem onPace_lin : (s.onPace n f).lin = s.lin := rfl
@[simp] theorem onPace_str : (s.onPace n f).str = s.str := rfl
@[simp] theorem onPace_trg : (s.onPace n f).trg = s.trg := rfl
@[simp] theorem onPace_rm : (s.onPace n f).rm = s.rm := rfl
@[simp] theorem onPace_cop : (s.onPace n f).cop = s.cop := rfl
@[simp] theorem onPace_wick : (s.onPace n f).wick = s.wick := rfl
@[simp] theorem onPace_cal : (s.onPace n f).cal = s.cal := rfl
@[simp] theorem onPace_mbx : (s.onPace n f).mbx = s.mbx := rfl
@[simp] theorem onPace_ntq : (s.onPace n f).ntq = s.ntq := rfl
@[simp] theorem onPace_fn : (s.onPace n f).fn = s.fn := rfl
@[simp] theorem onPace_mon : (s.onPace n f).mon = s.mon := rfl
@[simp] theorem onPace_net : (s.onPace n f).net = s.net := rfl
@[simp] theorem chanOf_onPace : chanOf (s.onPace n f) = chanOf s := rfl
@[simp] theorem bankSt_onPace : bankSt (s.onPace n f) = bankSt s := rfl
@[simp] theorem excOf_onPace : excOf (s.onPace n f) = excOf s := rfl
@[simp] theorem tileOf_onPace : tileOf (s.onPace n f) = tileOf s := rfl
@[simp] theorem compOf_onPace : compOf (s.onPace n f) = compOf s := rfl
@[simp] theorem auxOf_onPace : auxOf (s.onPace n f) = auxOf s := rfl
@[simp] theorem voutOf_onPace : voutOf (s.onPace n f) = voutOf s := rfl
@[simp] theorem strOf_onPace : strOf (s.onPace n f) = strOf s := rfl
@[simp] theorem grpOf_onPace : grpOf (s.onPace n f) = grpOf s := rfl
@[simp] theorem seqrOf_onPace : seqrOf (s.onPace n f) = seqrOf s := rfl
@[simp] theorem loopOf_onPace : loopOf (s.onPace n f) = loopOf s := rfl
@[simp] theorem portOf_onPace : portOf (s.onPace n f) = portOf s := rfl
@[simp] theorem fnOf_onPace : fnOf (s.onPace n f) = fnOf s := rfl
@[simp] theorem ntqOf_onPace : ntqOf (s.onPace n f) = ntqOf s := rfl
@[simp] theorem boxOf_onPace : boxOf (s.onPace n f) = boxOf s := rfl
@[simp] theorem monOf_onPace : monOf (s.onPace n f) = monOf s := rfl
/-- What `onPace` puts reads back. -/
@[simp] theorem paceOf_onPace : paceOf (s.onPace n f) n = f (paceOf s n) := tget_tset_same _ _ _ _
theorem paceOf_onPace_other (k : Nat) (h : k ≠ n) : paceOf (s.onPace n f) k = paceOf s k := tget_tset_other _ _ _ _ _ h
@[simp] theorem netOf_onPace : netOf (s.onPace n f) = netOf s := rfl
@[simp] theorem collOf_onPace : collOf (s.onPace n f) = collOf s := rfl
@[simp] theorem tdcOf_onPace : tdcOf (s.onPace n f) = tdcOf s := rfl
@[simp] theorem beaconOf_onPace : beaconOf (s.onPace n f) = beaconOf s := rfl
end

section
variable (s : State) (n : Nat) (f : NetPort → NetPort)
@[simp] theorem onNet_pending : (s.onNet n f).pending = s.pending := rfl
@[simp] theorem onNet_now : (s.onNet n f).now = s.now := rfl
@[simp] theorem onNet_freeCtr : (s.onNet n f).freeCtr = s.freeCtr := rfl
@[simp] theorem onNet_sent : (s.onNet n f).sent = s.sent := rfl
@[simp] theorem onNet_pwr : (s.onNet n f).pwr = s.pwr := rfl
@[simp] theorem onNet_glb : (s.onNet n f).glb = s.glb := rfl
@[simp] theorem onNet_io : (s.onNet n f).io = s.io := rfl
@[simp] theorem onNet_tb : (s.onNet n f).tb = s.tb := rfl
@[simp] theorem onNet_fe : (s.onNet n f).fe = s.fe := rfl
@[simp] theorem onNet_chd : (s.onNet n f).chd = s.chd := rfl
@[simp] theorem onNet_lin : (s.onNet n f).lin = s.lin := rfl
@[simp] theorem onNet_str : (s.onNet n f).str = s.str := rfl
@[simp] theorem onNet_trg : (s.onNet n f).trg = s.trg := rfl
@[simp] theorem onNet_rm : (s.onNet n f).rm = s.rm := rfl
@[simp] theorem onNet_cop : (s.onNet n f).cop = s.cop := rfl
@[simp] theorem onNet_wick : (s.onNet n f).wick = s.wick := rfl
@[simp] theorem onNet_cal : (s.onNet n f).cal = s.cal := rfl
@[simp] theorem onNet_mbx : (s.onNet n f).mbx = s.mbx := rfl
@[simp] theorem onNet_ntq : (s.onNet n f).ntq = s.ntq := rfl
@[simp] theorem onNet_fn : (s.onNet n f).fn = s.fn := rfl
@[simp] theorem onNet_pace : (s.onNet n f).pace = s.pace := rfl
@[simp] theorem onNet_mon : (s.onNet n f).mon = s.mon := rfl
@[simp] theorem onNet_net_table : (s.onNet n f).net.table = s.net.table := rfl
@[simp] theorem onNet_net_own : (s.onNet n f).net.own = s.net.own := rfl
@[simp] theorem onNet_net_v6Usable : (s.onNet n f).net.v6Usable = s.net.v6Usable := rfl
@[simp] theorem onNet_net_ring : (s.onNet n f).net.ring = s.net.ring := rfl
@[simp] theorem onNet_net_coll : (s.onNet n f).net.coll = s.net.coll := rfl
@[simp] theorem onNet_net_arp : (s.onNet n f).net.arp = s.net.arp := rfl
@[simp] theorem onNet_net_icmpSec : (s.onNet n f).net.icmpSec = s.net.icmpSec := rfl
@[simp] theorem onNet_net_icmpCnt : (s.onNet n f).net.icmpCnt = s.net.icmpCnt := rfl
@[simp] theorem onNet_net_ownRx : (s.onNet n f).net.ownRx = s.net.ownRx := rfl
@[simp] theorem onNet_net_keptReqs : (s.onNet n f).net.keptReqs = s.net.keptReqs := rfl
@[simp] theorem chanOf_onNet : chanOf (s.onNet n f) = chanOf s := rfl
@[simp] theorem bankSt_onNet : bankSt (s.onNet n f) = bankSt s := rfl
@[simp] theorem excOf_onNet : excOf (s.onNet n f) = excOf s := rfl
@[simp] theorem tileOf_onNet : tileOf (s.onNet n f) = tileOf s := rfl
@[simp] theorem compOf_onNet : compOf (s.onNet n f) = compOf s := rfl
@[simp] theorem auxOf_onNet : auxOf (s.onNet n f) = auxOf s := rfl
@[simp] theorem voutOf_onNet : voutOf (s.onNet n f) = voutOf s := rfl
@[simp] theorem strOf_onNet : strOf (s.onNet n f) = strOf s := rfl
@[simp] theorem grpOf_onNet : grpOf (s.onNet n f) = grpOf s := rfl
@[simp] theorem seqrOf_onNet : seqrOf (s.onNet n f) = seqrOf s := rfl
@[simp] theorem loopOf_onNet : loopOf (s.onNet n f) = loopOf s := rfl
@[simp] theorem portOf_onNet : portOf (s.onNet n f) = portOf s := rfl
@[simp] theorem fnOf_onNet : fnOf (s.onNet n f) = fnOf s := rfl
@[simp] theorem ntqOf_onNet : ntqOf (s.onNet n f) = ntqOf s := rfl
@[simp] theorem boxOf_onNet : boxOf (s.onNet n f) = boxOf s := rfl
@[simp] theorem monOf_onNet : monOf (s.onNet n f) = monOf s := rfl
@[simp] theorem paceOf_onNet : paceOf (s.onNet n f) = paceOf s := rfl
/-- What `onNet` puts reads back. -/
@[simp] theorem netOf_onNet : netOf (s.onNet n f) n = f (netOf s n) := tget_tset_same _ _ _ _
theorem netOf_onNet_other (k : Nat) (h : k ≠ n) : netOf (s.onNet n f) k = netOf s k := tget_tset_other _ _ _ _ _ h
@[simp] theorem collOf_onNet : collOf (s.onNet n f) = collOf s := rfl
@[simp] theorem tdcOf_onNet : tdcOf (s.onNet n f) = tdcOf s := rfl
@[simp] theorem beaconOf_onNet : beaconOf (s.onNet n f) = beaconOf s := rfl
end

section
variable (s : State) (n : Nat) (f : Collector → Collector)
@[simp] theorem onColl_pending : (s.onColl n f).pending = s.pending := rfl
@[simp] theorem onColl_now : (s.onColl n f).now = s.now := rfl
@[simp] theorem onColl_freeCtr : (s.onColl n f).freeCtr = s.freeCtr := rfl
@[simp] theorem onColl_sent : (s.onColl n f).sent = s.sent := rfl
@[simp] theorem onColl_pwr : (s.onColl n f).pwr = s.pwr := rfl
@[simp] theorem onColl_glb : (s.onColl n f).glb = s.glb := rfl
@[simp] theorem onColl_io : (s.onColl n f).io = s.io := rfl
@[simp] theorem onColl_tb : (s.onColl n f).tb = s.tb := rfl
@[simp] theorem onColl_fe : (s.onColl n f).fe = s.fe := rfl
@[simp] theorem onColl_chd : (s.onColl n f).chd = s.chd := rfl
@[simp] theorem onColl_lin : (s.onColl n f).lin = s.lin := rfl
@[simp] theorem onColl_str : (s.onColl n f).str = s.str := rfl
@[simp] theorem onColl_trg : (s.onColl n f).trg = s.trg := rfl
@[simp] theorem onColl_rm : (s.onColl n f).rm = s.rm := rfl
@[simp] theorem onColl_cop : (s.onColl n f).cop = s.cop := rfl
@[simp] theorem onColl_wick : (s.onColl n f).wick = s.wick := rfl
@[simp] theorem onColl_cal : (s.onColl n f).cal = s.cal := rfl
@[simp] theorem onColl_mbx : (s.onColl n f).mbx = s.mbx := rfl
@[simp] theorem onColl_ntq : (s.onColl n f).ntq = s.ntq := rfl
@[simp] theorem onColl_fn : (s.onColl n f).fn = s.fn := rfl
@[simp] theorem onColl_pace : (s.onColl n f).pace = s.pace := rfl
@[simp] theorem onColl_mon : (s.onColl n f).mon = s.mon := rfl
@[simp] theorem onColl_net_port : (s.onColl n f).net.port = s.net.port := rfl
@[simp] theorem onColl_net_table : (s.onColl n f).net.table = s.net.table := rfl
@[simp] theorem onColl_net_own : (s.onColl n f).net.own = s.net.own := rfl
@[simp] theorem onColl_net_v6Usable : (s.onColl n f).net.v6Usable = s.net.v6Usable := rfl
@[simp] theorem onColl_net_ring : (s.onColl n f).net.ring = s.net.ring := rfl
@[simp] theorem onColl_net_arp : (s.onColl n f).net.arp = s.net.arp := rfl
@[simp] theorem onColl_net_icmpSec : (s.onColl n f).net.icmpSec = s.net.icmpSec := rfl
@[simp] theorem onColl_net_icmpCnt : (s.onColl n f).net.icmpCnt = s.net.icmpCnt := rfl
@[simp] theorem onColl_net_ownRx : (s.onColl n f).net.ownRx = s.net.ownRx := rfl
@[simp] theorem onColl_net_keptReqs : (s.onColl n f).net.keptReqs = s.net.keptReqs := rfl
@[simp] theorem chanOf_onColl : chanOf (s.onColl n f) = chanOf s := rfl
@[simp] theorem bankSt_onColl : bankSt (s.onColl n f) = bankSt s := rfl
@[simp] theorem excOf_onColl : excOf (s.onColl n f) = excOf s := rfl
@[simp] theorem tileOf_onColl : tileOf (s.onColl n f) = tileOf s := rfl
@[simp] theorem compOf_onColl : compOf (s.onColl n f) = compOf s := rfl
@[simp] theorem auxOf_onColl : auxOf (s.onColl n f) = auxOf s := rfl
@[simp] theorem voutOf_onColl : voutOf (s.onColl n f) = voutOf s := rfl
@[simp] theorem strOf_onColl : strOf (s.onColl n f) = strOf s := rfl
@[simp] theorem grpOf_onColl : grpOf (s.onColl n f) = grpOf s := rfl
@[simp] theorem seqrOf_onColl : seqrOf (s.onColl n f) = seqrOf s := rfl
@[simp] theorem loopOf_onColl : loopOf (s.onColl n f) = loopOf s := rfl
@[simp] theorem portOf_onColl : portOf (s.onColl n f) = portOf s := rfl
@[simp] theorem fnOf_onColl : fnOf (s.onColl n f) = fnOf s := rfl
@[simp] theorem ntqOf_onColl : ntqOf (s.onColl n f) = ntqOf s := rfl
@[simp] theorem boxOf_onColl : boxOf (s.onColl n f) = boxOf s := rfl
@[simp] theorem monOf_onColl : monOf (s.onColl n f) = monOf s := rfl
@[simp] theorem paceOf_onColl : paceOf (s.onColl n f) = paceOf s := rfl
@[simp] theorem netOf_onColl : netOf (s.onColl n f) = netOf s := rfl
/-- What `onColl` puts reads back. -/
@[simp] theorem collOf_onColl : collOf (s.onColl n f) n = f (collOf s n) := tget_tset_same _ _ _ _
theorem collOf_onColl_other (k : Nat) (h : k ≠ n) : collOf (s.onColl n f) k = collOf s k := tget_tset_other _ _ _ _ _ h
@[simp] theorem tdcOf_onColl : tdcOf (s.onColl n f) = tdcOf s := rfl
@[simp] theorem beaconOf_onColl : beaconOf (s.onColl n f) = beaconOf s := rfl
end

section
variable (s : State) (n : Nat) (f : Tdc → Tdc)
@[simp] theorem onTdc_pending : (s.onTdc n f).pending = s.pending := rfl
@[simp] theorem onTdc_now : (s.onTdc n f).now = s.now := rfl
@[simp] theorem onTdc_freeCtr : (s.onTdc n f).freeCtr = s.freeCtr := rfl
@[simp] theorem onTdc_sent : (s.onTdc n f).sent = s.sent := rfl
@[simp] theorem onTdc_pwr : (s.onTdc n f).pwr = s.pwr := rfl
@[simp] theorem onTdc_glb : (s.onTdc n f).glb = s.glb := rfl
@[simp] theorem onTdc_io : (s.onTdc n f).io = s.io := rfl
@[simp] theorem onTdc_fe : (s.onTdc n f).fe = s.fe := rfl
@[simp] theorem onTdc_chd : (s.onTdc n f).chd = s.chd := rfl
@[simp] theorem onTdc_lin : (s.onTdc n f).lin = s.lin := rfl
@[simp] theorem onTdc_str : (s.onTdc n f).str = s.str := rfl
@[simp] theorem onTdc_trg : (s.onTdc n f).trg = s.trg := rfl
@[simp] theorem onTdc_rm : (s.onTdc n f).rm = s.rm := rfl
@[simp] theorem onTdc_cop : (s.onTdc n f).cop = s.cop := rfl
@[simp] theorem onTdc_wick : (s.onTdc n f).wick = s.wick := rfl
@[simp] theorem onTdc_cal : (s.onTdc n f).cal = s.cal := rfl
@[simp] theorem onTdc_mbx : (s.onTdc n f).mbx = s.mbx := rfl
@[simp] theorem onTdc_ntq : (s.onTdc n f).ntq = s.ntq := rfl
@[simp] theorem onTdc_fn : (s.onTdc n f).fn = s.fn := rfl
@[simp] theorem onTdc_pace : (s.onTdc n f).pace = s.pace := rfl
@[simp] theorem onTdc_mon : (s.onTdc n f).mon = s.mon := rfl
@[simp] theorem onTdc_net : (s.onTdc n f).net = s.net := rfl
@[simp] theorem onTdc_tb_state : (s.onTdc n f).tb.state = s.tb.state := rfl
@[simp] theorem onTdc_tb_tick : (s.onTdc n f).tb.tick = s.tb.tick := rfl
@[simp] theorem onTdc_tb_markSeq : (s.onTdc n f).tb.markSeq = s.tb.markSeq := rfl
@[simp] theorem onTdc_tb_tickNum : (s.onTdc n f).tb.tickNum = s.tb.tickNum := rfl
@[simp] theorem onTdc_tb_tickSec : (s.onTdc n f).tb.tickSec = s.tb.tickSec := rfl
@[simp] theorem onTdc_tb_tickNsec : (s.onTdc n f).tb.tickNsec = s.tb.tickNsec := rfl
@[simp] theorem onTdc_tb_tickHw : (s.onTdc n f).tb.tickHw = s.tb.tickHw := rfl
@[simp] theorem onTdc_tb_utcOffset : (s.onTdc n f).tb.utcOffset = s.tb.utcOffset := rfl
@[simp] theorem onTdc_tb_offset : (s.onTdc n f).tb.offset = s.tb.offset := rfl
@[simp] theorem onTdc_tb_ptpTerm : (s.onTdc n f).tb.ptpTerm = s.tb.ptpTerm := rfl
@[simp] theorem onTdc_tb_synceTerm : (s.onTdc n f).tb.synceTerm = s.tb.synceTerm := rfl
@[simp] theorem onTdc_tb_slewTerm : (s.onTdc n f).tb.slewTerm = s.tb.slewTerm := rfl
@[simp] theorem onTdc_tb_ptpBefore : (s.onTdc n f).tb.ptpBefore = s.tb.ptpBefore := rfl
@[simp] theorem onTdc_tb_servoUpd : (s.onTdc n f).tb.servoUpd = s.tb.servoUpd := rfl
@[simp] theorem onTdc_tb_servoLast : (s.onTdc n f).tb.servoLast = s.tb.servoLast := rfl
@[simp] theorem onTdc_tb_leave : (s.onTdc n f).tb.leave = s.tb.leave := rfl
@[simp] theorem onTdc_tb_act : (s.onTdc n f).tb.act = s.tb.act := rfl
@[simp] theorem onTdc_tb_dog : (s.onTdc n f).tb.dog = s.tb.dog := rfl
@[simp] theorem onTdc_tb_holdLog : (s.onTdc n f).tb.holdLog = s.tb.holdLog := rfl
@[simp] theorem onTdc_tb_nowLatch : (s.onTdc n f).tb.nowLatch = s.tb.nowLatch := rfl
@[simp] theorem onTdc_tb_cfg : (s.onTdc n f).tb.cfg = s.tb.cfg := rfl
@[simp] theorem onTdc_tb_masters : (s.onTdc n f).tb.masters = s.tb.masters := rfl
@[simp] theorem onTdc_tb_parent : (s.onTdc n f).tb.parent = s.tb.parent := rfl
@[simp] theorem onTdc_tb_qAnn : (s.onTdc n f).tb.qAnn = s.tb.qAnn := rfl
@[simp] theorem onTdc_tb_qSync : (s.onTdc n f).tb.qSync = s.tb.qSync := rfl
@[simp] theorem onTdc_tb_qDelay : (s.onTdc n f).tb.qDelay = s.tb.qDelay := rfl
@[simp] theorem onTdc_tb_postStep : (s.onTdc n f).tb.postStep = s.tb.postStep := rfl
@[simp] theorem onTdc_tb_syncWait : (s.onTdc n f).tb.syncWait = s.tb.syncWait := rfl
@[simp] theorem onTdc_tb_msDelay : (s.onTdc n f).tb.msDelay = s.tb.msDelay := rfl
@[simp] theorem onTdc_tb_smDelay : (s.onTdc n f).tb.smDelay = s.tb.smDelay := rfl
@[simp] theorem onTdc_tb_dreqWait : (s.onTdc n f).tb.dreqWait = s.tb.dreqWait := rfl
@[simp] theorem onTdc_tb_dreqSeq : (s.onTdc n f).tb.dreqSeq = s.tb.dreqSeq := rfl
@[simp] theorem onTdc_tb_synceMode : (s.onTdc n f).tb.synceMode = s.tb.synceMode := rfl
@[simp] theorem onTdc_tb_syncePort : (s.onTdc n f).tb.syncePort = s.tb.syncePort := rfl
@[simp] theorem onTdc_tb_syncePrio : (s.onTdc n f).tb.syncePrio = s.tb.syncePrio := rfl
@[simp] theorem onTdc_tb_synceSel : (s.onTdc n f).tb.synceSel = s.tb.synceSel := rfl
@[simp] theorem onTdc_tb_ql : (s.onTdc n f).tb.ql = s.tb.ql := rfl
@[simp] theorem onTdc_tb_syncePull : (s.onTdc n f).tb.syncePull = s.tb.syncePull := rfl
@[simp] theorem onTdc_tb_bwInForce : (s.onTdc n f).tb.bwInForce = s.tb.bwInForce := rfl
@[simp] theorem onTdc_tb_tsReport : (s.onTdc n f).tb.tsReport = s.tb.tsReport := rfl
@[simp] theorem onTdc_tb_evtEdges : (s.onTdc n f).tb.evtEdges = s.tb.evtEdges := rfl
@[simp] theorem onTdc_tb_freq : (s.onTdc n f).tb.freq = s.tb.freq := rfl
@[simp] theorem onTdc_tb_evBuf : (s.onTdc n f).tb.evBuf = s.tb.evBuf := rfl
@[simp] theorem onTdc_tb_evtLevel : (s.onTdc n f).tb.evtLevel = s.tb.evtLevel := rfl
@[simp] theorem onTdc_tb_beacon : (s.onTdc n f).tb.beacon = s.tb.beacon := rfl
@[simp] theorem chanOf_onTdc : chanOf (s.onTdc n f) = chanOf s := rfl
@[simp] theorem bankSt_onTdc : bankSt (s.onTdc n f) = bankSt s := rfl
@[simp] theorem excOf_onTdc : excOf (s.onTdc n f) = excOf s := rfl
@[simp] theorem tileOf_onTdc : tileOf (s.onTdc n f) = tileOf s := rfl
@[simp] theorem compOf_onTdc : compOf (s.onTdc n f) = compOf s := rfl
@[simp] theorem auxOf_onTdc : auxOf (s.onTdc n f) = auxOf s := rfl
@[simp] theorem voutOf_onTdc : voutOf (s.onTdc n f) = voutOf s := rfl
@[simp] theorem strOf_onTdc : strOf (s.onTdc n f) = strOf s := rfl
@[simp] theorem grpOf_onTdc : grpOf (s.onTdc n f) = grpOf s := rfl
@[simp] theorem seqrOf_onTdc : seqrOf (s.onTdc n f) = seqrOf s := rfl
@[simp] theorem loopOf_onTdc : loopOf (s.onTdc n f) = loopOf s := rfl
@[simp] theorem portOf_onTdc : portOf (s.onTdc n f) = portOf s := rfl
@[simp] theorem fnOf_onTdc : fnOf (s.onTdc n f) = fnOf s := rfl
@[simp] theorem ntqOf_onTdc : ntqOf (s.onTdc n f) = ntqOf s := rfl
@[simp] theorem boxOf_onTdc : boxOf (s.onTdc n f) = boxOf s := rfl
@[simp] theorem monOf_onTdc : monOf (s.onTdc n f) = monOf s := rfl
@[simp] theorem paceOf_onTdc : paceOf (s.onTdc n f) = paceOf s := rfl
@[simp] theorem netOf_onTdc : netOf (s.onTdc n f) = netOf s := rfl
@[simp] theorem collOf_onTdc : collOf (s.onTdc n f) = collOf s := rfl
/-- What `onTdc` puts reads back. -/
@[simp] theorem tdcOf_onTdc : tdcOf (s.onTdc n f) n = f (tdcOf s n) := tget_tset_same _ _ _ _
theorem tdcOf_onTdc_other (k : Nat) (h : k ≠ n) : tdcOf (s.onTdc n f) k = tdcOf s k := tget_tset_other _ _ _ _ _ h
@[simp] theorem beaconOf_onTdc : beaconOf (s.onTdc n f) = beaconOf s := rfl
end

section
variable (s : State) (n : Nat) (f : Beacon → Beacon)
@[simp] theorem onBeacon_pending : (s.onBeacon n f).pending = s.pending := rfl
@[simp] theorem onBeacon_now : (s.onBeacon n f).now = s.now := rfl
@[simp] theorem onBeacon_freeCtr : (s.onBeacon n f).freeCtr = s.freeCtr := rfl
@[simp] theorem onBeacon_sent : (s.onBeacon n f).sent = s.sent := rfl
@[simp] theorem onBeacon_pwr : (s.onBeacon n f).pwr = s.pwr := rfl
@[simp] theorem onBeacon_glb : (s.onBeacon n f).glb = s.glb := rfl
@[simp] theorem onBeacon_io : (s.onBeacon n f).io = s.io := rfl
@[simp] theorem onBeacon_fe : (s.onBeacon n f).fe = s.fe := rfl
@[simp] theorem onBeacon_chd : (s.onBeacon n f).chd = s.chd := rfl
@[simp] theorem onBeacon_lin : (s.onBeacon n f).lin = s.lin := rfl
@[simp] theorem onBeacon_str : (s.onBeacon n f).str = s.str := rfl
@[simp] theorem onBeacon_trg : (s.onBeacon n f).trg = s.trg := rfl
@[simp] theorem onBeacon_rm : (s.onBeacon n f).rm = s.rm := rfl
@[simp] theorem onBeacon_cop : (s.onBeacon n f).cop = s.cop := rfl
@[simp] theorem onBeacon_wick : (s.onBeacon n f).wick = s.wick := rfl
@[simp] theorem onBeacon_cal : (s.onBeacon n f).cal = s.cal := rfl
@[simp] theorem onBeacon_mbx : (s.onBeacon n f).mbx = s.mbx := rfl
@[simp] theorem onBeacon_ntq : (s.onBeacon n f).ntq = s.ntq := rfl
@[simp] theorem onBeacon_fn : (s.onBeacon n f).fn = s.fn := rfl
@[simp] theorem onBeacon_pace : (s.onBeacon n f).pace = s.pace := rfl
@[simp] theorem onBeacon_mon : (s.onBeacon n f).mon = s.mon := rfl
@[simp] theorem onBeacon_net : (s.onBeacon n f).net = s.net := rfl
@[simp] theorem onBeacon_tb_state : (s.onBeacon n f).tb.state = s.tb.state := rfl
@[simp] theorem onBeacon_tb_tick : (s.onBeacon n f).tb.tick = s.tb.tick := rfl
@[simp] theorem onBeacon_tb_markSeq : (s.onBeacon n f).tb.markSeq = s.tb.markSeq := rfl
@[simp] theorem onBeacon_tb_tickNum : (s.onBeacon n f).tb.tickNum = s.tb.tickNum := rfl
@[simp] theorem onBeacon_tb_tickSec : (s.onBeacon n f).tb.tickSec = s.tb.tickSec := rfl
@[simp] theorem onBeacon_tb_tickNsec : (s.onBeacon n f).tb.tickNsec = s.tb.tickNsec := rfl
@[simp] theorem onBeacon_tb_tickHw : (s.onBeacon n f).tb.tickHw = s.tb.tickHw := rfl
@[simp] theorem onBeacon_tb_utcOffset : (s.onBeacon n f).tb.utcOffset = s.tb.utcOffset := rfl
@[simp] theorem onBeacon_tb_offset : (s.onBeacon n f).tb.offset = s.tb.offset := rfl
@[simp] theorem onBeacon_tb_ptpTerm : (s.onBeacon n f).tb.ptpTerm = s.tb.ptpTerm := rfl
@[simp] theorem onBeacon_tb_synceTerm : (s.onBeacon n f).tb.synceTerm = s.tb.synceTerm := rfl
@[simp] theorem onBeacon_tb_slewTerm : (s.onBeacon n f).tb.slewTerm = s.tb.slewTerm := rfl
@[simp] theorem onBeacon_tb_ptpBefore : (s.onBeacon n f).tb.ptpBefore = s.tb.ptpBefore := rfl
@[simp] theorem onBeacon_tb_servoUpd : (s.onBeacon n f).tb.servoUpd = s.tb.servoUpd := rfl
@[simp] theorem onBeacon_tb_servoLast : (s.onBeacon n f).tb.servoLast = s.tb.servoLast := rfl
@[simp] theorem onBeacon_tb_leave : (s.onBeacon n f).tb.leave = s.tb.leave := rfl
@[simp] theorem onBeacon_tb_act : (s.onBeacon n f).tb.act = s.tb.act := rfl
@[simp] theorem onBeacon_tb_dog : (s.onBeacon n f).tb.dog = s.tb.dog := rfl
@[simp] theorem onBeacon_tb_holdLog : (s.onBeacon n f).tb.holdLog = s.tb.holdLog := rfl
@[simp] theorem onBeacon_tb_nowLatch : (s.onBeacon n f).tb.nowLatch = s.tb.nowLatch := rfl
@[simp] theorem onBeacon_tb_cfg : (s.onBeacon n f).tb.cfg = s.tb.cfg := rfl
@[simp] theorem onBeacon_tb_masters : (s.onBeacon n f).tb.masters = s.tb.masters := rfl
@[simp] theorem onBeacon_tb_parent : (s.onBeacon n f).tb.parent = s.tb.parent := rfl
@[simp] theorem onBeacon_tb_qAnn : (s.onBeacon n f).tb.qAnn = s.tb.qAnn := rfl
@[simp] theorem onBeacon_tb_qSync : (s.onBeacon n f).tb.qSync = s.tb.qSync := rfl
@[simp] theorem onBeacon_tb_qDelay : (s.onBeacon n f).tb.qDelay = s.tb.qDelay := rfl
@[simp] theorem onBeacon_tb_postStep : (s.onBeacon n f).tb.postStep = s.tb.postStep := rfl
@[simp] theorem onBeacon_tb_syncWait : (s.onBeacon n f).tb.syncWait = s.tb.syncWait := rfl
@[simp] theorem onBeacon_tb_msDelay : (s.onBeacon n f).tb.msDelay = s.tb.msDelay := rfl
@[simp] theorem onBeacon_tb_smDelay : (s.onBeacon n f).tb.smDelay = s.tb.smDelay := rfl
@[simp] theorem onBeacon_tb_dreqWait : (s.onBeacon n f).tb.dreqWait = s.tb.dreqWait := rfl
@[simp] theorem onBeacon_tb_dreqSeq : (s.onBeacon n f).tb.dreqSeq = s.tb.dreqSeq := rfl
@[simp] theorem onBeacon_tb_synceMode : (s.onBeacon n f).tb.synceMode = s.tb.synceMode := rfl
@[simp] theorem onBeacon_tb_syncePort : (s.onBeacon n f).tb.syncePort = s.tb.syncePort := rfl
@[simp] theorem onBeacon_tb_syncePrio : (s.onBeacon n f).tb.syncePrio = s.tb.syncePrio := rfl
@[simp] theorem onBeacon_tb_synceSel : (s.onBeacon n f).tb.synceSel = s.tb.synceSel := rfl
@[simp] theorem onBeacon_tb_ql : (s.onBeacon n f).tb.ql = s.tb.ql := rfl
@[simp] theorem onBeacon_tb_syncePull : (s.onBeacon n f).tb.syncePull = s.tb.syncePull := rfl
@[simp] theorem onBeacon_tb_bwInForce : (s.onBeacon n f).tb.bwInForce = s.tb.bwInForce := rfl
@[simp] theorem onBeacon_tb_tsReport : (s.onBeacon n f).tb.tsReport = s.tb.tsReport := rfl
@[simp] theorem onBeacon_tb_tdc : (s.onBeacon n f).tb.tdc = s.tb.tdc := rfl
@[simp] theorem onBeacon_tb_evtEdges : (s.onBeacon n f).tb.evtEdges = s.tb.evtEdges := rfl
@[simp] theorem onBeacon_tb_freq : (s.onBeacon n f).tb.freq = s.tb.freq := rfl
@[simp] theorem onBeacon_tb_evBuf : (s.onBeacon n f).tb.evBuf = s.tb.evBuf := rfl
@[simp] theorem onBeacon_tb_evtLevel : (s.onBeacon n f).tb.evtLevel = s.tb.evtLevel := rfl
@[simp] theorem chanOf_onBeacon : chanOf (s.onBeacon n f) = chanOf s := rfl
@[simp] theorem bankSt_onBeacon : bankSt (s.onBeacon n f) = bankSt s := rfl
@[simp] theorem excOf_onBeacon : excOf (s.onBeacon n f) = excOf s := rfl
@[simp] theorem tileOf_onBeacon : tileOf (s.onBeacon n f) = tileOf s := rfl
@[simp] theorem compOf_onBeacon : compOf (s.onBeacon n f) = compOf s := rfl
@[simp] theorem auxOf_onBeacon : auxOf (s.onBeacon n f) = auxOf s := rfl
@[simp] theorem voutOf_onBeacon : voutOf (s.onBeacon n f) = voutOf s := rfl
@[simp] theorem strOf_onBeacon : strOf (s.onBeacon n f) = strOf s := rfl
@[simp] theorem grpOf_onBeacon : grpOf (s.onBeacon n f) = grpOf s := rfl
@[simp] theorem seqrOf_onBeacon : seqrOf (s.onBeacon n f) = seqrOf s := rfl
@[simp] theorem loopOf_onBeacon : loopOf (s.onBeacon n f) = loopOf s := rfl
@[simp] theorem portOf_onBeacon : portOf (s.onBeacon n f) = portOf s := rfl
@[simp] theorem fnOf_onBeacon : fnOf (s.onBeacon n f) = fnOf s := rfl
@[simp] theorem ntqOf_onBeacon : ntqOf (s.onBeacon n f) = ntqOf s := rfl
@[simp] theorem boxOf_onBeacon : boxOf (s.onBeacon n f) = boxOf s := rfl
@[simp] theorem monOf_onBeacon : monOf (s.onBeacon n f) = monOf s := rfl
@[simp] theorem paceOf_onBeacon : paceOf (s.onBeacon n f) = paceOf s := rfl
@[simp] theorem netOf_onBeacon : netOf (s.onBeacon n f) = netOf s := rfl
@[simp] theorem collOf_onBeacon : collOf (s.onBeacon n f) = collOf s := rfl
@[simp] theorem tdcOf_onBeacon : tdcOf (s.onBeacon n f) = tdcOf s := rfl
/-- What `onBeacon` puts reads back. -/
@[simp] theorem beaconOf_onBeacon : beaconOf (s.onBeacon n f) n = f (beaconOf s n) := tget_tset_same _ _ _ _
theorem beaconOf_onBeacon_other (k : Nat) (h : k ≠ n) : beaconOf (s.onBeacon n f) k = beaconOf s k := tget_tset_other _ _ _ _ _ h
end

section
variable (s : State) (f : TimeBase → TimeBase)
@[simp] theorem onTb_pending : (s.onTb f).pending = s.pending := rfl
@[simp] theorem onTb_now : (s.onTb f).now = s.now := rfl
@[simp] theorem onTb_freeCtr : (s.onTb f).freeCtr = s.freeCtr := rfl
@[simp] theorem onTb_sent : (s.onTb f).sent = s.sent := rfl
@[simp] theorem onTb_pwr : (s.onTb f).pwr = s.pwr := rfl
@[simp] theorem onTb_glb : (s.onTb f).glb = s.glb := rfl
@[simp] theorem onTb_io : (s.onTb f).io = s.io := rfl
@[simp] theorem onTb_tb : (s.onTb f).tb = f s.tb := rfl
@[simp] theorem onTb_fe : (s.onTb f).fe = s.fe := rfl
@[simp] theorem onTb_chd : (s.onTb f).chd = s.chd := rfl
@[simp] theorem onTb_lin : (s.onTb f).lin = s.lin := rfl
@[simp] theorem onTb_str : (s.onTb f).str = s.str := rfl
@[simp] theorem onTb_trg : (s.onTb f).trg = s.trg := rfl
@[simp] theorem onTb_rm : (s.onTb f).rm = s.rm := rfl
@[simp] theorem onTb_cop : (s.onTb f).cop = s.cop := rfl
@[simp] theorem onTb_wick : (s.onTb f).wick = s.wick := rfl
@[simp] theorem onTb_cal : (s.onTb f).cal = s.cal := rfl
@[simp] theorem onTb_mbx : (s.onTb f).mbx = s.mbx := rfl
@[simp] theorem onTb_ntq : (s.onTb f).ntq = s.ntq := rfl
@[simp] theorem onTb_fn : (s.onTb f).fn = s.fn := rfl
@[simp] theorem onTb_pace : (s.onTb f).pace = s.pace := rfl
@[simp] theorem onTb_mon : (s.onTb f).mon = s.mon := rfl
@[simp] theorem onTb_net : (s.onTb f).net = s.net := rfl
@[simp] theorem chanOf_onTb : chanOf (s.onTb f) = chanOf s := rfl
@[simp] theorem bankSt_onTb : bankSt (s.onTb f) = bankSt s := rfl
@[simp] theorem excOf_onTb : excOf (s.onTb f) = excOf s := rfl
@[simp] theorem tileOf_onTb : tileOf (s.onTb f) = tileOf s := rfl
@[simp] theorem compOf_onTb : compOf (s.onTb f) = compOf s := rfl
@[simp] theorem auxOf_onTb : auxOf (s.onTb f) = auxOf s := rfl
@[simp] theorem voutOf_onTb : voutOf (s.onTb f) = voutOf s := rfl
@[simp] theorem strOf_onTb : strOf (s.onTb f) = strOf s := rfl
@[simp] theorem grpOf_onTb : grpOf (s.onTb f) = grpOf s := rfl
@[simp] theorem seqrOf_onTb : seqrOf (s.onTb f) = seqrOf s := rfl
@[simp] theorem loopOf_onTb : loopOf (s.onTb f) = loopOf s := rfl
@[simp] theorem portOf_onTb : portOf (s.onTb f) = portOf s := rfl
@[simp] theorem fnOf_onTb : fnOf (s.onTb f) = fnOf s := rfl
@[simp] theorem ntqOf_onTb : ntqOf (s.onTb f) = ntqOf s := rfl
@[simp] theorem boxOf_onTb : boxOf (s.onTb f) = boxOf s := rfl
@[simp] theorem monOf_onTb : monOf (s.onTb f) = monOf s := rfl
@[simp] theorem paceOf_onTb : paceOf (s.onTb f) = paceOf s := rfl
@[simp] theorem netOf_onTb : netOf (s.onTb f) = netOf s := rfl
@[simp] theorem collOf_onTb : collOf (s.onTb f) = collOf s := rfl
end

section
variable (s : State) (f : Power → Power)
@[simp] theorem onPwr_pending : (s.onPwr f).pending = s.pending := rfl
@[simp] theorem onPwr_now : (s.onPwr f).now = s.now := rfl
@[simp] theorem onPwr_freeCtr : (s.onPwr f).freeCtr = s.freeCtr := rfl
@[simp] theorem onPwr_sent : (s.onPwr f).sent = s.sent := rfl
@[simp] theorem onPwr_pwr : (s.onPwr f).pwr = f s.pwr := rfl
@[simp] theorem onPwr_glb : (s.onPwr f).glb = s.glb := rfl
@[simp] theorem onPwr_io : (s.onPwr f).io = s.io := rfl
@[simp] theorem onPwr_tb : (s.onPwr f).tb = s.tb := rfl
@[simp] theorem onPwr_fe : (s.onPwr f).fe = s.fe := rfl
@[simp] theorem onPwr_chd : (s.onPwr f).chd = s.chd := rfl
@[simp] theorem onPwr_lin : (s.onPwr f).lin = s.lin := rfl
@[simp] theorem onPwr_str : (s.onPwr f).str = s.str := rfl
@[simp] theorem onPwr_trg : (s.onPwr f).trg = s.trg := rfl
@[simp] theorem onPwr_rm : (s.onPwr f).rm = s.rm := rfl
@[simp] theorem onPwr_cop : (s.onPwr f).cop = s.cop := rfl
@[simp] theorem onPwr_wick : (s.onPwr f).wick = s.wick := rfl
@[simp] theorem onPwr_cal : (s.onPwr f).cal = s.cal := rfl
@[simp] theorem onPwr_mbx : (s.onPwr f).mbx = s.mbx := rfl
@[simp] theorem onPwr_ntq : (s.onPwr f).ntq = s.ntq := rfl
@[simp] theorem onPwr_fn : (s.onPwr f).fn = s.fn := rfl
@[simp] theorem onPwr_pace : (s.onPwr f).pace = s.pace := rfl
@[simp] theorem onPwr_mon : (s.onPwr f).mon = s.mon := rfl
@[simp] theorem onPwr_net : (s.onPwr f).net = s.net := rfl
@[simp] theorem chanOf_onPwr : chanOf (s.onPwr f) = chanOf s := rfl
@[simp] theorem bankSt_onPwr : bankSt (s.onPwr f) = bankSt s := rfl
@[simp] theorem excOf_onPwr : excOf (s.onPwr f) = excOf s := rfl
@[simp] theorem tileOf_onPwr : tileOf (s.onPwr f) = tileOf s := rfl
@[simp] theorem compOf_onPwr : compOf (s.onPwr f) = compOf s := rfl
@[simp] theorem auxOf_onPwr : auxOf (s.onPwr f) = auxOf s := rfl
@[simp] theorem voutOf_onPwr : voutOf (s.onPwr f) = voutOf s := rfl
@[simp] theorem strOf_onPwr : strOf (s.onPwr f) = strOf s := rfl
@[simp] theorem grpOf_onPwr : grpOf (s.onPwr f) = grpOf s := rfl
@[simp] theorem seqrOf_onPwr : seqrOf (s.onPwr f) = seqrOf s := rfl
@[simp] theorem loopOf_onPwr : loopOf (s.onPwr f) = loopOf s := rfl
@[simp] theorem portOf_onPwr : portOf (s.onPwr f) = portOf s := rfl
@[simp] theorem fnOf_onPwr : fnOf (s.onPwr f) = fnOf s := rfl
@[simp] theorem ntqOf_onPwr : ntqOf (s.onPwr f) = ntqOf s := rfl
@[simp] theorem boxOf_onPwr : boxOf (s.onPwr f) = boxOf s := rfl
@[simp] theorem monOf_onPwr : monOf (s.onPwr f) = monOf s := rfl
@[simp] theorem paceOf_onPwr : paceOf (s.onPwr f) = paceOf s := rfl
@[simp] theorem netOf_onPwr : netOf (s.onPwr f) = netOf s := rfl
@[simp] theorem collOf_onPwr : collOf (s.onPwr f) = collOf s := rfl
@[simp] theorem tdcOf_onPwr : tdcOf (s.onPwr f) = tdcOf s := rfl
@[simp] theorem beaconOf_onPwr : beaconOf (s.onPwr f) = beaconOf s := rfl
end

section
variable (s : State) (f : Glb → Glb)
@[simp] theorem onGlb_pending : (s.onGlb f).pending = s.pending := rfl
@[simp] theorem onGlb_now : (s.onGlb f).now = s.now := rfl
@[simp] theorem onGlb_freeCtr : (s.onGlb f).freeCtr = s.freeCtr := rfl
@[simp] theorem onGlb_sent : (s.onGlb f).sent = s.sent := rfl
@[simp] theorem onGlb_pwr : (s.onGlb f).pwr = s.pwr := rfl
@[simp] theorem onGlb_glb : (s.onGlb f).glb = f s.glb := rfl
@[simp] theorem onGlb_io : (s.onGlb f).io = s.io := rfl
@[simp] theorem onGlb_tb : (s.onGlb f).tb = s.tb := rfl
@[simp] theorem onGlb_fe : (s.onGlb f).fe = s.fe := rfl
@[simp] theorem onGlb_chd : (s.onGlb f).chd = s.chd := rfl
@[simp] theorem onGlb_lin : (s.onGlb f).lin = s.lin := rfl
@[simp] theorem onGlb_str : (s.onGlb f).str = s.str := rfl
@[simp] theorem onGlb_trg : (s.onGlb f).trg = s.trg := rfl
@[simp] theorem onGlb_rm : (s.onGlb f).rm = s.rm := rfl
@[simp] theorem onGlb_cop : (s.onGlb f).cop = s.cop := rfl
@[simp] theorem onGlb_wick : (s.onGlb f).wick = s.wick := rfl
@[simp] theorem onGlb_cal : (s.onGlb f).cal = s.cal := rfl
@[simp] theorem onGlb_mbx : (s.onGlb f).mbx = s.mbx := rfl
@[simp] theorem onGlb_ntq : (s.onGlb f).ntq = s.ntq := rfl
@[simp] theorem onGlb_fn : (s.onGlb f).fn = s.fn := rfl
@[simp] theorem onGlb_pace : (s.onGlb f).pace = s.pace := rfl
@[simp] theorem onGlb_mon : (s.onGlb f).mon = s.mon := rfl
@[simp] theorem onGlb_net : (s.onGlb f).net = s.net := rfl
@[simp] theorem chanOf_onGlb : chanOf (s.onGlb f) = chanOf s := rfl
@[simp] theorem bankSt_onGlb : bankSt (s.onGlb f) = bankSt s := rfl
@[simp] theorem excOf_onGlb : excOf (s.onGlb f) = excOf s := rfl
@[simp] theorem tileOf_onGlb : tileOf (s.onGlb f) = tileOf s := rfl
@[simp] theorem compOf_onGlb : compOf (s.onGlb f) = compOf s := rfl
@[simp] theorem auxOf_onGlb : auxOf (s.onGlb f) = auxOf s := rfl
@[simp] theorem voutOf_onGlb : voutOf (s.onGlb f) = voutOf s := rfl
@[simp] theorem strOf_onGlb : strOf (s.onGlb f) = strOf s := rfl
@[simp] theorem grpOf_onGlb : grpOf (s.onGlb f) = grpOf s := rfl
@[simp] theorem seqrOf_onGlb : seqrOf (s.onGlb f) = seqrOf s := rfl
@[simp] theorem loopOf_onGlb : loopOf (s.onGlb f) = loopOf s := rfl
@[simp] theorem portOf_onGlb : portOf (s.onGlb f) = portOf s := rfl
@[simp] theorem fnOf_onGlb : fnOf (s.onGlb f) = fnOf s := rfl
@[simp] theorem ntqOf_onGlb : ntqOf (s.onGlb f) = ntqOf s := rfl
@[simp] theorem boxOf_onGlb : boxOf (s.onGlb f) = boxOf s := rfl
@[simp] theorem monOf_onGlb : monOf (s.onGlb f) = monOf s := rfl
@[simp] theorem paceOf_onGlb : paceOf (s.onGlb f) = paceOf s := rfl
@[simp] theorem netOf_onGlb : netOf (s.onGlb f) = netOf s := rfl
@[simp] theorem collOf_onGlb : collOf (s.onGlb f) = collOf s := rfl
@[simp] theorem tdcOf_onGlb : tdcOf (s.onGlb f) = tdcOf s := rfl
@[simp] theorem beaconOf_onGlb : beaconOf (s.onGlb f) = beaconOf s := rfl
end

section
variable (s : State) (f : Ports → Ports)
@[simp] theorem onIo_pending : (s.onIo f).pending = s.pending := rfl
@[simp] theorem onIo_now : (s.onIo f).now = s.now := rfl
@[simp] theorem onIo_freeCtr : (s.onIo f).freeCtr = s.freeCtr := rfl
@[simp] theorem onIo_sent : (s.onIo f).sent = s.sent := rfl
@[simp] theorem onIo_pwr : (s.onIo f).pwr = s.pwr := rfl
@[simp] theorem onIo_glb : (s.onIo f).glb = s.glb := rfl
@[simp] theorem onIo_io : (s.onIo f).io = f s.io := rfl
@[simp] theorem onIo_tb : (s.onIo f).tb = s.tb := rfl
@[simp] theorem onIo_fe : (s.onIo f).fe = s.fe := rfl
@[simp] theorem onIo_chd : (s.onIo f).chd = s.chd := rfl
@[simp] theorem onIo_lin : (s.onIo f).lin = s.lin := rfl
@[simp] theorem onIo_str : (s.onIo f).str = s.str := rfl
@[simp] theorem onIo_trg : (s.onIo f).trg = s.trg := rfl
@[simp] theorem onIo_rm : (s.onIo f).rm = s.rm := rfl
@[simp] theorem onIo_cop : (s.onIo f).cop = s.cop := rfl
@[simp] theorem onIo_wick : (s.onIo f).wick = s.wick := rfl
@[simp] theorem onIo_cal : (s.onIo f).cal = s.cal := rfl
@[simp] theorem onIo_mbx : (s.onIo f).mbx = s.mbx := rfl
@[simp] theorem onIo_ntq : (s.onIo f).ntq = s.ntq := rfl
@[simp] theorem onIo_fn : (s.onIo f).fn = s.fn := rfl
@[simp] theorem onIo_pace : (s.onIo f).pace = s.pace := rfl
@[simp] theorem onIo_mon : (s.onIo f).mon = s.mon := rfl
@[simp] theorem onIo_net : (s.onIo f).net = s.net := rfl
@[simp] theorem chanOf_onIo : chanOf (s.onIo f) = chanOf s := rfl
@[simp] theorem bankSt_onIo : bankSt (s.onIo f) = bankSt s := rfl
@[simp] theorem excOf_onIo : excOf (s.onIo f) = excOf s := rfl
@[simp] theorem tileOf_onIo : tileOf (s.onIo f) = tileOf s := rfl
@[simp] theorem compOf_onIo : compOf (s.onIo f) = compOf s := rfl
@[simp] theorem auxOf_onIo : auxOf (s.onIo f) = auxOf s := rfl
@[simp] theorem voutOf_onIo : voutOf (s.onIo f) = voutOf s := rfl
@[simp] theorem strOf_onIo : strOf (s.onIo f) = strOf s := rfl
@[simp] theorem grpOf_onIo : grpOf (s.onIo f) = grpOf s := rfl
@[simp] theorem seqrOf_onIo : seqrOf (s.onIo f) = seqrOf s := rfl
@[simp] theorem loopOf_onIo : loopOf (s.onIo f) = loopOf s := rfl
@[simp] theorem portOf_onIo : portOf (s.onIo f) = portOf s := rfl
@[simp] theorem fnOf_onIo : fnOf (s.onIo f) = fnOf s := rfl
@[simp] theorem ntqOf_onIo : ntqOf (s.onIo f) = ntqOf s := rfl
@[simp] theorem boxOf_onIo : boxOf (s.onIo f) = boxOf s := rfl
@[simp] theorem monOf_onIo : monOf (s.onIo f) = monOf s := rfl
@[simp] theorem paceOf_onIo : paceOf (s.onIo f) = paceOf s := rfl
@[simp] theorem netOf_onIo : netOf (s.onIo f) = netOf s := rfl
@[simp] theorem collOf_onIo : collOf (s.onIo f) = collOf s := rfl
@[simp] theorem tdcOf_onIo : tdcOf (s.onIo f) = tdcOf s := rfl
@[simp] theorem beaconOf_onIo : beaconOf (s.onIo f) = beaconOf s := rfl
end

section
variable (s : State) (f : RecMem → RecMem)
@[simp] theorem onRm_pending : (s.onRm f).pending = s.pending := rfl
@[simp] theorem onRm_now : (s.onRm f).now = s.now := rfl
@[simp] theorem onRm_freeCtr : (s.onRm f).freeCtr = s.freeCtr := rfl
@[simp] theorem onRm_sent : (s.onRm f).sent = s.sent := rfl
@[simp] theorem onRm_pwr : (s.onRm f).pwr = s.pwr := rfl
@[simp] theorem onRm_glb : (s.onRm f).glb = s.glb := rfl
@[simp] theorem onRm_io : (s.onRm f).io = s.io := rfl
@[simp] theorem onRm_tb : (s.onRm f).tb = s.tb := rfl
@[simp] theorem onRm_fe : (s.onRm f).fe = s.fe := rfl
@[simp] theorem onRm_chd : (s.onRm f).chd = s.chd := rfl
@[simp] theorem onRm_lin : (s.onRm f).lin = s.lin := rfl
@[simp] theorem onRm_str : (s.onRm f).str = s.str := rfl
@[simp] theorem onRm_trg : (s.onRm f).trg = s.trg := rfl
@[simp] theorem onRm_rm : (s.onRm f).rm = f s.rm := rfl
@[simp] theorem onRm_cop : (s.onRm f).cop = s.cop := rfl
@[simp] theorem onRm_wick : (s.onRm f).wick = s.wick := rfl
@[simp] theorem onRm_cal : (s.onRm f).cal = s.cal := rfl
@[simp] theorem onRm_mbx : (s.onRm f).mbx = s.mbx := rfl
@[simp] theorem onRm_ntq : (s.onRm f).ntq = s.ntq := rfl
@[simp] theorem onRm_fn : (s.onRm f).fn = s.fn := rfl
@[simp] theorem onRm_pace : (s.onRm f).pace = s.pace := rfl
@[simp] theorem onRm_mon : (s.onRm f).mon = s.mon := rfl
@[simp] theorem onRm_net : (s.onRm f).net = s.net := rfl
@[simp] theorem chanOf_onRm : chanOf (s.onRm f) = chanOf s := rfl
@[simp] theorem bankSt_onRm : bankSt (s.onRm f) = bankSt s := rfl
@[simp] theorem excOf_onRm : excOf (s.onRm f) = excOf s := rfl
@[simp] theorem tileOf_onRm : tileOf (s.onRm f) = tileOf s := rfl
@[simp] theorem compOf_onRm : compOf (s.onRm f) = compOf s := rfl
@[simp] theorem auxOf_onRm : auxOf (s.onRm f) = auxOf s := rfl
@[simp] theorem voutOf_onRm : voutOf (s.onRm f) = voutOf s := rfl
@[simp] theorem strOf_onRm : strOf (s.onRm f) = strOf s := rfl
@[simp] theorem grpOf_onRm : grpOf (s.onRm f) = grpOf s := rfl
@[simp] theorem seqrOf_onRm : seqrOf (s.onRm f) = seqrOf s := rfl
@[simp] theorem loopOf_onRm : loopOf (s.onRm f) = loopOf s := rfl
@[simp] theorem portOf_onRm : portOf (s.onRm f) = portOf s := rfl
@[simp] theorem fnOf_onRm : fnOf (s.onRm f) = fnOf s := rfl
@[simp] theorem ntqOf_onRm : ntqOf (s.onRm f) = ntqOf s := rfl
@[simp] theorem boxOf_onRm : boxOf (s.onRm f) = boxOf s := rfl
@[simp] theorem monOf_onRm : monOf (s.onRm f) = monOf s := rfl
@[simp] theorem paceOf_onRm : paceOf (s.onRm f) = paceOf s := rfl
@[simp] theorem netOf_onRm : netOf (s.onRm f) = netOf s := rfl
@[simp] theorem collOf_onRm : collOf (s.onRm f) = collOf s := rfl
@[simp] theorem tdcOf_onRm : tdcOf (s.onRm f) = tdcOf s := rfl
@[simp] theorem beaconOf_onRm : beaconOf (s.onRm f) = beaconOf s := rfl
end

section
variable (s : State) (f : Wick → Wick)
@[simp] theorem onWick_pending : (s.onWick f).pending = s.pending := rfl
@[simp] theorem onWick_now : (s.onWick f).now = s.now := rfl
@[simp] theorem onWick_freeCtr : (s.onWick f).freeCtr = s.freeCtr := rfl
@[simp] theorem onWick_sent : (s.onWick f).sent = s.sent := rfl
@[simp] theorem onWick_pwr : (s.onWick f).pwr = s.pwr := rfl
@[simp] theorem onWick_glb : (s.onWick f).glb = s.glb := rfl
@[simp] theorem onWick_io : (s.onWick f).io = s.io := rfl
@[simp] theorem onWick_tb : (s.onWick f).tb = s.tb := rfl
@[simp] theorem onWick_fe : (s.onWick f).fe = s.fe := rfl
@[simp] theorem onWick_chd : (s.onWick f).chd = s.chd := rfl
@[simp] theorem onWick_lin : (s.onWick f).lin = s.lin := rfl
@[simp] theorem onWick_str : (s.onWick f).str = s.str := rfl
@[simp] theorem onWick_trg : (s.onWick f).trg = s.trg := rfl
@[simp] theorem onWick_rm : (s.onWick f).rm = s.rm := rfl
@[simp] theorem onWick_cop : (s.onWick f).cop = s.cop := rfl
@[simp] theorem onWick_wick : (s.onWick f).wick = f s.wick := rfl
@[simp] theorem onWick_cal : (s.onWick f).cal = s.cal := rfl
@[simp] theorem onWick_mbx : (s.onWick f).mbx = s.mbx := rfl
@[simp] theorem onWick_ntq : (s.onWick f).ntq = s.ntq := rfl
@[simp] theorem onWick_fn : (s.onWick f).fn = s.fn := rfl
@[simp] theorem onWick_pace : (s.onWick f).pace = s.pace := rfl
@[simp] theorem onWick_mon : (s.onWick f).mon = s.mon := rfl
@[simp] theorem onWick_net : (s.onWick f).net = s.net := rfl
@[simp] theorem chanOf_onWick : chanOf (s.onWick f) = chanOf s := rfl
@[simp] theorem bankSt_onWick : bankSt (s.onWick f) = bankSt s := rfl
@[simp] theorem excOf_onWick : excOf (s.onWick f) = excOf s := rfl
@[simp] theorem tileOf_onWick : tileOf (s.onWick f) = tileOf s := rfl
@[simp] theorem compOf_onWick : compOf (s.onWick f) = compOf s := rfl
@[simp] theorem auxOf_onWick : auxOf (s.onWick f) = auxOf s := rfl
@[simp] theorem voutOf_onWick : voutOf (s.onWick f) = voutOf s := rfl
@[simp] theorem strOf_onWick : strOf (s.onWick f) = strOf s := rfl
@[simp] theorem grpOf_onWick : grpOf (s.onWick f) = grpOf s := rfl
@[simp] theorem seqrOf_onWick : seqrOf (s.onWick f) = seqrOf s := rfl
@[simp] theorem fnOf_onWick : fnOf (s.onWick f) = fnOf s := rfl
@[simp] theorem ntqOf_onWick : ntqOf (s.onWick f) = ntqOf s := rfl
@[simp] theorem boxOf_onWick : boxOf (s.onWick f) = boxOf s := rfl
@[simp] theorem monOf_onWick : monOf (s.onWick f) = monOf s := rfl
@[simp] theorem paceOf_onWick : paceOf (s.onWick f) = paceOf s := rfl
@[simp] theorem netOf_onWick : netOf (s.onWick f) = netOf s := rfl
@[simp] theorem collOf_onWick : collOf (s.onWick f) = collOf s := rfl
@[simp] theorem tdcOf_onWick : tdcOf (s.onWick f) = tdcOf s := rfl
@[simp] theorem beaconOf_onWick : beaconOf (s.onWick f) = beaconOf s := rfl
end

section
variable (s : State) (f : Chandler → Chandler)
@[simp] theorem onChd_pending : (s.onChd f).pending = s.pending := rfl
@[simp] theorem onChd_now : (s.onChd f).now = s.now := rfl
@[simp] theorem onChd_freeCtr : (s.onChd f).freeCtr = s.freeCtr := rfl
@[simp] theorem onChd_sent : (s.onChd f).sent = s.sent := rfl
@[simp] theorem onChd_pwr : (s.onChd f).pwr = s.pwr := rfl
@[simp] theorem onChd_glb : (s.onChd f).glb = s.glb := rfl
@[simp] theorem onChd_io : (s.onChd f).io = s.io := rfl
@[simp] theorem onChd_tb : (s.onChd f).tb = s.tb := rfl
@[simp] theorem onChd_fe : (s.onChd f).fe = s.fe := rfl
@[simp] theorem onChd_chd : (s.onChd f).chd = f s.chd := rfl
@[simp] theorem onChd_lin : (s.onChd f).lin = s.lin := rfl
@[simp] theorem onChd_str : (s.onChd f).str = s.str := rfl
@[simp] theorem onChd_trg : (s.onChd f).trg = s.trg := rfl
@[simp] theorem onChd_rm : (s.onChd f).rm = s.rm := rfl
@[simp] theorem onChd_cop : (s.onChd f).cop = s.cop := rfl
@[simp] theorem onChd_wick : (s.onChd f).wick = s.wick := rfl
@[simp] theorem onChd_cal : (s.onChd f).cal = s.cal := rfl
@[simp] theorem onChd_mbx : (s.onChd f).mbx = s.mbx := rfl
@[simp] theorem onChd_ntq : (s.onChd f).ntq = s.ntq := rfl
@[simp] theorem onChd_fn : (s.onChd f).fn = s.fn := rfl
@[simp] theorem onChd_pace : (s.onChd f).pace = s.pace := rfl
@[simp] theorem onChd_mon : (s.onChd f).mon = s.mon := rfl
@[simp] theorem onChd_net : (s.onChd f).net = s.net := rfl
@[simp] theorem chanOf_onChd : chanOf (s.onChd f) = chanOf s := rfl
@[simp] theorem bankSt_onChd : bankSt (s.onChd f) = bankSt s := rfl
@[simp] theorem excOf_onChd : excOf (s.onChd f) = excOf s := rfl
@[simp] theorem tileOf_onChd : tileOf (s.onChd f) = tileOf s := rfl
@[simp] theorem compOf_onChd : compOf (s.onChd f) = compOf s := rfl
@[simp] theorem auxOf_onChd : auxOf (s.onChd f) = auxOf s := rfl
@[simp] theorem voutOf_onChd : voutOf (s.onChd f) = voutOf s := rfl
@[simp] theorem strOf_onChd : strOf (s.onChd f) = strOf s := rfl
@[simp] theorem grpOf_onChd : grpOf (s.onChd f) = grpOf s := rfl
@[simp] theorem seqrOf_onChd : seqrOf (s.onChd f) = seqrOf s := rfl
@[simp] theorem loopOf_onChd : loopOf (s.onChd f) = loopOf s := rfl
@[simp] theorem portOf_onChd : portOf (s.onChd f) = portOf s := rfl
@[simp] theorem fnOf_onChd : fnOf (s.onChd f) = fnOf s := rfl
@[simp] theorem ntqOf_onChd : ntqOf (s.onChd f) = ntqOf s := rfl
@[simp] theorem boxOf_onChd : boxOf (s.onChd f) = boxOf s := rfl
@[simp] theorem monOf_onChd : monOf (s.onChd f) = monOf s := rfl
@[simp] theorem paceOf_onChd : paceOf (s.onChd f) = paceOf s := rfl
@[simp] theorem netOf_onChd : netOf (s.onChd f) = netOf s := rfl
@[simp] theorem collOf_onChd : collOf (s.onChd f) = collOf s := rfl
@[simp] theorem tdcOf_onChd : tdcOf (s.onChd f) = tdcOf s := rfl
@[simp] theorem beaconOf_onChd : beaconOf (s.onChd f) = beaconOf s := rfl
end

section
variable (s : State) (t : Nat)
@[simp] theorem at__pending : (s.at_ t).pending = s.pending := rfl
@[simp] theorem at__now : (s.at_ t).now = max s.now t := rfl
@[simp] theorem at__freeCtr : (s.at_ t).freeCtr = s.freeCtr := rfl
@[simp] theorem at__sent : (s.at_ t).sent = s.sent := rfl
@[simp] theorem at__pwr : (s.at_ t).pwr = s.pwr := rfl
@[simp] theorem at__glb : (s.at_ t).glb = s.glb := rfl
@[simp] theorem at__io : (s.at_ t).io = s.io := rfl
@[simp] theorem at__tb : (s.at_ t).tb = s.tb := rfl
@[simp] theorem at__fe : (s.at_ t).fe = s.fe := rfl
@[simp] theorem at__chd : (s.at_ t).chd = s.chd := rfl
@[simp] theorem at__lin : (s.at_ t).lin = s.lin := rfl
@[simp] theorem at__str : (s.at_ t).str = s.str := rfl
@[simp] theorem at__trg : (s.at_ t).trg = s.trg := rfl
@[simp] theorem at__rm : (s.at_ t).rm = s.rm := rfl
@[simp] theorem at__cop : (s.at_ t).cop = s.cop := rfl
@[simp] theorem at__wick : (s.at_ t).wick = s.wick := rfl
@[simp] theorem at__cal : (s.at_ t).cal = s.cal := rfl
@[simp] theorem at__mbx : (s.at_ t).mbx = s.mbx := rfl
@[simp] theorem at__ntq : (s.at_ t).ntq = s.ntq := rfl
@[simp] theorem at__fn : (s.at_ t).fn = s.fn := rfl
@[simp] theorem at__pace : (s.at_ t).pace = s.pace := rfl
@[simp] theorem at__mon : (s.at_ t).mon = s.mon := rfl
@[simp] theorem at__net : (s.at_ t).net = s.net := rfl
@[simp] theorem chanOf_at_ : chanOf (s.at_ t) = chanOf s := rfl
@[simp] theorem bankSt_at_ : bankSt (s.at_ t) = bankSt s := rfl
@[simp] theorem excOf_at_ : excOf (s.at_ t) = excOf s := rfl
@[simp] theorem tileOf_at_ : tileOf (s.at_ t) = tileOf s := rfl
@[simp] theorem compOf_at_ : compOf (s.at_ t) = compOf s := rfl
@[simp] theorem auxOf_at_ : auxOf (s.at_ t) = auxOf s := rfl
@[simp] theorem voutOf_at_ : voutOf (s.at_ t) = voutOf s := rfl
@[simp] theorem strOf_at_ : strOf (s.at_ t) = strOf s := rfl
@[simp] theorem grpOf_at_ : grpOf (s.at_ t) = grpOf s := rfl
@[simp] theorem seqrOf_at_ : seqrOf (s.at_ t) = seqrOf s := rfl
@[simp] theorem loopOf_at_ : loopOf (s.at_ t) = loopOf s := rfl
@[simp] theorem portOf_at_ : portOf (s.at_ t) = portOf s := rfl
@[simp] theorem fnOf_at_ : fnOf (s.at_ t) = fnOf s := rfl
@[simp] theorem ntqOf_at_ : ntqOf (s.at_ t) = ntqOf s := rfl
@[simp] theorem boxOf_at_ : boxOf (s.at_ t) = boxOf s := rfl
@[simp] theorem monOf_at_ : monOf (s.at_ t) = monOf s := rfl
@[simp] theorem paceOf_at_ : paceOf (s.at_ t) = paceOf s := rfl
@[simp] theorem netOf_at_ : netOf (s.at_ t) = netOf s := rfl
@[simp] theorem collOf_at_ : collOf (s.at_ t) = collOf s := rfl
@[simp] theorem tdcOf_at_ : tdcOf (s.at_ t) = tdcOf s := rfl
@[simp] theorem beaconOf_at_ : beaconOf (s.at_ t) = beaconOf s := rfl
end

section
variable (s : State) (m : OutMsg)
@[simp] theorem send_pending : (s.send m).pending = s.pending := rfl
@[simp] theorem send_now : (s.send m).now = s.now := rfl
@[simp] theorem send_freeCtr : (s.send m).freeCtr = s.freeCtr := rfl
@[simp] theorem send_sent : (s.send m).sent = s.sent ++ [m] := rfl
@[simp] theorem send_pwr : (s.send m).pwr = s.pwr := rfl
@[simp] theorem send_glb : (s.send m).glb = s.glb := rfl
@[simp] theorem send_io : (s.send m).io = s.io := rfl
@[simp] theorem send_tb : (s.send m).tb = s.tb := rfl
@[simp] theorem send_fe : (s.send m).fe = s.fe := rfl
@[simp] theorem send_chd : (s.send m).chd = s.chd := rfl
@[simp] theorem send_lin : (s.send m).lin = s.lin := rfl
@[simp] theorem send_str : (s.send m).str = s.str := rfl
@[simp] theorem send_trg : (s.send m).trg = s.trg := rfl
@[simp] theorem send_rm : (s.send m).rm = s.rm := rfl
@[simp] theorem send_cop : (s.send m).cop = s.cop := rfl
@[simp] theorem send_wick : (s.send m).wick = s.wick := rfl
@[simp] theorem send_cal : (s.send m).cal = s.cal := rfl
@[simp] theorem send_mbx : (s.send m).mbx = s.mbx := rfl
@[simp] theorem send_ntq : (s.send m).ntq = s.ntq := rfl
@[simp] theorem send_fn : (s.send m).fn = s.fn := rfl
@[simp] theorem send_pace : (s.send m).pace = s.pace := rfl
@[simp] theorem send_mon : (s.send m).mon = s.mon := rfl
@[simp] theorem send_net : (s.send m).net = s.net := rfl
@[simp] theorem chanOf_send : chanOf (s.send m) = chanOf s := rfl
@[simp] theorem bankSt_send : bankSt (s.send m) = bankSt s := rfl
@[simp] theorem excOf_send : excOf (s.send m) = excOf s := rfl
@[simp] theorem tileOf_send : tileOf (s.send m) = tileOf s := rfl
@[simp] theorem compOf_send : compOf (s.send m) = compOf s := rfl
@[simp] theorem auxOf_send : auxOf (s.send m) = auxOf s := rfl
@[simp] theorem voutOf_send : voutOf (s.send m) = voutOf s := rfl
@[simp] theorem strOf_send : strOf (s.send m) = strOf s := rfl
@[simp] theorem grpOf_send : grpOf (s.send m) = grpOf s := rfl
@[simp] theorem seqrOf_send : seqrOf (s.send m) = seqrOf s := rfl
@[simp] theorem loopOf_send : loopOf (s.send m) = loopOf s := rfl
@[simp] theorem portOf_send : portOf (s.send m) = portOf s := rfl
@[simp] theorem fnOf_send : fnOf (s.send m) = fnOf s := rfl
@[simp] theorem ntqOf_send : ntqOf (s.send m) = ntqOf s := rfl
@[simp] theorem boxOf_send : boxOf (s.send m) = boxOf s := rfl
@[simp] theorem monOf_send : monOf (s.send m) = monOf s := rfl
@[simp] theorem paceOf_send : paceOf (s.send m) = paceOf s := rfl
@[simp] theorem netOf_send : netOf (s.send m) = netOf s := rfl
@[simp] theorem collOf_send : collOf (s.send m) = collOf s := rfl
@[simp] theorem tdcOf_send : tdcOf (s.send m) = tdcOf s := rfl
@[simp] theorem beaconOf_send : beaconOf (s.send m) = beaconOf s := rfl
end

section
variable (s : State) (v : Nat)
@[simp] theorem msi_pending : (s.msi v).pending = s.pending := rfl
@[simp] theorem msi_now : (s.msi v).now = s.now := rfl
@[simp] theorem msi_freeCtr : (s.msi v).freeCtr = s.freeCtr := rfl
@[simp] theorem msi_sent : (s.msi v).sent = s.sent := rfl
@[simp] theorem msi_pwr : (s.msi v).pwr = s.pwr := rfl
@[simp] theorem msi_glb : (s.msi v).glb = s.glb := rfl
@[simp] theorem msi_tb : (s.msi v).tb = s.tb := rfl
@[simp] theorem msi_fe : (s.msi v).fe = s.fe := rfl
@[simp] theorem msi_chd : (s.msi v).chd = s.chd := rfl
@[simp] theorem msi_lin : (s.msi v).lin = s.lin := rfl
@[simp] theorem msi_str : (s.msi v).str = s.str := rfl
@[simp] theorem msi_trg : (s.msi v).trg = s.trg := rfl
@[simp] theorem msi_rm : (s.msi v).rm = s.rm := rfl
@[simp] theorem msi_cop : (s.msi v).cop = s.cop := rfl
@[simp] theorem msi_wick : (s.msi v).wick = s.wick := rfl
@[simp] theorem msi_cal : (s.msi v).cal = s.cal := rfl
@[simp] theorem msi_mbx : (s.msi v).mbx = s.mbx := rfl
@[simp] theorem msi_ntq : (s.msi v).ntq = s.ntq := rfl
@[simp] theorem msi_fn : (s.msi v).fn = s.fn := rfl
@[simp] theorem msi_pace : (s.msi v).pace = s.pace := rfl
@[simp] theorem msi_mon : (s.msi v).mon = s.mon := rfl
@[simp] theorem msi_net : (s.msi v).net = s.net := rfl
@[simp] theorem msi_io : (s.msi v).io = { s.io with msix := s.io.msix ++ [v] } := rfl
@[simp] theorem chanOf_msi : chanOf (s.msi v) = chanOf s := rfl
@[simp] theorem bankSt_msi : bankSt (s.msi v) = bankSt s := rfl
@[simp] theorem excOf_msi : excOf (s.msi v) = excOf s := rfl
@[simp] theorem tileOf_msi : tileOf (s.msi v) = tileOf s := rfl
@[simp] theorem compOf_msi : compOf (s.msi v) = compOf s := rfl
@[simp] theorem auxOf_msi : auxOf (s.msi v) = auxOf s := rfl
@[simp] theorem voutOf_msi : voutOf (s.msi v) = voutOf s := rfl
@[simp] theorem strOf_msi : strOf (s.msi v) = strOf s := rfl
@[simp] theorem grpOf_msi : grpOf (s.msi v) = grpOf s := rfl
@[simp] theorem seqrOf_msi : seqrOf (s.msi v) = seqrOf s := rfl
@[simp] theorem loopOf_msi : loopOf (s.msi v) = loopOf s := rfl
@[simp] theorem portOf_msi : portOf (s.msi v) = portOf s := rfl
@[simp] theorem fnOf_msi : fnOf (s.msi v) = fnOf s := rfl
@[simp] theorem ntqOf_msi : ntqOf (s.msi v) = ntqOf s := rfl
@[simp] theorem boxOf_msi : boxOf (s.msi v) = boxOf s := rfl
@[simp] theorem monOf_msi : monOf (s.msi v) = monOf s := rfl
@[simp] theorem paceOf_msi : paceOf (s.msi v) = paceOf s := rfl
@[simp] theorem netOf_msi : netOf (s.msi v) = netOf s := rfl
@[simp] theorem collOf_msi : collOf (s.msi v) = collOf s := rfl
@[simp] theorem tdcOf_msi : tdcOf (s.msi v) = tdcOf s := rfl
@[simp] theorem beaconOf_msi : beaconOf (s.msi v) = beaconOf s := rfl
end

end Sys2Proof.Machine
end

