-- ==== Sys2Proof/Laws/Ops.lean ====
section
/-! SUPPORT. The shared operations that report: what a posting, a completion and a monitored value leave as it was. -/
namespace Sys2Proof.Machine

theorem raiseLvl_io_ntq (q b : Nat) (s : State) : raiseLvl s q b = { s with ntq := (raiseLvl s q b).ntq, io := (raiseLvl s q b).io } := by
  simp only [raiseLvl]
  split
  · split <;> rfl
  · rfl

theorem raiseP0_io_ntq (q : Nat) (s : State) : raiseP0 s q = { s with ntq := (raiseP0 s q).ntq, io := (raiseP0 s q).io } := by
  simp only [raiseP0]
  split
  · rfl
  · split <;> rfl


/-- A posting touches the queues and the messages of the host port alone. -/
theorem postTo_frame (q type pri src arg : Nat) (pay : List Byte) (s : State) : postTo q type pri src arg pay s = { s with ntq := (postTo q type pri src arg pay s).ntq, io := (postTo q type pri src arg pay s).io } := by
  simp only [postTo]
  split
  · rw [raiseP0_io_ntq, raiseLvl_io_ntq]; rfl
  · rw [raiseLvl_io_ntq]; rfl
@[simp] theorem postTo_pending (q type pri src arg : Nat) (pay : List Byte) (s : State) : (postTo q type pri src arg pay s).pending = s.pending := by rw [postTo_frame]
@[simp] theorem postTo_now (q type pri src arg : Nat) (pay : List Byte) (s : State) : (postTo q type pri src arg pay s).now = s.now := by rw [postTo_frame]
@[simp] theorem postTo_freeCtr (q type pri src arg : Nat) (pay : List Byte) (s : State) : (postTo q type pri src arg pay s).freeCtr = s.freeCtr := by rw [postTo_frame]
@[simp] theorem postTo_sent (q type pri src arg : Nat) (pay : List Byte) (s : State) : (postTo q type pri src arg pay s).sent = s.sent := by rw [postTo_frame]
@[simp] theorem postTo_pwr (q type pri src arg : Nat) (pay : List Byte) (s : State) : (postTo q type pri src arg pay s).pwr = s.pwr := by rw [postTo_frame]
@[simp] theorem postTo_glb (q type pri src arg : Nat) (pay : List Byte) (s : State) : (postTo q type pri src arg pay s).glb = s.glb := by rw [postTo_frame]
@[simp] theorem postTo_tb (q type pri src arg : Nat) (pay : List Byte) (s : State) : (postTo q type pri src arg pay s).tb = s.tb := by rw [postTo_frame]
@[simp] theorem postTo_fe (q type pri src arg : Nat) (pay : List Byte) (s : State) : (postTo q type pri src arg pay s).fe = s.fe := by rw [postTo_frame]
@[simp] theorem postTo_chd (q type pri src arg : Nat) (pay : List Byte) (s : State) : (postTo q type pri src arg pay s).chd = s.chd := by rw [postTo_frame]
@[simp] theorem postTo_lin (q type pri src arg : Nat) (pay : List Byte) (s : State) : (postTo q type pri src arg pay s).lin = s.lin := by rw [postTo_frame]
@[simp] theorem postTo_str (q type pri src arg : Nat) (pay : List Byte) (s : State) : (postTo q type pri src arg pay s).str = s.str := by rw [postTo_frame]
@[simp] theorem postTo_trg (q type pri src arg : Nat) (pay : List Byte) (s : State) : (postTo q type pri src arg pay s).trg = s.trg := by rw [postTo_frame]
@[simp] theorem postTo_rm (q type pri src arg : Nat) (pay : List Byte) (s : State) : (postTo q type pri src arg pay s).rm = s.rm := by rw [postTo_frame]
@[simp] theorem postTo_cop (q type pri src arg : Nat) (pay : List Byte) (s : State) : (postTo q type pri src arg pay s).cop = s.cop := by rw [postTo_frame]
@[simp] theorem postTo_wick (q type pri src arg : Nat) (pay : List Byte) (s : State) : (postTo q type pri src arg pay s).wick = s.wick := by rw [postTo_frame]
@[simp] theorem postTo_cal (q type pri src arg : Nat) (pay : List Byte) (s : State) : (postTo q type pri src arg pay s).cal = s.cal := by rw [postTo_frame]
@[simp] theorem postTo_mbx (q type pri src arg : Nat) (pay : List Byte) (s : State) : (postTo q type pri src arg pay s).mbx = s.mbx := by rw [postTo_frame]
@[simp] theorem postTo_fn (q type pri src arg : Nat) (pay : List Byte) (s : State) : (postTo q type pri src arg pay s).fn = s.fn := by rw [postTo_frame]
@[simp] theorem postTo_pace (q type pri src arg : Nat) (pay : List Byte) (s : State) : (postTo q type pri src arg pay s).pace = s.pace := by rw [postTo_frame]
@[simp] theorem postTo_mon (q type pri src arg : Nat) (pay : List Byte) (s : State) : (postTo q type pri src arg pay s).mon = s.mon := by rw [postTo_frame]
@[simp] theorem postTo_net (q type pri src arg : Nat) (pay : List Byte) (s : State) : (postTo q type pri src arg pay s).net = s.net := by rw [postTo_frame]
@[simp] theorem chanOf_postTo (q type pri src arg : Nat) (pay : List Byte) (s : State) : chanOf (postTo q type pri src arg pay s) = chanOf s := by rw [postTo_frame]; rfl
@[simp] theorem bankSt_postTo (q type pri src arg : Nat) (pay : List Byte) (s : State) : bankSt (postTo q type pri src arg pay s) = bankSt s := by rw [postTo_frame]; rfl
@[simp] theorem excOf_postTo (q type pri src arg : Nat) (pay : List Byte) (s : State) : excOf (postTo q type pri src arg pay s) = excOf s := by rw [postTo_frame]; rfl
@[simp] theorem tileOf_postTo (q type pri src arg : Nat) (pay : List Byte) (s : State) : tileOf (postTo q type pri src arg pay s) = tileOf s := by rw [postTo_frame]; rfl
@[simp] theorem compOf_postTo (q type pri src arg : Nat) (pay : List Byte) (s : State) : compOf (postTo q type pri src arg pay s) = compOf s := by rw [postTo_frame]; rfl
@[simp] theorem auxOf_postTo (q type pri src arg : Nat) (pay : List Byte) (s : State) : auxOf (postTo q type pri src arg pay s) = auxOf s := by rw [postTo_frame]; rfl
@[simp] theorem voutOf_postTo (q type pri src arg : Nat) (pay : List Byte) (s : State) : voutOf (postTo q type pri src arg pay s) = voutOf s := by rw [postTo_frame]; rfl
@[simp] theorem strOf_postTo (q type pri src arg : Nat) (pay : List Byte) (s : State) : strOf (postTo q type pri src arg pay s) = strOf s := by rw [postTo_frame]; rfl
@[simp] theorem grpOf_postTo (q type pri src arg : Nat) (pay : List Byte) (s : State) : grpOf (postTo q type pri src arg pay s) = grpOf s := by rw [postTo_frame]; rfl
@[simp] theorem seqrOf_postTo (q type pri src arg : Nat) (pay : List Byte) (s : State) : seqrOf (postTo q type pri src arg pay s) = seqrOf s := by rw [postTo_frame]; rfl
@[simp] theorem loopOf_postTo (q type pri src arg : Nat) (pay : List Byte) (s : State) : loopOf (postTo q type pri src arg pay s) = loopOf s := by rw [postTo_frame]; rfl
@[simp] theorem portOf_postTo (q type pri src arg : Nat) (pay : List Byte) (s : State) : portOf (postTo q type pri src arg pay s) = portOf s := by rw [postTo_frame]; rfl
@[simp] theorem fnOf_postTo (q type pri src arg : Nat) (pay : List Byte) (s : State) : fnOf (postTo q type pri src arg pay s) = fnOf s := by rw [postTo_frame]; rfl
@[simp] theorem boxOf_postTo (q type pri src arg : Nat) (pay : List Byte) (s : State) : boxOf (postTo q type pri src arg pay s) = boxOf s := by rw [postTo_frame]; rfl
@[simp] theorem monOf_postTo (q type pri src arg : Nat) (pay : List Byte) (s : State) : monOf (postTo q type pri src arg pay s) = monOf s := by rw [postTo_frame]; rfl
@[simp] theorem paceOf_postTo (q type pri src arg : Nat) (pay : List Byte) (s : State) : paceOf (postTo q type pri src arg pay s) = paceOf s := by rw [postTo_frame]; rfl
@[simp] theorem netOf_postTo (q type pri src arg : Nat) (pay : List Byte) (s : State) : netOf (postTo q type pri src arg pay s) = netOf s := by rw [postTo_frame]; rfl
@[simp] theorem collOf_postTo (q type pri src arg : Nat) (pay : List Byte) (s : State) : collOf (postTo q type pri src arg pay s) = collOf s := by rw [postTo_frame]; rfl
@[simp] theorem tdcOf_postTo (q type pri src arg : Nat) (pay : List Byte) (s : State) : tdcOf (postTo q type pri src arg pay s) = tdcOf s := by rw [postTo_frame]; rfl
@[simp] theorem beaconOf_postTo (q type pri src arg : Nat) (pay : List Byte) (s : State) : beaconOf (postTo q type pri src arg pay s) = beaconOf s := by rw [postTo_frame]; rfl

/-- A posting to several queues. -/
theorem postTos_frame (qs : List Nat) (type pri src arg : Nat) (pay : List Byte) (s : State) : postTos qs type pri src arg pay s = { s with ntq := (postTos qs type pri src arg pay s).ntq, io := (postTos qs type pri src arg pay s).io } := by
  induction qs generalizing s with
  | nil => rfl
  | cons q t ih =>
    have e : postTos (q :: t) type pri src arg pay s = postTos t type pri src arg pay (postTo q type pri src arg pay s) := rfl
    rw [e, ih, postTo_frame]
@[simp] theorem postTos_pending (qs : List Nat) (type pri src arg : Nat) (pay : List Byte) (s : State) : (postTos qs type pri src arg pay s).pending = s.pending := by rw [postTos_frame]
@[simp] theorem postTos_now (qs : List Nat) (type pri src arg : Nat) (pay : List Byte) (s : State) : (postTos qs type pri src arg pay s).now = s.now := by rw [postTos_frame]
@[simp] theorem postTos_freeCtr (qs : List Nat) (type pri src arg : Nat) (pay : List Byte) (s : State) : (postTos qs type pri src arg pay s).freeCtr = s.freeCtr := by rw [postTos_frame]
@[simp] theorem postTos_sent (qs : List Nat) (type pri src arg : Nat) (pay : List Byte) (s : State) : (postTos qs type pri src arg pay s).sent = s.sent := by rw [postTos_frame]
@[simp] theorem postTos_pwr (qs : List Nat) (type pri src arg : Nat) (pay : List Byte) (s : State) : (postTos qs type pri src arg pay s).pwr = s.pwr := by rw [postTos_frame]
@[simp] theorem postTos_glb (qs : List Nat) (type pri src arg : Nat) (pay : List Byte) (s : State) : (postTos qs type pri src arg pay s).glb = s.glb := by rw [postTos_frame]
@[simp] theorem postTos_tb (qs : List Nat) (type pri src arg : Nat) (pay : List Byte) (s : State) : (postTos qs type pri src arg pay s).tb = s.tb := by rw [postTos_frame]
@[simp] theorem postTos_fe (qs : List Nat) (type pri src arg : Nat) (pay : List Byte) (s : State) : (postTos qs type pri src arg pay s).fe = s.fe := by rw [postTos_frame]
@[simp] theorem postTos_chd (qs : List Nat) (type pri src arg : Nat) (pay : List Byte) (s : State) : (postTos qs type pri src arg pay s).chd = s.chd := by rw [postTos_frame]
@[simp] theorem postTos_lin (qs : List Nat) (type pri src arg : Nat) (pay : List Byte) (s : State) : (postTos qs type pri src arg pay s).lin = s.lin := by rw [postTos_frame]
@[simp] theorem postTos_str (qs : List Nat) (type pri src arg : Nat) (pay : List Byte) (s : State) : (postTos qs type pri src arg pay s).str = s.str := by rw [postTos_frame]
@[simp] theorem postTos_trg (qs : List Nat) (type pri src arg : Nat) (pay : List Byte) (s : State) : (postTos qs type pri src arg pay s).trg = s.trg := by rw [postTos_frame]
@[simp] theorem postTos_rm (qs : List Nat) (type pri src arg : Nat) (pay : List Byte) (s : State) : (postTos qs type pri src arg pay s).rm = s.rm := by rw [postTos_frame]
@[simp] theorem postTos_cop (qs : List Nat) (type pri src arg : Nat) (pay : List Byte) (s : State) : (postTos qs type pri src arg pay s).cop = s.cop := by rw [postTos_frame]
@[simp] theorem postTos_wick (qs : List Nat) (type pri src arg : Nat) (pay : List Byte) (s : State) : (postTos qs type pri src arg pay s).wick = s.wick := by rw [postTos_frame]
@[simp] theorem postTos_cal (qs : List Nat) (type pri src arg : Nat) (pay : List Byte) (s : State) : (postTos qs type pri src arg pay s).cal = s.cal := by rw [postTos_frame]
@[simp] theorem postTos_mbx (qs : List Nat) (type pri src arg : Nat) (pay : List Byte) (s : State) : (postTos qs type pri src arg pay s).mbx = s.mbx := by rw [postTos_frame]
@[simp] theorem postTos_fn (qs : List Nat) (type pri src arg : Nat) (pay : List Byte) (s : State) : (postTos qs type pri src arg pay s).fn = s.fn := by rw [postTos_frame]
@[simp] theorem postTos_pace (qs : List Nat) (type pri src arg : Nat) (pay : List Byte) (s : State) : (postTos qs type pri src arg pay s).pace = s.pace := by rw [postTos_frame]
@[simp] theorem postTos_mon (qs : List Nat) (type pri src arg : Nat) (pay : List Byte) (s : State) : (postTos qs type pri src arg pay s).mon = s.mon := by rw [postTos_frame]
@[simp] theorem postTos_net (qs : List Nat) (type pri src arg : Nat) (pay : List Byte) (s : State) : (postTos qs type pri src arg pay s).net = s.net := by rw [postTos_frame]
@[simp] theorem chanOf_postTos (qs : List Nat) (type pri src arg : Nat) (pay : List Byte) (s : State) : chanOf (postTos qs type pri src arg pay s) = chanOf s := by rw [postTos_frame]; rfl
@[simp] theorem bankSt_postTos (qs : List Nat) (type pri src arg : Nat) (pay : List Byte) (s : State) : bankSt (postTos qs type pri src arg pay s) = bankSt s := by rw [postTos_frame]; rfl
@[simp] theorem excOf_postTos (qs : List Nat) (type pri src arg : Nat) (pay : List Byte) (s : State) : excOf (postTos qs type pri src arg pay s) = excOf s := by rw [postTos_frame]; rfl
@[simp] theorem tileOf_postTos (qs : List Nat) (type pri src arg : Nat) (pay : List Byte) (s : State) : tileOf (postTos qs type pri src arg pay s) = tileOf s := by rw [postTos_frame]; rfl
@[simp] theorem compOf_postTos (qs : List Nat) (type pri src arg : Nat) (pay : List Byte) (s : State) : compOf (postTos qs type pri src arg pay s) = compOf s := by rw [postTos_frame]; rfl
@[simp] theorem auxOf_postTos (qs : List Nat) (type pri src arg : Nat) (pay : List Byte) (s : State) : auxOf (postTos qs type pri src arg pay s) = auxOf s := by rw [postTos_frame]; rfl
@[simp] theorem voutOf_postTos (qs : List Nat) (type pri src arg : Nat) (pay : List Byte) (s : State) : voutOf (postTos qs type pri src arg pay s) = voutOf s := by rw [postTos_frame]; rfl
@[simp] theorem strOf_postTos (qs : List Nat) (type pri src arg : Nat) (pay : List Byte) (s : State) : strOf (postTos qs type pri src arg pay s) = strOf s := by rw [postTos_frame]; rfl
@[simp] theorem grpOf_postTos (qs : List Nat) (type pri src arg : Nat) (pay : List Byte) (s : State) : grpOf (postTos qs type pri src arg pay s) = grpOf s := by rw [postTos_frame]; rfl
@[simp] theorem seqrOf_postTos (qs : List Nat) (type pri src arg : Nat) (pay : List Byte) (s : State) : seqrOf (postTos qs type pri src arg pay s) = seqrOf s := by rw [postTos_frame]; rfl
@[simp] theorem loopOf_postTos (qs : List Nat) (type pri src arg : Nat) (pay : List Byte) (s : State) : loopOf (postTos qs type pri src arg pay s) = loopOf s := by rw [postTos_frame]; rfl
@[simp] theorem portOf_postTos (qs : List Nat) (type pri src arg : Nat) (pay : List Byte) (s : State) : portOf (postTos qs type pri src arg pay s) = portOf s := by rw [postTos_frame]; rfl
@[simp] theorem fnOf_postTos (qs : List Nat) (type pri src arg : Nat) (pay : List Byte) (s : State) : fnOf (postTos qs type pri src arg pay s) = fnOf s := by rw [postTos_frame]; rfl
@[simp] theorem boxOf_postTos (qs : List Nat) (type pri src arg : Nat) (pay : List Byte) (s : State) : boxOf (postTos qs type pri src arg pay s) = boxOf s := by rw [postTos_frame]; rfl
@[simp] theorem monOf_postTos (qs : List Nat) (type pri src arg : Nat) (pay : List Byte) (s : State) : monOf (postTos qs type pri src arg pay s) = monOf s := by rw [postTos_frame]; rfl
@[simp] theorem paceOf_postTos (qs : List Nat) (type pri src arg : Nat) (pay : List Byte) (s : State) : paceOf (postTos qs type pri src arg pay s) = paceOf s := by rw [postTos_frame]; rfl
@[simp] theorem netOf_postTos (qs : List Nat) (type pri src arg : Nat) (pay : List Byte) (s : State) : netOf (postTos qs type pri src arg pay s) = netOf s := by rw [postTos_frame]; rfl
@[simp] theorem collOf_postTos (qs : List Nat) (type pri src arg : Nat) (pay : List Byte) (s : State) : collOf (postTos qs type pri src arg pay s) = collOf s := by rw [postTos_frame]; rfl
@[simp] theorem tdcOf_postTos (qs : List Nat) (type pri src arg : Nat) (pay : List Byte) (s : State) : tdcOf (postTos qs type pri src arg pay s) = tdcOf s := by rw [postTos_frame]; rfl
@[simp] theorem beaconOf_postTos (qs : List Nat) (type pri src arg : Nat) (pay : List Byte) (s : State) : beaconOf (postTos qs type pri src arg pay s) = beaconOf s := by rw [postTos_frame]; rfl

/-- A posting to all four queues. -/
theorem post_frame (type pri src arg : Nat) (pay : List Byte) (s : State) : post type pri src arg pay s = { s with ntq := (post type pri src arg pay s).ntq, io := (post type pri src arg pay s).io } := postTos_frame [0, 1, 2, 3] type pri src arg pay s
@[simp] theorem post_pending (type pri src arg : Nat) (pay : List Byte) (s : State) : (post type pri src arg pay s).pending = s.pending := by rw [post_frame]
@[simp] theorem post_now (type pri src arg : Nat) (pay : List Byte) (s : State) : (post type pri src arg pay s).now = s.now := by rw [post_frame]
@[simp] theorem post_freeCtr (type pri src arg : Nat) (pay : List Byte) (s : State) : (post type pri src arg pay s).freeCtr = s.freeCtr := by rw [post_frame]
@[simp] theorem post_sent (type pri src arg : Nat) (pay : List Byte) (s : State) : (post type pri src arg pay s).sent = s.sent := by rw [post_frame]
@[simp] theorem post_pwr (type pri src arg : Nat) (pay : List Byte) (s : State) : (post type pri src arg pay s).pwr = s.pwr := by rw [post_frame]
@[simp] theorem post_glb (type pri src arg : Nat) (pay : List Byte) (s : State) : (post type pri src arg pay s).glb = s.glb := by rw [post_frame]
@[simp] theorem post_tb (type pri src arg : Nat) (pay : List Byte) (s : State) : (post type pri src arg pay s).tb = s.tb := by rw [post_frame]
@[simp] theorem post_fe (type pri src arg : Nat) (pay : List Byte) (s : State) : (post type pri src arg pay s).fe = s.fe := by rw [post_frame]
@[simp] theorem post_chd (type pri src arg : Nat) (pay : List Byte) (s : State) : (post type pri src arg pay s).chd = s.chd := by rw [post_frame]
@[simp] theorem post_lin (type pri src arg : Nat) (pay : List Byte) (s : State) : (post type pri src arg pay s).lin = s.lin := by rw [post_frame]
@[simp] theorem post_str (type pri src arg : Nat) (pay : List Byte) (s : State) : (post type pri src arg pay s).str = s.str := by rw [post_frame]
@[simp] theorem post_trg (type pri src arg : Nat) (pay : List Byte) (s : State) : (post type pri src arg pay s).trg = s.trg := by rw [post_frame]
@[simp] theorem post_rm (type pri src arg : Nat) (pay : List Byte) (s : State) : (post type pri src arg pay s).rm = s.rm := by rw [post_frame]
@[simp] theorem post_cop (type pri src arg : Nat) (pay : List Byte) (s : State) : (post type pri src arg pay s).cop = s.cop := by rw [post_frame]
@[simp] theorem post_wick (type pri src arg : Nat) (pay : List Byte) (s : State) : (post type pri src arg pay s).wick = s.wick := by rw [post_frame]
@[simp] theorem post_cal (type pri src arg : Nat) (pay : List Byte) (s : State) : (post type pri src arg pay s).cal = s.cal := by rw [post_frame]
@[simp] theorem post_mbx (type pri src arg : Nat) (pay : List Byte) (s : State) : (post type pri src arg pay s).mbx = s.mbx := by rw [post_frame]
@[simp] theorem post_fn (type pri src arg : Nat) (pay : List Byte) (s : State) : (post type pri src arg pay s).fn = s.fn := by rw [post_frame]
@[simp] theorem post_pace (type pri src arg : Nat) (pay : List Byte) (s : State) : (post type pri src arg pay s).pace = s.pace := by rw [post_frame]
@[simp] theorem post_mon (type pri src arg : Nat) (pay : List Byte) (s : State) : (post type pri src arg pay s).mon = s.mon := by rw [post_frame]
@[simp] theorem post_net (type pri src arg : Nat) (pay : List Byte) (s : State) : (post type pri src arg pay s).net = s.net := by rw [post_frame]
@[simp] theorem chanOf_post (type pri src arg : Nat) (pay : List Byte) (s : State) : chanOf (post type pri src arg pay s) = chanOf s := by rw [post_frame]; rfl
@[simp] theorem bankSt_post (type pri src arg : Nat) (pay : List Byte) (s : State) : bankSt (post type pri src arg pay s) = bankSt s := by rw [post_frame]; rfl
@[simp] theorem excOf_post (type pri src arg : Nat) (pay : List Byte) (s : State) : excOf (post type pri src arg pay s) = excOf s := by rw [post_frame]; rfl
@[simp] theorem tileOf_post (type pri src arg : Nat) (pay : List Byte) (s : State) : tileOf (post type pri src arg pay s) = tileOf s := by rw [post_frame]; rfl
@[simp] theorem compOf_post (type pri src arg : Nat) (pay : List Byte) (s : State) : compOf (post type pri src arg pay s) = compOf s := by rw [post_frame]; rfl
@[simp] theorem auxOf_post (type pri src arg : Nat) (pay : List Byte) (s : State) : auxOf (post type pri src arg pay s) = auxOf s := by rw [post_frame]; rfl
@[simp] theorem voutOf_post (type pri src arg : Nat) (pay : List Byte) (s : State) : voutOf (post type pri src arg pay s) = voutOf s := by rw [post_frame]; rfl
@[simp] theorem strOf_post (type pri src arg : Nat) (pay : List Byte) (s : State) : strOf (post type pri src arg pay s) = strOf s := by rw [post_frame]; rfl
@[simp] theorem grpOf_post (type pri src arg : Nat) (pay : List Byte) (s : State) : grpOf (post type pri src arg pay s) = grpOf s := by rw [post_frame]; rfl
@[simp] theorem seqrOf_post (type pri src arg : Nat) (pay : List Byte) (s : State) : seqrOf (post type pri src arg pay s) = seqrOf s := by rw [post_frame]; rfl
@[simp] theorem loopOf_post (type pri src arg : Nat) (pay : List Byte) (s : State) : loopOf (post type pri src arg pay s) = loopOf s := by rw [post_frame]; rfl
@[simp] theorem portOf_post (type pri src arg : Nat) (pay : List Byte) (s : State) : portOf (post type pri src arg pay s) = portOf s := by rw [post_frame]; rfl
@[simp] theorem fnOf_post (type pri src arg : Nat) (pay : List Byte) (s : State) : fnOf (post type pri src arg pay s) = fnOf s := by rw [post_frame]; rfl
@[simp] theorem boxOf_post (type pri src arg : Nat) (pay : List Byte) (s : State) : boxOf (post type pri src arg pay s) = boxOf s := by rw [post_frame]; rfl
@[simp] theorem monOf_post (type pri src arg : Nat) (pay : List Byte) (s : State) : monOf (post type pri src arg pay s) = monOf s := by rw [post_frame]; rfl
@[simp] theorem paceOf_post (type pri src arg : Nat) (pay : List Byte) (s : State) : paceOf (post type pri src arg pay s) = paceOf s := by rw [post_frame]; rfl
@[simp] theorem netOf_post (type pri src arg : Nat) (pay : List Byte) (s : State) : netOf (post type pri src arg pay s) = netOf s := by rw [post_frame]; rfl
@[simp] theorem collOf_post (type pri src arg : Nat) (pay : List Byte) (s : State) : collOf (post type pri src arg pay s) = collOf s := by rw [post_frame]; rfl
@[simp] theorem tdcOf_post (type pri src arg : Nat) (pay : List Byte) (s : State) : tdcOf (post type pri src arg pay s) = tdcOf s := by rw [post_frame]; rfl
@[simp] theorem beaconOf_post (type pri src arg : Nat) (pay : List Byte) (s : State) : beaconOf (post type pri src arg pay s) = beaconOf s := by rw [post_frame]; rfl

/-- A completion notice. -/
theorem complete_frame (o : Owed) (st : Status) (detail tick : Nat) (s : State) : complete o st detail tick s = { s with ntq := (complete o st detail tick s).ntq, io := (complete o st detail tick s).io } := by
  unfold complete; exact postTo_frame _ _ _ _ _ _ s
@[simp] theorem complete_pending (o : Owed) (st : Status) (detail tick : Nat) (s : State) : (complete o st detail tick s).pending = s.pending := by rw [complete_frame]
@[simp] theorem complete_now (o : Owed) (st : Status) (detail tick : Nat) (s : State) : (complete o st detail tick s).now = s.now := by rw [complete_frame]
@[simp] theorem complete_freeCtr (o : Owed) (st : Status) (detail tick : Nat) (s : State) : (complete o st detail tick s).freeCtr = s.freeCtr := by rw [complete_frame]
@[simp] theorem complete_sent (o : Owed) (st : Status) (detail tick : Nat) (s : State) : (complete o st detail tick s).sent = s.sent := by rw [complete_frame]
@[simp] theorem complete_pwr (o : Owed) (st : Status) (detail tick : Nat) (s : State) : (complete o st detail tick s).pwr = s.pwr := by rw [complete_frame]
@[simp] theorem complete_glb (o : Owed) (st : Status) (detail tick : Nat) (s : State) : (complete o st detail tick s).glb = s.glb := by rw [complete_frame]
@[simp] theorem complete_tb (o : Owed) (st : Status) (detail tick : Nat) (s : State) : (complete o st detail tick s).tb = s.tb := by rw [complete_frame]
@[simp] theorem complete_fe (o : Owed) (st : Status) (detail tick : Nat) (s : State) : (complete o st detail tick s).fe = s.fe := by rw [complete_frame]
@[simp] theorem complete_chd (o : Owed) (st : Status) (detail tick : Nat) (s : State) : (complete o st detail tick s).chd = s.chd := by rw [complete_frame]
@[simp] theorem complete_lin (o : Owed) (st : Status) (detail tick : Nat) (s : State) : (complete o st detail tick s).lin = s.lin := by rw [complete_frame]
@[simp] theorem complete_str (o : Owed) (st : Status) (detail tick : Nat) (s : State) : (complete o st detail tick s).str = s.str := by rw [complete_frame]
@[simp] theorem complete_trg (o : Owed) (st : Status) (detail tick : Nat) (s : State) : (complete o st detail tick s).trg = s.trg := by rw [complete_frame]
@[simp] theorem complete_rm (o : Owed) (st : Status) (detail tick : Nat) (s : State) : (complete o st detail tick s).rm = s.rm := by rw [complete_frame]
@[simp] theorem complete_cop (o : Owed) (st : Status) (detail tick : Nat) (s : State) : (complete o st detail tick s).cop = s.cop := by rw [complete_frame]
@[simp] theorem complete_wick (o : Owed) (st : Status) (detail tick : Nat) (s : State) : (complete o st detail tick s).wick = s.wick := by rw [complete_frame]
@[simp] theorem complete_cal (o : Owed) (st : Status) (detail tick : Nat) (s : State) : (complete o st detail tick s).cal = s.cal := by rw [complete_frame]
@[simp] theorem complete_mbx (o : Owed) (st : Status) (detail tick : Nat) (s : State) : (complete o st detail tick s).mbx = s.mbx := by rw [complete_frame]
@[simp] theorem complete_fn (o : Owed) (st : Status) (detail tick : Nat) (s : State) : (complete o st detail tick s).fn = s.fn := by rw [complete_frame]
@[simp] theorem complete_pace (o : Owed) (st : Status) (detail tick : Nat) (s : State) : (complete o st detail tick s).pace = s.pace := by rw [complete_frame]
@[simp] theorem complete_mon (o : Owed) (st : Status) (detail tick : Nat) (s : State) : (complete o st detail tick s).mon = s.mon := by rw [complete_frame]
@[simp] theorem complete_net (o : Owed) (st : Status) (detail tick : Nat) (s : State) : (complete o st detail tick s).net = s.net := by rw [complete_frame]
@[simp] theorem chanOf_complete (o : Owed) (st : Status) (detail tick : Nat) (s : State) : chanOf (complete o st detail tick s) = chanOf s := by rw [complete_frame]; rfl
@[simp] theorem bankSt_complete (o : Owed) (st : Status) (detail tick : Nat) (s : State) : bankSt (complete o st detail tick s) = bankSt s := by rw [complete_frame]; rfl
@[simp] theorem excOf_complete (o : Owed) (st : Status) (detail tick : Nat) (s : State) : excOf (complete o st detail tick s) = excOf s := by rw [complete_frame]; rfl
@[simp] theorem tileOf_complete (o : Owed) (st : Status) (detail tick : Nat) (s : State) : tileOf (complete o st detail tick s) = tileOf s := by rw [complete_frame]; rfl
@[simp] theorem compOf_complete (o : Owed) (st : Status) (detail tick : Nat) (s : State) : compOf (complete o st detail tick s) = compOf s := by rw [complete_frame]; rfl
@[simp] theorem auxOf_complete (o : Owed) (st : Status) (detail tick : Nat) (s : State) : auxOf (complete o st detail tick s) = auxOf s := by rw [complete_frame]; rfl
@[simp] theorem voutOf_complete (o : Owed) (st : Status) (detail tick : Nat) (s : State) : voutOf (complete o st detail tick s) = voutOf s := by rw [complete_frame]; rfl
@[simp] theorem strOf_complete (o : Owed) (st : Status) (detail tick : Nat) (s : State) : strOf (complete o st detail tick s) = strOf s := by rw [complete_frame]; rfl
@[simp] theorem grpOf_complete (o : Owed) (st : Status) (detail tick : Nat) (s : State) : grpOf (complete o st detail tick s) = grpOf s := by rw [complete_frame]; rfl
@[simp] theorem seqrOf_complete (o : Owed) (st : Status) (detail tick : Nat) (s : State) : seqrOf (complete o st detail tick s) = seqrOf s := by rw [complete_frame]; rfl
@[simp] theorem loopOf_complete (o : Owed) (st : Status) (detail tick : Nat) (s : State) : loopOf (complete o st detail tick s) = loopOf s := by rw [complete_frame]; rfl
@[simp] theorem portOf_complete (o : Owed) (st : Status) (detail tick : Nat) (s : State) : portOf (complete o st detail tick s) = portOf s := by rw [complete_frame]; rfl
@[simp] theorem fnOf_complete (o : Owed) (st : Status) (detail tick : Nat) (s : State) : fnOf (complete o st detail tick s) = fnOf s := by rw [complete_frame]; rfl
@[simp] theorem boxOf_complete (o : Owed) (st : Status) (detail tick : Nat) (s : State) : boxOf (complete o st detail tick s) = boxOf s := by rw [complete_frame]; rfl
@[simp] theorem monOf_complete (o : Owed) (st : Status) (detail tick : Nat) (s : State) : monOf (complete o st detail tick s) = monOf s := by rw [complete_frame]; rfl
@[simp] theorem paceOf_complete (o : Owed) (st : Status) (detail tick : Nat) (s : State) : paceOf (complete o st detail tick s) = paceOf s := by rw [complete_frame]; rfl
@[simp] theorem netOf_complete (o : Owed) (st : Status) (detail tick : Nat) (s : State) : netOf (complete o st detail tick s) = netOf s := by rw [complete_frame]; rfl
@[simp] theorem collOf_complete (o : Owed) (st : Status) (detail tick : Nat) (s : State) : collOf (complete o st detail tick s) = collOf s := by rw [complete_frame]; rfl
@[simp] theorem tdcOf_complete (o : Owed) (st : Status) (detail tick : Nat) (s : State) : tdcOf (complete o st detail tick s) = tdcOf s := by rw [complete_frame]; rfl
@[simp] theorem beaconOf_complete (o : Owed) (st : Status) (detail tick : Nat) (s : State) : beaconOf (complete o st detail tick s) = beaconOf s := by rw [complete_frame]; rfl

/-- A completion notice that may not be owed. -/
theorem completeOpt_frame (o : Option Owed) (st : Status) (detail tick : Nat) (s : State) : completeOpt o st detail tick s = { s with ntq := (completeOpt o st detail tick s).ntq, io := (completeOpt o st detail tick s).io } := by
  cases o with
  | none => rfl
  | some o => exact complete_frame o st detail tick s
@[simp] theorem completeOpt_pending (o : Option Owed) (st : Status) (detail tick : Nat) (s : State) : (completeOpt o st detail tick s).pending = s.pending := by rw [completeOpt_frame]
@[simp] theorem completeOpt_now (o : Option Owed) (st : Status) (detail tick : Nat) (s : State) : (completeOpt o st detail tick s).now = s.now := by rw [completeOpt_frame]
@[simp] theorem completeOpt_freeCtr (o : Option Owed) (st : Status) (detail tick : Nat) (s : State) : (completeOpt o st detail tick s).freeCtr = s.freeCtr := by rw [completeOpt_frame]
@[simp] theorem completeOpt_sent (o : Option Owed) (st : Status) (detail tick : Nat) (s : State) : (completeOpt o st detail tick s).sent = s.sent := by rw [completeOpt_frame]
@[simp] theorem completeOpt_pwr (o : Option Owed) (st : Status) (detail tick : Nat) (s : State) : (completeOpt o st detail tick s).pwr = s.pwr := by rw [completeOpt_frame]
@[simp] theorem completeOpt_glb (o : Option Owed) (st : Status) (detail tick : Nat) (s : State) : (completeOpt o st detail tick s).glb = s.glb := by rw [completeOpt_frame]
@[simp] theorem completeOpt_tb (o : Option Owed) (st : Status) (detail tick : Nat) (s : State) : (completeOpt o st detail tick s).tb = s.tb := by rw [completeOpt_frame]
@[simp] theorem completeOpt_fe (o : Option Owed) (st : Status) (detail tick : Nat) (s : State) : (completeOpt o st detail tick s).fe = s.fe := by rw [completeOpt_frame]
@[simp] theorem completeOpt_chd (o : Option Owed) (st : Status) (detail tick : Nat) (s : State) : (completeOpt o st detail tick s).chd = s.chd := by rw [completeOpt_frame]
@[simp] theorem completeOpt_lin (o : Option Owed) (st : Status) (detail tick : Nat) (s : State) : (completeOpt o st detail tick s).lin = s.lin := by rw [completeOpt_frame]
@[simp] theorem completeOpt_str (o : Option Owed) (st : Status) (detail tick : Nat) (s : State) : (completeOpt o st detail tick s).str = s.str := by rw [completeOpt_frame]
@[simp] theorem completeOpt_trg (o : Option Owed) (st : Status) (detail tick : Nat) (s : State) : (completeOpt o st detail tick s).trg = s.trg := by rw [completeOpt_frame]
@[simp] theorem completeOpt_rm (o : Option Owed) (st : Status) (detail tick : Nat) (s : State) : (completeOpt o st detail tick s).rm = s.rm := by rw [completeOpt_frame]
@[simp] theorem completeOpt_cop (o : Option Owed) (st : Status) (detail tick : Nat) (s : State) : (completeOpt o st detail tick s).cop = s.cop := by rw [completeOpt_frame]
@[simp] theorem completeOpt_wick (o : Option Owed) (st : Status) (detail tick : Nat) (s : State) : (completeOpt o st detail tick s).wick = s.wick := by rw [completeOpt_frame]
@[simp] theorem completeOpt_cal (o : Option Owed) (st : Status) (detail tick : Nat) (s : State) : (completeOpt o st detail tick s).cal = s.cal := by rw [completeOpt_frame]
@[simp] theorem completeOpt_mbx (o : Option Owed) (st : Status) (detail tick : Nat) (s : State) : (completeOpt o st detail tick s).mbx = s.mbx := by rw [completeOpt_frame]
@[simp] theorem completeOpt_fn (o : Option Owed) (st : Status) (detail tick : Nat) (s : State) : (completeOpt o st detail tick s).fn = s.fn := by rw [completeOpt_frame]
@[simp] theorem completeOpt_pace (o : Option Owed) (st : Status) (detail tick : Nat) (s : State) : (completeOpt o st detail tick s).pace = s.pace := by rw [completeOpt_frame]
@[simp] theorem completeOpt_mon (o : Option Owed) (st : Status) (detail tick : Nat) (s : State) : (completeOpt o st detail tick s).mon = s.mon := by rw [completeOpt_frame]
@[simp] theorem completeOpt_net (o : Option Owed) (st : Status) (detail tick : Nat) (s : State) : (completeOpt o st detail tick s).net = s.net := by rw [completeOpt_frame]
@[simp] theorem chanOf_completeOpt (o : Option Owed) (st : Status) (detail tick : Nat) (s : State) : chanOf (completeOpt o st detail tick s) = chanOf s := by rw [completeOpt_frame]; rfl
@[simp] theorem bankSt_completeOpt (o : Option Owed) (st : Status) (detail tick : Nat) (s : State) : bankSt (completeOpt o st detail tick s) = bankSt s := by rw [completeOpt_frame]; rfl
@[simp] theorem excOf_completeOpt (o : Option Owed) (st : Status) (detail tick : Nat) (s : State) : excOf (completeOpt o st detail tick s) = excOf s := by rw [completeOpt_frame]; rfl
@[simp] theorem tileOf_completeOpt (o : Option Owed) (st : Status) (detail tick : Nat) (s : State) : tileOf (completeOpt o st detail tick s) = tileOf s := by rw [completeOpt_frame]; rfl
@[simp] theorem compOf_completeOpt (o : Option Owed) (st : Status) (detail tick : Nat) (s : State) : compOf (completeOpt o st detail tick s) = compOf s := by rw [completeOpt_frame]; rfl
@[simp] theorem auxOf_completeOpt (o : Option Owed) (st : Status) (detail tick : Nat) (s : State) : auxOf (completeOpt o st detail tick s) = auxOf s := by rw [completeOpt_frame]; rfl
@[simp] theorem voutOf_completeOpt (o : Option Owed) (st : Status) (detail tick : Nat) (s : State) : voutOf (completeOpt o st detail tick s) = voutOf s := by rw [completeOpt_frame]; rfl
@[simp] theorem strOf_completeOpt (o : Option Owed) (st : Status) (detail tick : Nat) (s : State) : strOf (completeOpt o st detail tick s) = strOf s := by rw [completeOpt_frame]; rfl
@[simp] theorem grpOf_completeOpt (o : Option Owed) (st : Status) (detail tick : Nat) (s : State) : grpOf (completeOpt o st detail tick s) = grpOf s := by rw [completeOpt_frame]; rfl
@[simp] theorem seqrOf_completeOpt (o : Option Owed) (st : Status) (detail tick : Nat) (s : State) : seqrOf (completeOpt o st detail tick s) = seqrOf s := by rw [completeOpt_frame]; rfl
@[simp] theorem loopOf_completeOpt (o : Option Owed) (st : Status) (detail tick : Nat) (s : State) : loopOf (completeOpt o st detail tick s) = loopOf s := by rw [completeOpt_frame]; rfl
@[simp] theorem portOf_completeOpt (o : Option Owed) (st : Status) (detail tick : Nat) (s : State) : portOf (completeOpt o st detail tick s) = portOf s := by rw [completeOpt_frame]; rfl
@[simp] theorem fnOf_completeOpt (o : Option Owed) (st : Status) (detail tick : Nat) (s : State) : fnOf (completeOpt o st detail tick s) = fnOf s := by rw [completeOpt_frame]; rfl
@[simp] theorem boxOf_completeOpt (o : Option Owed) (st : Status) (detail tick : Nat) (s : State) : boxOf (completeOpt o st detail tick s) = boxOf s := by rw [completeOpt_frame]; rfl
@[simp] theorem monOf_completeOpt (o : Option Owed) (st : Status) (detail tick : Nat) (s : State) : monOf (completeOpt o st detail tick s) = monOf s := by rw [completeOpt_frame]; rfl
@[simp] theorem paceOf_completeOpt (o : Option Owed) (st : Status) (detail tick : Nat) (s : State) : paceOf (completeOpt o st detail tick s) = paceOf s := by rw [completeOpt_frame]; rfl
@[simp] theorem netOf_completeOpt (o : Option Owed) (st : Status) (detail tick : Nat) (s : State) : netOf (completeOpt o st detail tick s) = netOf s := by rw [completeOpt_frame]; rfl
@[simp] theorem collOf_completeOpt (o : Option Owed) (st : Status) (detail tick : Nat) (s : State) : collOf (completeOpt o st detail tick s) = collOf s := by rw [completeOpt_frame]; rfl
@[simp] theorem tdcOf_completeOpt (o : Option Owed) (st : Status) (detail tick : Nat) (s : State) : tdcOf (completeOpt o st detail tick s) = tdcOf s := by rw [completeOpt_frame]; rfl
@[simp] theorem beaconOf_completeOpt (o : Option Owed) (st : Status) (detail tick : Nat) (s : State) : beaconOf (completeOpt o st detail tick s) = beaconOf s := by rw [completeOpt_frame]; rfl

/-- A monitored value touches the monitors alone. -/
theorem monValue_frame (s : State) (cls idx : Nat) (x : Int) : monValue s cls idx x = { s with mon := (monValue s cls idx x).mon } := rfl
@[simp] theorem monValue_pending (s : State) (c i : Nat) (v : Int) : (monValue s c i v).pending = s.pending := rfl
@[simp] theorem monValue_now (s : State) (c i : Nat) (v : Int) : (monValue s c i v).now = s.now := rfl
@[simp] theorem monValue_freeCtr (s : State) (c i : Nat) (v : Int) : (monValue s c i v).freeCtr = s.freeCtr := rfl
@[simp] theorem monValue_sent (s : State) (c i : Nat) (v : Int) : (monValue s c i v).sent = s.sent := rfl
@[simp] theorem monValue_pwr (s : State) (c i : Nat) (v : Int) : (monValue s c i v).pwr = s.pwr := rfl
@[simp] theorem monValue_glb (s : State) (c i : Nat) (v : Int) : (monValue s c i v).glb = s.glb := rfl
@[simp] theorem monValue_io (s : State) (c i : Nat) (v : Int) : (monValue s c i v).io = s.io := rfl
@[simp] theorem monValue_tb (s : State) (c i : Nat) (v : Int) : (monValue s c i v).tb = s.tb := rfl
@[simp] theorem monValue_fe (s : State) (c i : Nat) (v : Int) : (monValue s c i v).fe = s.fe := rfl
@[simp] theorem monValue_chd (s : State) (c i : Nat) (v : Int) : (monValue s c i v).chd = s.chd := rfl
@[simp] theorem monValue_lin (s : State) (c i : Nat) (v : Int) : (monValue s c i v).lin = s.lin := rfl
@[simp] theorem monValue_str (s : State) (c i : Nat) (v : Int) : (monValue s c i v).str = s.str := rfl
@[simp] theorem monValue_trg (s : State) (c i : Nat) (v : Int) : (monValue s c i v).trg = s.trg := rfl
@[simp] theorem monValue_rm (s : State) (c i : Nat) (v : Int) : (monValue s c i v).rm = s.rm := rfl
@[simp] theorem monValue_cop (s : State) (c i : Nat) (v : Int) : (monValue s c i v).cop = s.cop := rfl
@[simp] theorem monValue_wick (s : State) (c i : Nat) (v : Int) : (monValue s c i v).wick = s.wick := rfl
@[simp] theorem monValue_cal (s : State) (c i : Nat) (v : Int) : (monValue s c i v).cal = s.cal := rfl
@[simp] theorem monValue_mbx (s : State) (c i : Nat) (v : Int) : (monValue s c i v).mbx = s.mbx := rfl
@[simp] theorem monValue_ntq (s : State) (c i : Nat) (v : Int) : (monValue s c i v).ntq = s.ntq := rfl
@[simp] theorem monValue_fn (s : State) (c i : Nat) (v : Int) : (monValue s c i v).fn = s.fn := rfl
@[simp] theorem monValue_pace (s : State) (c i : Nat) (v : Int) : (monValue s c i v).pace = s.pace := rfl
@[simp] theorem monValue_net (s : State) (c i : Nat) (v : Int) : (monValue s c i v).net = s.net := rfl
@[simp] theorem chanOf_monValue (s : State) (c i : Nat) (v : Int) : chanOf (monValue s c i v) = chanOf s := rfl
@[simp] theorem bankSt_monValue (s : State) (c i : Nat) (v : Int) : bankSt (monValue s c i v) = bankSt s := rfl
@[simp] theorem excOf_monValue (s : State) (c i : Nat) (v : Int) : excOf (monValue s c i v) = excOf s := rfl
@[simp] theorem tileOf_monValue (s : State) (c i : Nat) (v : Int) : tileOf (monValue s c i v) = tileOf s := rfl
@[simp] theorem compOf_monValue (s : State) (c i : Nat) (v : Int) : compOf (monValue s c i v) = compOf s := rfl
@[simp] theorem auxOf_monValue (s : State) (c i : Nat) (v : Int) : auxOf (monValue s c i v) = auxOf s := rfl
@[simp] theorem voutOf_monValue (s : State) (c i : Nat) (v : Int) : voutOf (monValue s c i v) = voutOf s := rfl
@[simp] theorem strOf_monValue (s : State) (c i : Nat) (v : Int) : strOf (monValue s c i v) = strOf s := rfl
@[simp] theorem grpOf_monValue (s : State) (c i : Nat) (v : Int) : grpOf (monValue s c i v) = grpOf s := rfl
@[simp] theorem seqrOf_monValue (s : State) (c i : Nat) (v : Int) : seqrOf (monValue s c i v) = seqrOf s := rfl
@[simp] theorem loopOf_monValue (s : State) (c i : Nat) (v : Int) : loopOf (monValue s c i v) = loopOf s := rfl
@[simp] theorem portOf_monValue (s : State) (c i : Nat) (v : Int) : portOf (monValue s c i v) = portOf s := rfl
@[simp] theorem fnOf_monValue (s : State) (c i : Nat) (v : Int) : fnOf (monValue s c i v) = fnOf s := rfl
@[simp] theorem ntqOf_monValue (s : State) (c i : Nat) (v : Int) : ntqOf (monValue s c i v) = ntqOf s := rfl
@[simp] theorem boxOf_monValue (s : State) (c i : Nat) (v : Int) : boxOf (monValue s c i v) = boxOf s := rfl
@[simp] theorem paceOf_monValue (s : State) (c i : Nat) (v : Int) : paceOf (monValue s c i v) = paceOf s := rfl
@[simp] theorem netOf_monValue (s : State) (c i : Nat) (v : Int) : netOf (monValue s c i v) = netOf s := rfl
@[simp] theorem collOf_monValue (s : State) (c i : Nat) (v : Int) : collOf (monValue s c i v) = collOf s := rfl
@[simp] theorem tdcOf_monValue (s : State) (c i : Nat) (v : Int) : tdcOf (monValue s c i v) = tdcOf s := rfl
@[simp] theorem beaconOf_monValue (s : State) (c i : Nat) (v : Int) : beaconOf (monValue s c i v) = beaconOf s := rfl

/-- Tokens taken touch the pool and its requester's count alone. -/
theorem fabTake_frame (r n : Nat) (s : State) :
    fabTake r n s = { s with str := { s.str with fabric := (fabTake r n s).str.fabric, fabHeldR := (fabTake r n s).str.fabHeldR } } := rfl

theorem fabGive_frame (r n : Nat) (s : State) :
    fabGive r n s = { s with str := { s.str with fabric := (fabGive r n s).str.fabric, fabHeldR := (fabGive r n s).str.fabHeldR } } := rfl

/-- What a requester holds after it takes tokens: no more than its reservation where it held no more before (R38). -/
theorem fabHeld_fabTake (r n : Nat) (s : State) (h : fabHeld s r ≤ fabReserve r) : fabHeld (fabTake r n s) r ≤ fabReserve r := by
  have e : fabHeld (fabTake r n s) r = fabHeld s r + min n (fabReserve r - fabHeld s r) := tget_tset_same _ _ _ _
  omega

/-- What a requester holds after it gives tokens back. -/
theorem fabHeld_fabGive (r n : Nat) (s : State) : fabHeld (fabGive r n s) r = fabHeld s r - min n (fabHeld s r) := tget_tset_same _ _ _ _

/-- A reclaim touches the free values' counter, the pool and the requesters' counts alone. -/
theorem fabReclaim_frame (id : Nat) (s : State) :
    fabReclaim id s = { s with freeCtr := (fabReclaim id s).freeCtr,
                               str := { s.str with fabric := (fabReclaim id s).str.fabric, fabHeldR := (fabReclaim id s).str.fabHeldR } } := by
  unfold fabReclaim
  split <;> rfl

/-- A function that alone is a requester holds no token once its own are reclaimed (R23). -/
theorem fabReclaim_sole (id r : Nat) (s : State) (h : fabRequester id = some (r, true)) : fabHeld (fabReclaim id s) r = 0 := by
  unfold fabReclaim
  rw [h]
  simp only [if_true]
  generalize fabFlight s r = u
  have e : fabHeld (fabGive r (fabHeld u r) u.free.2) r = 0 := by
    rw [fabHeld_fabGive]
    show fabHeld u r - min (fabHeld u r) (fabHeld u r) = 0
    omega
  unfold fabHeld at e ⊢
  exact e

/-! ### Datagrams (R432) -/

@[simp] theorem boxOf_sendUdp (a : BitVec 128) (q r : Nat) (b : List Byte) (s : State) : boxOf (sendUdp a q r b s) = boxOf s := rfl

/-- A datagram to an on-link destination is sent, and nothing else changes. -/
theorem sendUdp_onLink (a : BitVec 128) (q r : Nat) (b : List Byte) (s : State) (h : onLink s a = true) :
    sendUdp a q r b s = s.send (.udp a q r b) := by
  simp only [sendUdp, h, if_true]; rfl

/-- A datagram to any other destination is not sent. -/
theorem sendUdp_offLink (a : BitVec 128) (q r : Nat) (b : List Byte) (s : State) (h : onLink s a = false) : sendUdp a q r b s = s := by
  simp only [sendUdp, h, Bool.false_eq_true, if_false, List.append_nil]

end Sys2Proof.Machine
end

