-- ==== Sys2Proof/Laws/Mailbox.lean ====
section
/-! SUPPORT. Mailboxes: a request that is taken is validated and finished, and what an answer writes and leaves. -/
namespace Sys2Proof.Machine

theorem boxOf_change (s : State) (m k : Nat) (f : Mailbox → Mailbox) : boxOf (s.onBox m f) k = if k = m then f (boxOf s m) else boxOf s k := by
  simp only [boxOf, State.onBox, tget_tset]

/-- A request as the hub takes it. -/
def takenReq (op : Nat) (h : ReqHdr) (p : List Byte) : Taken := { opcode := op, hdr := h, pay := p }

/-- The state in which a request that an idle mailbox takes is validated. -/
def takenState (op : Nat) (h : ReqHdr) (p : List Byte) (s : State) : State :=
  takeReq h.mbx.val (takenReq op h p)
    (s.onBox h.mbx.val fun b => { b with req := splice b.req 0 (takenBytes (takenReq op h p) ++ p) })

theorem takenState_frame (op : Nat) (h : ReqHdr) (p : List Byte) (s : State) :
    takenState op h p s = { s with mbx := { s.mbx with box := (takenState op h p s).mbx.box } } := rfl

theorem boxOf_takenState (op : Nat) (h : ReqHdr) (p : List Byte) (s : State) (k : Nat) (hk : k ≠ h.mbx.val) :
    boxOf (takenState op h p s) k = boxOf s k := by
  rw [takenState, takeReq, boxOf_change, if_neg hk, boxOf_change, if_neg hk]

theorem boxOf_takenState_own (op : Nat) (h : ReqHdr) (p : List Byte) (s : State) :
    boxOf (takenState op h p s) h.mbx.val = { boxOf s h.mbx.val with
      respReady := false, busy := true, count := (boxOf s h.mbx.val).count + 1, taken := some (takenReq op h p), rungAt := s.now,
      req := splice (boxOf s h.mbx.val).req 0 (takenBytes (takenReq op h p) ++ p) } := by
  rw [takenState, takeReq, boxOf_change, if_pos rfl, boxOf_change, if_pos rfl]; rfl

theorem padTo_self (p : List Byte) (n : Nat) (h : p.length = n) : padTo n p = p := by
  subst h; simp [padTo]

/-- A request that an idle mailbox takes, whose SEQ is not in the log and whose header and class are sound, goes to validation. -/
theorem serve_taken (op : Nat) (c : Instr) (h : ReqHdr) (p : List Byte) (s : State) (i : OpInfo)
    (up : s.pwr.fwUp = true) (pf : s.pwr.pwrfail = false) (tk : s.pwr.llTakeover = false) (idle : (boxOf s h.mbx.val).busy = false)
    (fresh : ∀ e ∈ (boxOf s h.mbx.val).log, e.req.hdr.seq ≠ h.seq) (len : p.length = h.length.toNat) (short : p.length ≤ 240)
    (known : opInfo op = some i) (sound : headBad i h p = none)
    (cls : bit (protOf s (protEntry s h.mbx.val)).classes.toNat i.cls = true) :
    serve op c h p s = done (if i.multi then runPart h.mbx.val (takenReq op h p) c (takenState op h p s)
      else runSingle h.mbx.val (takenReq op h p) i c (takenState op h p s)) := by
  have hp : padTo (min 240 h.length.toNat) p = p := padTo_self p _ (by omega)
  have hl : (boxOf (takenState op h p s) h.mbx.val).log.find? (fun e => e.req.hdr.seq == (takenReq op h p).hdr.seq) = none := by
    rw [boxOf_takenState_own]
    exact List.find?_eq_none.mpr fun e he => by simpa [takenReq] using fresh e he
  have hc : bit (protOf (takenState op h p s) (protEntry (takenState op h p s) h.mbx.val)).classes.toNat i.cls = true := cls
  have pre : preAnswer h.mbx.val (takenReq op h p) (takenState op h p s) = none := by
    unfold preAnswer
    dsimp only
    rw [hl]
    simp only [show (takenReq op h p).opcode = op from rfl, show (takenReq op h p).hdr = h from rfl, show (takenReq op h p).pay = p from rfl,
      known, sound, hc, if_true]
  have e : serve op c h p s = done (runRequest h.mbx.val (takenReq op h p) c (takenState op h p s)) := by
    unfold serve
    simp only [takesRequests, up, pf, idle, Bool.not_false, Bool.and_true, Bool.not_true, if_false, hp, Bool.false_and, Bool.false_eq_true]
    simp only [takeReq, onBox_pwr, tk, Bool.false_eq_true, if_false]
    rfl
  rw [e]
  unfold runRequest
  rw [pre]
  simp only [takenReq, known]

/-! ### The count of staged changes (R369) -/

theorem loopStaged_le (l : Loop) : loopStaged l ≤ 3 := by
  unfold loopStaged b2n
  repeat' split
  all_goals omega

/-- Beside the list and the held FILT_SELECT, at most 97 changes are staged: one FILT_SWAP, and three of each loop. -/
theorem stagedCount_le (s : State) : stagedCount s ≤ s.mbx.staged.length + s.chd.held.length + 97 := by
  have h : ∀ xs : List Nat, (xs.map fun n => loopStaged (loopOf s n)).sum ≤ 3 * xs.length := by
    intro xs
    induction xs with
    | nil => simp
    | cons x xs ih => have := loopStaged_le (loopOf s x); simp only [List.map_cons, List.sum_cons, List.length_cons]; omega
  have := h (List.range 32)
  have d : b2n s.chd.deferred.isSome ≤ 1 := by unfold b2n; split <;> omega
  simp only [List.length_range] at this
  unfold stagedCount
  omega

/-! ### An answer -/

theorem writeResp_box (m : Nat) (r : Resp) (s : State) :
    boxOf (writeResp m r s) m = { boxOf s m with
      resp := padTo 256 (respBytes r), respReady := true, busy := false, lastSeq := r.seq, taken := none,
      restarts := if r.status = .restarted then (boxOf s m).restarts + 1 else (boxOf s m).restarts } := by
  simp only [writeResp]
  split <;> split <;> simp only [boxOf_sendUdp, takeCounter, boxOf_onColl, boxOf_msi, boxOf_change, if_true, boxOf_monValue]

theorem writeResp_box_other (m k : Nat) (r : Resp) (s : State) (h : k ≠ m) : boxOf (writeResp m r s) k = boxOf s k := by
  simp only [writeResp]
  split <;> split <;> simp only [boxOf_sendUdp, takeCounter, boxOf_onColl, boxOf_msi, boxOf_change, if_neg h, boxOf_monValue]

theorem writeResp_frame (m : Nat) (r : Resp) (s : State) :
    writeResp m r s = { s with mbx := { s.mbx with box := (writeResp m r s).mbx.box }, mon := (writeResp m r s).mon,
                               io := { s.io with msix := (writeResp m r s).io.msix }, sent := (writeResp m r s).sent,
                               net := { s.net with coll := (writeResp m r s).net.coll } } := by
  simp only [writeResp, takeCounter]
  split <;> split <;> rfl

theorem writeResp_host (m : Nat) (r : Resp) (s : State) (h : m < 6) : (writeResp m r s).sent = s.sent ∧ (writeResp m r s).net = s.net := by
  simp only [writeResp, takeCounter, if_pos h]
  split <;> exact ⟨rfl, rfl⟩

/-- An answer that the log takes and that no alias changes. -/
theorem answer_logged (m : Nat) (t : Taken) (r : Resp) (s : State) (h1 : r.status ≠ .restarted) (h2 : r.status ≠ .staleSequence)
    (h3 : (if t.opcode / 256 = 0xF then aliasResp r else r) = r) :
    answer m t r s = writeResp m r (s.onBox m fun b => { b with log := ({ req := t, crc := crc32 (takenBytes t), resp := r } :: b.log).take 16 }) := by
  simp only [answer, h3, h1, h2, decide_false, Bool.or_self, Bool.false_eq_true, if_false]

/-- Which answers a level-2 alias passes on as they are (R385). -/
theorem lvl2_same (op : Nat) (r : Resp)
    (h : op / 256 ≠ 0xF ∨ r.status = .ok ∨ r.status = .accepted ∨ r.status = .busy ∨ r.status = .functionState ∨ r.status = .badArgument) :
    (if op / 256 = 0xF then aliasResp r else r) = r := by
  split
  · rcases h with h | h | h | h | h | h
    · contradiction
    all_goals simp only [aliasResp, h]
  · rfl

end Sys2Proof.Machine
end

