-- ==== Sys2Proof/Laws/Memory.lean ====
section
/-! SUPPORT. The laws of the two byte memories: every operation keeps the canonical form, a byte that was written reads
back, and every other byte reads as before. -/
namespace Sys2Proof.Machine

theorem memWfFrom_mono (d : Byte) (m : List Host.Cell) : ∀ {lo lo' : Nat}, lo' ≤ lo → memWfFrom d lo m = true → memWfFrom d lo' m = true := by
  cases m with
  | nil => intros; rfl
  | cons c t =>
    obtain ⟨j, v⟩ := c
    intro lo lo' hl h
    simp only [memWfFrom, Bool.and_eq_true, decide_eq_true_eq] at h ⊢
    exact ⟨⟨Nat.le_trans hl h.1.1, h.1.2⟩, h.2⟩

theorem memWfFrom_write (d : Byte) (a : Nat) (v : Byte) :
    ∀ (m : List Host.Cell) (lo : Nat), lo ≤ a → memWfFrom d lo m = true → memWfFrom d lo (memWrite d m a v) = true
  | [], lo, hl, _ => by
    simp only [memWrite]
    split
    · rfl
    · rename_i h; simp [memWfFrom, hl, h]
  | (j, w) :: t, lo, hl, h => by
    have h' := h
    simp only [memWfFrom, Bool.and_eq_true, decide_eq_true_eq] at h
    simp only [memWrite]
    split
    · rename_i ha
      split
      · exact h'
      · rename_i hv
        simp only [memWfFrom, Bool.and_eq_true, decide_eq_true_eq]
        exact ⟨⟨hl, hv⟩, ⟨by omega, h.1.2⟩, h.2⟩
    · rename_i ha
      split
      · rename_i hj
        subst hj
        split
        · exact memWfFrom_mono d t (Nat.le_succ_of_le h.1.1) h.2
        · rename_i hv
          simp only [memWfFrom, Bool.and_eq_true, decide_eq_true_eq]
          exact ⟨⟨hl, hv⟩, h.2⟩
      · rename_i hj
        simp only [memWfFrom, Bool.and_eq_true, decide_eq_true_eq]
        exact ⟨h.1, memWfFrom_write d a v t (j + 1) (by omega) h.2⟩

/-- A byte written keeps the canonical form. -/
theorem memWf_memWrite (d : Byte) (m : List Host.Cell) (a : Nat) (v : Byte) (h : memWf d m = true) : memWf d (memWrite d m a v) = true :=
  memWfFrom_write d a v m 0 (Nat.zero_le a) h

/-- Bytes written keep the canonical form. -/
theorem memWf_memWrites (d : Byte) : ∀ (bs : List Byte) (m : List Host.Cell) (a : Nat), memWf d m = true → memWf d (memWrites d m a bs) = true
  | [], _, _, h => h
  | b :: bs, m, a, h => memWf_memWrites d bs _ (a + 1) (memWf_memWrite d m a b h)

theorem memWfFrom_filter (d : Byte) (p : Host.Cell → Bool) :
    ∀ (m : List Host.Cell) (lo : Nat), memWfFrom d lo m = true → memWfFrom d lo (m.filter p) = true
  | [], _, _ => rfl
  | (j, w) :: t, lo, h => by
    simp only [memWfFrom, Bool.and_eq_true, decide_eq_true_eq] at h
    have ih := memWfFrom_filter d p t (j + 1) h.2
    simp only [List.filter]
    split
    · simp only [memWfFrom, Bool.and_eq_true, decide_eq_true_eq]
      exact ⟨h.1, ih⟩
    · exact memWfFrom_mono d _ (Nat.le_succ_of_le h.1.1) ih

/-- An erased range keeps the canonical form. -/
theorem memWf_memErase (d : Byte) (m : List Host.Cell) (a n : Nat) (h : memWf d m = true) : memWf d (memErase d m a n) = true :=
  memWfFrom_filter d _ m 0 h

theorem memRead_below (d : Byte) : ∀ (m : List Host.Cell) (lo a : Nat), a < lo → memWfFrom d lo m = true → memRead d m a = d
  | [], _, _, _, _ => rfl
  | (j, w) :: t, lo, a, ha, h => by
    simp only [memWfFrom, Bool.and_eq_true, decide_eq_true_eq] at h
    have : ¬ j = a := by omega
    have : a < j := by omega
    simp [memRead, *]

theorem memRead_memWrite_from (d : Byte) (a b : Nat) (v : Byte) :
    ∀ (m : List Host.Cell) (lo : Nat), memWfFrom d lo m = true → memRead d (memWrite d m a v) b = if b = a then v else memRead d m b
  | [], _, _ => by
    simp only [memWrite]
    split
    · rename_i h; subst h; simp [memRead]
    · by_cases hb : b = a
      · simp [memRead, hb]
      · have : ¬ a = b := fun h => hb h.symm
        simp [memRead, hb, this]
  | (j, w) :: t, lo, h => by
    simp only [memWfFrom, Bool.and_eq_true, decide_eq_true_eq] at h
    simp only [memWrite]
    split
    · rename_i ha
      by_cases hb : b = a
      · subst hb
        have : ¬ j = b := by omega
        split
        · rename_i hv; simp [memRead, this, ha, hv]
        · simp [memRead]
      · have : ¬ a = b := fun h => hb h.symm
        split
        · simp [hb]
        · by_cases hab : b < a
          · have h1 : ¬ j = b := by omega
            have h2 : b < j := by omega
            simp [memRead, this, hb, hab, h1, h2]
          · simp [memRead, this, hb, hab]
    · rename_i ha
      split
      · rename_i hj
        subst hj
        by_cases hb : b = j
        · subst hb
          split
          · rename_i hv
            rw [memRead_below d t (b + 1) b (Nat.lt_succ_self b) h.2]
            simp [hv]
          · simp [memRead]
        · have : ¬ j = b := fun h => hb h.symm
          split
          · by_cases hlt : b < j
            · rw [memRead_below d t (j + 1) b (by omega) h.2]; simp [memRead, this, hb, hlt]
            · simp [memRead, this, hb, hlt]
          · simp [memRead, this, hb]
      · rename_i hj
        by_cases hjb : j = b
        · have : ¬ b = a := by omega
          simp [memRead, hjb, this]
        · by_cases hlt : b < j
          · have : ¬ b = a := by omega
            simp [memRead, hjb, hlt, this]
          · simp only [memRead, hjb, hlt, if_false]
            exact memRead_memWrite_from d a b v t (j + 1) h.2

/-- A read after a write: the byte written, or what was there. -/
theorem memRead_memWrite (d : Byte) (m : List Host.Cell) (a b : Nat) (v : Byte) (h : memWf d m = true) :
    memRead d (memWrite d m a v) b = if b = a then v else memRead d m b :=
  memRead_memWrite_from d a b v m 0 h

/-- A byte outside the bytes written reads as before. -/
theorem memRead_memWrites_outside (d : Byte) (b : Nat) :
    ∀ (bs : List Byte) (m : List Host.Cell) (a : Nat), memWf d m = true → (b < a ∨ a + bs.length ≤ b) → memRead d (memWrites d m a bs) b = memRead d m b
  | [], _, _, _, _ => rfl
  | v :: bs, m, a, h, hb => by
    simp only [List.length_cons] at hb
    rw [memWrites, memRead_memWrites_outside d b bs _ (a + 1) (memWf_memWrite d m a v h) (by omega), memRead_memWrite d m a b v h]
    have : ¬ b = a := by omega
    simp [this]

/-- The bytes written read back. -/
theorem memRead_memWrites_inside (d : Byte) :
    ∀ (bs : List Byte) (m : List Host.Cell) (a i : Nat) (hi : i < bs.length), memWf d m = true → memRead d (memWrites d m a bs) (a + i) = bs[i]
  | [], _, _, i, hi, _ => absurd hi (Nat.not_lt_zero i)
  | v :: bs, m, a, 0, _, h => by
    rw [memWrites, memRead_memWrites_outside d (a + 0) bs _ (a + 1) (memWf_memWrite d m a v h) (by omega), memRead_memWrite d m a (a + 0) v h]
    simp
  | v :: bs, m, a, i + 1, hi, h => by
    have := memRead_memWrites_inside d bs (memWrite d m a v) (a + 1) i (by simpa using hi) (memWf_memWrite d m a v h)
    rw [memWrites]
    simpa [Nat.add_assoc, Nat.add_comm 1 i] using this

/-- What `rmWrite` does to record memory. -/
theorem rmWrite_read (s : State) (a : Nat) (bs : List Byte) (h : memWf 0 s.rm.mem = true) (b : Nat) (hb : b < a ∨ a + bs.length ≤ b) :
    memRead 0 (rmWrite s a bs).rm.mem b = memRead 0 s.rm.mem b :=
  memRead_memWrites_outside 0 b bs s.rm.mem a h hb

/-- `rmWrite` keeps both memories canonical. -/
theorem rmWrite_memInv (s : State) (a : Nat) (bs : List Byte) (h : s.memInv) : (rmWrite s a bs).memInv :=
  ⟨memWf_memWrites 0 bs s.rm.mem a h.1, h.2⟩

end Sys2Proof.Machine
end

