-- ==== Sys2Proof/WellFormed.lean ====
section
/-! DEFINITION. Which commands can arrive: the operand ranges that the spec gives and the types do not. -/
namespace Sys2Proof

/-- Bytes of record memory, the window of BAR2 (R242, R399). -/
def memBytes : Nat := 0x4000000

/-- Bytes of BAR0 (R399). -/
def barBytes : Nat := 0x800000

/-- A mailbox request carries at most 240 bytes after its header (R359). -/
def payloadFits (p : List Byte) : Bool := p.length ≤ 240

/-- The command is one that the spec lets arrive. -/
def Instr.wf : Instr → Bool
  | .pornRise => true
  | .pornFall prog => prog.all (·.1 < 0x8000000)
  | .memFillComplete => true
  | .bootCodeRun _ _ => true
  | .firmwareStart => true
  | .pwrfailnAssert _ => true
  | .pwrfailnRelease _ => true
  | .internalPowerOnReset => true
  | .perstnAssert => true
  | .tickBoundary i => i.paceCount.length ≤ 24 && i.temps.length ≤ 5 && i.vexc.length ≤ 4 && i.exc.all (·.1 < 128)
  | .paceAlarmClear _ => true
  | .excPowerNotice _ => true
  | .excPowerShutoff _ => true
  | .tempAlarm _ => true
  | .tempAlarmClear _ => true
  | .monitorAutoSwap _ => true
  | .reductionIntervalEnd inst => inst < 64
  | .recordComplete _ => true
  | .filtSwapComplete => true
  | .drainEnd id => id < 1024
  | .functionOff id => id < 1024
  | .syncReceived _ => true
  | .followUpReceived _ => true
  | .announceReceived _ _ => true
  | .delayReqSend _ _ => true
  | .delayRespReceived _ _ _ => true
  | .syncTimeout => true
  | .announceReceiptTimeout => true
  | .servoWatchdog _ => true
  | .masterQualified => true
  | .lockAfterStep => true
  | .slewComplete _ => true
  | .synceSourceChange _ _ => true
  | .synceSourceLoss => true
  | .esmcReceived _ _ => true
  | .esmcSend => true
  | .beaconEdge _ => true
  | .voutCarrierStart _ _ => true
  | .eventEdge _ _ _ fine => fine < 320000
  | .comparatorCrossing _ _ _ fine => fine < 320000
  | .clampOnset _ _ => true
  | .clampRelease _ _ => true
  | .wireBreakDetect _ _ => true
  | .wireClear _ _ => true
  | .excDropoutOnset _ _ => true
  | .excLimitOnset _ _ => true
  | .excFaultEnd _ _ => true
  | .tileLinkWord _ _ => true
  | .chandlerRound sar => sar.all (·.1 < 16)
  | .lineariseSample => true
  | .sampleCommit _ => true
  | .commitDeadline _ => true
  | .cooperInlineDone _ => true
  | .blockSend _ _ => true
  | .streamAckReceived _ => true
  | .retransmissionTimeout _ _ _ _ => true
  | .trigEvaluation _ _ => true
  | .fireMessageReceived _ _ => true
  | .armMessageReceived _ => true
  | .disarmMessageReceived _ => true
  | .auxTimerFire _ _ _ => true
  | .auxSegmentStart _ => true
  | .auxConversionComplete _ _ => true
  | .auxTableApply _ => true
  | .scrubLine _ _ => true
  | .migrationStart _ => true
  | .migrationCopyDone => true
  | .migrationSwitch => true
  | .bar2Read addr len _ => addr + len ≤ memBytes
  | .bar2Write addr data => addr + data.length ≤ memBytes
  | .cooperJobStart => true
  | .cooperJobComplete => true
  | .loopEvaluation _ _ _ => true
  | .ffHoldExpiry _ _ => true
  | .injectCaptureEnd _ => true
  | .keepAliveFrame _ _ => true
  | .statusFrameReceived _ _ _ => true
  | .statusFrameMissing _ => true
  | .driveFrameLate _ => true
  | .checkpointWrite _ => true
  | .checkpointLate => true
  | .wickPartnerPowered => true
  | .wickCheckpointLoaded _ => true
  | .wickSelfTestDone _ _ => true
  | .wickTakeback => true
  | .pairHeartbeatSend => true
  | .pairHeartbeatReceived _ _ => true
  | .pairHeartbeatLoss _ => true
  | .lossOfSignal _ _ => true
  | .linkUp _ _ => true
  | .switchForward ingress _ _ _ _ => ingress ≤ 4
  | .learningAgeOut _ vlan => vlan < 4096
  | .arpRequestReceived _ _ _ _ => true
  | .neighbourSolicitationReceived _ _ _ => true
  | .icmpEchoReceived _ _ _ _ => true
  | .ringHealthSend _ => true
  | .ringHealthReceived _ _ _ => true
  | .ringHealthLoss => true
  | .ringLinkDownReceived _ _ => true
  | .ringLinkDownRepeat _ => true
  | .ringFlushReceived _ _ => true
  | .ringPortRestoreTimer _ => true
  | .mbxReqDatagram _ => true
  | .noticeAckDatagram _ => true
  | .noticeDatagramSend _ _ => true
  | .noticeResendTimeout _ _ => true
  | .crierBacklogMove _ => true
  | .ntqHeadRead _ _ => true
  | .ntqPop _ _ => true
  | .ntqDropRest _ _ => true
  | .mbxRing _ _ => true
  | .mbxAck _ _ => true
  | .multipartTimeout _ => true
  | .lamplighterHeartbeatMiss => true
  | .lamplighterTakeoverComplete => true
  | .fwHandover _ => true
  | .fwProbationPass => true
  | .calMatchWindow _ => true
  | .calDeliverySwitch _ => true
  | .calFrontEndPark _ => true
  | .calPointComplete _ => true
  | .calStoreWrite _ _ => true
  | .calCoeffEffective => true
  | .renewalHandover id => id < 1024
  | .functionSelfTestDone id _ => id < 1024
  | .renewalReturn id => id < 1024
  | .frsResetAssert _ id => id < 1024
  | .frsResetRelease _ id => id < 1024
  | .frsDisable _ id => id < 1024
  | .frsEnable _ id => id < 1024
  | .monStart _ _ => true
  | .monStop _ _ => true
  | .monSnap _ _ => true
  | .rcRead _ addr => addr < barBytes
  | .nowNsRead _ _ => true
  | .stampLoRead _ _ => true
  | .driveLastLoRead _ _ _ => true
  | .registerWrite _ addr size _ => addr < barBytes && (size == 1 || size == 2 || size == 4 || size == 8)
  | .spiRegisterRead addr _ => addr < 0x1000000
  | .spiRegisterWrite addr _ _ => addr < 0x1000000
  | .spiMemoryRead addr len _ => addr + len ≤ memBytes
  | .spiStatus => true
  | .spiUnknownCommand _ => true
  | .jtagBypass => true
  | .jtagSamplePreload pins preload => pins.length == preload.length
  | .jtagExtest => true
  | .jtagIdcode => true
  | .jtagClamp => true
  | .jtagHighz => true
  | .hubInfo _ p => payloadFits p
  | .permRead _ p => payloadFits p
  | .nop _ p => payloadFits p
  | .chanConfig _ p => payloadFits p
  | .wbConfig _ p => payloadFits p
  | .wbComparator _ p => payloadFits p
  | .excConfig _ p => payloadFits p
  | .feRoute _ p => payloadFits p
  | .auxScanLoad _ p => payloadFits p
  | .auxTimer _ p => payloadFits p
  | .auxScanInfo _ p => payloadFits p
  | .linSet _ p => payloadFits p
  | .linRead _ p => payloadFits p
  | .voutSet _ p => payloadFits p
  | .voutStop _ p => payloadFits p
  | .calBegin _ p => payloadFits p
  | .calPoint _ p => payloadFits p
  | .calCompute _ p => payloadFits p
  | .calCommit _ p => payloadFits p
  | .calEnd _ p => payloadFits p
  | .calAbort _ p => payloadFits p
  | .calStatus _ p => payloadFits p
  | .calRead _ p => payloadFits p
  | .filtSelect _ p => payloadFits p
  | .filtSetDefine _ p => payloadFits p
  | .filtCoefWrite _ p => payloadFits p
  | .filtCoefRead _ p => payloadFits p
  | .filtSwap _ p => payloadFits p
  | .streamDefine _ p => payloadFits p
  | .streamEnable _ p => payloadFits p
  | .streamDisable _ p => payloadFits p
  | .streamRelease _ p => payloadFits p
  | .streamDescribe _ p => payloadFits p
  | .ledgerClear _ p => payloadFits p
  | .memPlan _ p => payloadFits p
  | .memStatus _ p => payloadFits p
  | .scrubConfig _ p => payloadFits p
  | .trigSeqLoad _ p => payloadFits p
  | .trigGroupDefine _ p => payloadFits p
  | .trigArm _ p => payloadFits p
  | .trigDisarm _ p => payloadFits p
  | .trigForce _ p => payloadFits p
  | .trigStatus _ p => payloadFits p
  | .recList _ p => payloadFits p
  | .recRelease _ p => payloadFits p
  | .histDefine _ p => payloadFits p
  | .timeStatus _ p => payloadFits p
  | .ptpConfig _ p => payloadFits p
  | .timeSet _ p => payloadFits p
  | .synceConfig _ p => payloadFits p
  | .tsCorrection _ p => payloadFits p
  | .beaconSet _ p => payloadFits p
  | .beaconStop _ p => payloadFits p
  | .eventConfig _ p => payloadFits p
  | .loopDefine _ p => payloadFits p
  | .loopMode _ p => payloadFits p
  | .loopParam _ p => payloadFits p
  | .loopInject _ p => payloadFits p
  | .loopTuneRead _ p => payloadFits p
  | .loopStatus _ p => payloadFits p
  | .wickConfig _ p => payloadFits p
  | .wickStatus _ p => payloadFits p
  | .pairDefine _ p => payloadFits p
  | .driveStatus _ p => payloadFits p
  | .cooperJob _ p => payloadFits p
  | .cooperFlush _ p => payloadFits p
  | .cooperCancel _ p => payloadFits p
  | .cooperStatus _ p => payloadFits p
  | .funcEnable _ p => payloadFits p
  | .funcDisable _ p => payloadFits p
  | .funcRenew _ p => payloadFits p
  | .funcState _ p => payloadFits p
  | .legacySubstitute _ p => payloadFits p
  | .legacyRelease _ p => payloadFits p
  | .planeStart _ p => payloadFits p
  | .planeStop _ p => payloadFits p
  | .fwInfo _ p => payloadFits p
  | .fwWrite _ p => payloadFits p
  | .fwVerify _ p => payloadFits p
  | .fwActivate _ p => payloadFits p
  | .monConfig _ p => payloadFits p
  | .monRead _ p => payloadFits p
  | .netPortConfig _ p => payloadFits p
  | .netAddr _ p => payloadFits p
  | .ringConfig _ p => payloadFits p
  | .collectorSet _ p => payloadFits p
  | .netStatus _ p => payloadFits p
  | .l2Ident _ p => payloadFits p
  | .l2Chan _ p => payloadFits p
  | .l2Subst _ p => payloadFits p
  | .l2Unsubst _ p => payloadFits p
  | .l2Status _ p => payloadFits p
  | .perstnDeassert _ _ => true
  | .fwVerifyComplete _ => true
  | .voutEdge _ _ => true
  | .driveFrameResend _ _ => true
  | .excDropoutOrLimitEnd _ _ => true
  | .testLogicReset => true
  | .arpCacheExpiry _ => true
  | .duplicateAddressDetection _ => true

end Sys2Proof
end

