-- ==== Sys2Proof/Laws/Requests.lean ====
section
/-! SUPPORT. Requests from the hypotheses of the statements: what a command that is sound and alone is answered, what it stages,
and what it does at once. -/
namespace Sys2Proof.Machine

/-- The request that validation sees. -/
def soleReq (op : Nat) (h : ReqHdr) (p : List Byte) (n : Nat) : Req := { h, op, parts := [p], tick := n }

/-- The checks of a list that all pass. -/
theorem firstOf_pass (a : Ans) : ∀ l : List (Bool × Ans), (∀ x ∈ l, x.1 = false) → firstOf l a = a
  | [], _ => rfl
  | (b, r) :: t, h => by
    obtain rfl : b = false := h (b, r) (List.mem_cons_self ..)
    exact firstOf_pass a t fun x hx => h x (List.mem_cons_of_mem _ hx)

/-- A state like another one but for its mailboxes' own contents, with nothing staged: that in which a request is validated. -/
structure Validating (h : ReqHdr) (s u : State) : Prop where
  own    : (boxOf u h.mbx.val).count = (boxOf s h.mbx.val).count + 1
  other  : ∀ k, k ≠ h.mbx.val → boxOf u k = boxOf s k
  staged : u.mbx.staged = s.mbx.staged
  waits  : u.mbx.waitLedger = s.mbx.waitLedger
  frame  : u = { s with mbx := u.mbx }

theorem takenState_in (op : Nat) (h : ReqHdr) (p : List Byte) (s : State) : Validating h s (takenState op h p s) :=
  ⟨by rw [boxOf_takenState_own], fun k hk => boxOf_takenState op h p s k hk, rfl, rfl, rfl⟩

theorem restage (x : State) (e : x.mbx.staged = []) : { x with mbx := { x.mbx with staged := [] } } = x := by
  rw [← e]

/-- With nothing staged the configuration in force at a tick is the present one. -/
theorem project_none (u : State) (n : Nat) (e : u.mbx.staged = []) : project n u = u := by
  simp only [project, e, List.filter_nil, inOrder, List.foldl_nil]
  exact restage u e

/-- With nothing staged and nothing held, validation is the command's check. -/
theorem validate_alone (o : Owed) (obs : Bool) (c : Instr) (r : Req) (u : State) (e : u.mbx.staged = []) (held : u.chd.held = []) :
    validate o obs c r u = chkCmd false c u r := by
  have sw : swapStaged u = false := by simp only [swapStaged, e, List.any_nil]
  have cf : conflicts c r u = false := by
    simp only [conflicts, routeStaged, e, List.any_nil]
    cases cmdTarget c r <;> cases cmdBank c r <;> rfl
  have few : ¬ 512 ≤ stagedCount u := by
    have := stagedCount_le u
    rw [e, held] at this
    simp only [List.length_nil] at this
    omega
  unfold validate
  rw [sw, project_none u r.tick e, cf]
  split
  · rfl
  · simp only
    split
    · rfl
    · cases chkCmd false c u r <;> simp only [Bool.false_eq_true, if_false, e, few, List.filter_nil, inOrder, List.foldl_nil, laterRefusal,
        Option.getD_none, decide_false, Bool.false_and]
      rw [heldRefusal, held]
      rfl

/-- A sound request of one part, with nothing else staged, gets the answer of its command's check on the present state. -/
theorem serve_ready (op n : Nat) (c : Instr) (h : ReqHdr) (p : List Byte) (s : State) (i : OpInfo) (rd : Spec.ready op h p n s)
    (known : opInfo op = some i) (multi : i.multi = false) :
    serve op c h p s = done (finish h.mbx.val (takenReq op h p) c (chkCmd false c (takenState op h p s) (soleReq op h p n)) (soleReq op h p n)
      (takenState op h p s)) := by
  obtain ⟨⟨u1, u2, u3, u4, u5, u6, u7, ⟨j, j1, j2, j3⟩, u8⟩, st, held⟩ := rd
  obtain rfl : i = j := Option.some.inj (known.symm.trans j1)
  rw [serve_taken op c h p s i u1 u2 u3 u4 u5 u6 u7 j1 j2 j3, if_neg (by simp [multi])]
  have ht : applyTickOf (takenReq op h p).hdr (takenState op h p s).tb.tick = some n := u8
  unfold runSingle
  rw [ht]
  simp only
  rw [validate_alone _ _ _ _ (takenState op h p s) st held]
  rfl

/-- A sound request that only observes gets the answer of its check on the present state, whatever is staged or held. -/
theorem serve_observes (op n : Nat) (c : Instr) (h : ReqHdr) (p : List Byte) (s : State) (i : OpInfo) (rd : Spec.taken op h p (some n) s)
    (known : opInfo op = some i) (multi : i.multi = false) (cls : i.cls = 0) :
    serve op c h p s = done (finish h.mbx.val (takenReq op h p) c (chkCmd (swapStaged (takenState op h p s)) c (takenState op h p s) (soleReq op h p n))
      (soleReq op h p n) (takenState op h p s)) := by
  obtain ⟨u1, u2, u3, u4, u5, u6, u7, ⟨j, j1, j2, j3⟩, u8⟩ := rd
  obtain rfl : i = j := Option.some.inj (known.symm.trans j1)
  rw [serve_taken op c h p s i u1 u2 u3 u4 u5 u6 u7 j1 j2 j3, if_neg (by simp [multi])]
  have ht : applyTickOf (takenReq op h p).hdr (takenState op h p s).tb.tick = some n := u8
  unfold runSingle
  rw [ht, cls]
  rfl

/-- What an answer of an ordinary status does to a state in which the request stands. -/
theorem answer_said (op : Nat) (h : ReqHdr) (p : List Byte) (st : Status) (tick detail : Nat) (pay : List Byte) (s u : State)
    (k1 : st ≠ .restarted) (k2 : st ≠ .staleSequence)
    (lv : op / 256 ≠ 0xF ∨ st = .ok ∨ st = .accepted ∨ st = .busy ∨ st = .functionState ∨ st = .badArgument)
    (own : (boxOf u h.mbx.val).count = (boxOf s h.mbx.val).count + 1) (other : ∀ k, k ≠ h.mbx.val → boxOf u k = boxOf s k)
    (waits : u.mbx.waitLedger = s.mbx.waitLedger) (frame : u = { s with mbx := u.mbx }) (t : State)
    (ht : t = answer h.mbx.val (takenReq op h p) { opcode := op, seq := h.seq, status := st, tick, detail, payload := pay } u) :
    Spec.answered h.mbx.val op h.seq st tick detail pay t ∧ t.mbx.staged = u.mbx.staged ∧ (boxOf t h.mbx.val).asm = (boxOf u h.mbx.val).asm
      ∧ Spec.onlyAnswers h s t := by
  subst ht
  rw [answer_logged h.mbx.val (takenReq op h p) { opcode := op, seq := h.seq, status := st, tick, detail, payload := pay } u k1 k2 (lvl2_same op _ lv)]
  generalize hr : ({ opcode := op, seq := h.seq, status := st, tick, detail, payload := pay } : Resp) = r
  generalize hu : (u.onBox h.mbx.val fun b => { b with log := ({ req := takenReq op h p, crc := crc32 (takenBytes (takenReq op h p)), resp := r } :: b.log).take 16 }) = w
  have hw : boxOf w h.mbx.val = { boxOf u h.mbx.val with log := ({ req := takenReq op h p, crc := crc32 (takenBytes (takenReq op h p)), resp := r } :: (boxOf u h.mbx.val).log).take 16 } := by
    rw [← hu, boxOf_change, if_pos rfl]
  refine ⟨?_, ?_, ?_, ?_, ?_, ?_, ?_, ?_, ?_⟩
  · unfold Spec.answered; rw [writeResp_box]; subst hr; exact ⟨rfl, rfl, rfl, rfl, rfl⟩
  · rw [writeResp_frame, ← hu]; rfl
  · rw [writeResp_box, hw]
  · rw [writeResp_box, hw]; rfl
  · rw [writeResp_box, hw]; exact own
  · intro k hk; rw [writeResp_box_other _ _ _ _ hk, ← hu, boxOf_change, if_neg hk, other k hk]
  · rw [writeResp_frame, ← hu]; exact waits
  · intro hm; have e := writeResp_host h.mbx.val r w hm; rw [e.1, e.2, ← hu, frame]; exact ⟨rfl, rfl⟩
  · rw [writeResp_frame, ← hu, frame]; rfl

/-- A command that observes, and whose check replies. -/
theorem observes_of (op n d : Nat) (pay : List Byte) (c : Instr) (h : ReqHdr) (p : List Byte) (s : State) (i : OpInfo) (rd : Spec.taken op h p (some n) s)
    (ex : exec c s = serve op c h p s) (known : opInfo op = some i) (multi : i.multi = false) (cls : i.cls = 0)
    (chk : ∀ sw, chkCmd sw c (takenState op h p s) (soleReq op h p n) = .reply d pay)
    (act : actCmd { mbx := h.mbx.val, opcode := op, seq := h.seq } c (.reply d pay) (soleReq op h p n) (takenState op h p s) = takenState op h p s) :
    Spec.replies op c h d pay s := by
  have T := takenState_in op h p s
  have A := answer_said op h p .ok (s.tb.tick % 2 ^ 32) d pay s (takenState op h p s) (by decide) (by decide) (.inr (.inl rfl)) T.own T.other T.waits T.frame _ rfl
  refine ⟨_, ?_, A.1, A.2.1, A.2.2.2⟩
  rw [ex, serve_observes op n c h p s i rd known multi cls, chk]
  show done (answer h.mbx.val (takenReq op h p) (respNow (takenReq op h p) .ok d pay (takenState op h p s))
    (actCmd { mbx := h.mbx.val, opcode := op, seq := h.seq } c (.reply d pay) (soleReq op h p n) (takenState op h p s))) = _
  rw [act]; rfl

/-- A command whose check replies, and that does nothing else. -/
theorem replies_of (op n d : Nat) (pay : List Byte) (c : Instr) (h : ReqHdr) (p : List Byte) (s : State) (i : OpInfo) (rd : Spec.ready op h p n s)
    (ex : exec c s = serve op c h p s) (known : opInfo op = some i) (multi : i.multi = false)
    (chk : chkCmd false c (takenState op h p s) (soleReq op h p n) = .reply d pay)
    (act : actCmd { mbx := h.mbx.val, opcode := op, seq := h.seq } c (.reply d pay) (soleReq op h p n) (takenState op h p s) = takenState op h p s) :
    Spec.replies op c h d pay s := by
  have T := takenState_in op h p s
  have A := answer_said op h p .ok (s.tb.tick % 2 ^ 32) d pay s (takenState op h p s) (by decide) (by decide) (.inr (.inl rfl)) T.own T.other T.waits T.frame _ rfl
  refine ⟨_, ?_, A.1, A.2.1, A.2.2.2⟩
  rw [ex, serve_ready op n c h p s i rd known multi, chk]
  show done (answer h.mbx.val (takenReq op h p) (respNow (takenReq op h p) .ok d pay (takenState op h p s))
    (actCmd { mbx := h.mbx.val, opcode := op, seq := h.seq } c (.reply d pay) (soleReq op h p n) (takenState op h p s))) = _
  rw [act]; rfl

/-- A command whose check refuses it: it is answered, and nothing else happens. -/
theorem refused_of (op n d : Nat) (st : Status) (c : Instr) (h : ReqHdr) (p : List Byte) (s : State) (i : OpInfo) (rd : Spec.ready op h p n s)
    (ex : exec c s = serve op c h p s) (known : opInfo op = some i) (multi : i.multi = false)
    (k1 : st ≠ .restarted) (k2 : st ≠ .staleSequence)
    (lv : op / 256 ≠ 0xF ∨ st = .ok ∨ st = .accepted ∨ st = .busy ∨ st = .functionState ∨ st = .badArgument)
    (chk : chkCmd false c (takenState op h p s) (soleReq op h p n) = .refuse st d)
    (still : refuseCmd c st (soleReq op h p n) (takenState op h p s) = takenState op h p s) :
    ∃ t, exec c s = .next t ∧ Spec.answered h.mbx.val op h.seq st (s.tb.tick % 2 ^ 32) d [] t ∧ t.mbx.staged = [] ∧ Spec.onlyAnswers h s t := by
  have T := takenState_in op h p s
  have A := answer_said op h p st (s.tb.tick % 2 ^ 32) d [] s (takenState op h p s) k1 k2 lv T.own T.other T.waits T.frame _ rfl
  refine ⟨_, ?_, A.1, A.2.1.trans rd.2.1, A.2.2.2⟩
  rw [ex, serve_ready op n c h p s i rd known multi, chk]
  show done (answer h.mbx.val (takenReq op h p) _ (refuseCmd c st (soleReq op h p n) (takenState op h p s))) = _
  rw [still]; rfl

/-- A command whose check acts at once, on a part of the state beside the mailboxes. -/
theorem acts_of (op n d : Nat) (st : Status) (c : Instr) (h : ReqHdr) (p : List Byte) (s v : State) (i : OpInfo) (rd : Spec.ready op h p n s)
    (ex : exec c s = serve op c h p s) (known : opInfo op = some i) (multi : i.multi = false)
    (k1 : st ≠ .restarted) (k2 : st ≠ .staleSequence) (lv : op / 256 ≠ 0xF)
    (chk : chkCmd false c (takenState op h p s) (soleReq op h p n) = .act st d)
    (act : actCmd { mbx := h.mbx.val, opcode := op, seq := h.seq } c (.act st d) (soleReq op h p n) (takenState op h p s)
      = { v with mbx := (takenState op h p s).mbx })
    (box : v.mbx = s.mbx) :
    ∃ t, exec c s = .next t ∧ Spec.answered h.mbx.val op h.seq st ((if st = .ok ∧ op ≠ 0x0902 then n else s.tb.tick) % 2 ^ 32) d [] t ∧ t.mbx.staged = []
      ∧ Spec.onlyAnswers h v t ∧ t = { v with mbx := t.mbx, mon := t.mon, io := { v.io with msix := t.io.msix }, sent := t.sent,
                                              net := { v.net with coll := t.net.coll } } := by
  have T := takenState_in op h p s
  have A := answer_said op h p st ((if st = .ok ∧ op ≠ 0x0902 then n else s.tb.tick) % 2 ^ 32) d [] v { v with mbx := (takenState op h p s).mbx } k1 k2
    (.inl lv) (by show (boxOf (takenState op h p s) h.mbx.val).count = _; rw [T.own]; simp only [boxOf, box])
    (fun k hk => by show boxOf (takenState op h p s) k = _; rw [T.other k hk]; simp only [boxOf, box])
    (by rw [box]; exact T.waits) rfl _ rfl
  refine ⟨_, ?_, A.1, A.2.1.trans rd.2.1, A.2.2.2, A.2.2.2.2.2.2.2.2⟩
  rw [ex, serve_ready op n c h p s i rd known multi, chk]
  show done (answer h.mbx.val (takenReq op h p) _ (actCmd { mbx := h.mbx.val, opcode := op, seq := h.seq } c (.act st d) (soleReq op h p n) (takenState op h p s))) = _
  rw [act]; rfl

/-- A command whose check stages it, and that does nothing at once. -/
theorem stages_of (op n func : Nat) (st : Status) (c : Instr) (h : ReqHdr) (p : List Byte) (s : State) (i : OpInfo) (E : State → State → Prop)
    (rd : Spec.ready op h p n s)
    (ex : exec c s = serve op c h p s) (known : opInfo op = some i) (multi : i.multi = false) (flush : op ≠ 0x0902)
    (hst : st = .ok ∨ st = .accepted)
    (chk : chkCmd false c (takenState op h p s) (soleReq op h p n) = .stage st 0)
    (act : actCmd { mbx := h.mbx.val, opcode := op, seq := h.seq } c (.stage st 0) (soleReq op h p n) (takenState op h p s) = takenState op h p s)
    (fn : cmdFunc c (soleReq op h p n) = func)
    (eff : ∀ u, E u (appCmd (Spec.owes op h) c (soleReq op h p n) u)) :
    Spec.stages op st c h p func n s E := by
  have T := takenState_in op h p s
  let g : Staged := { tick := n, opcode := op, hdr := h, cmd := c, parts := [p], owed := st = .accepted ∨ st = .deferred, func := func }
  let u : State := { takenState op h p s with mbx := { (takenState op h p s).mbx with staged := (takenState op h p s).mbx.staged ++ [g] } }
  have A := answer_said op h p st ((if st = .ok then n else s.tb.tick) % 2 ^ 32) 0 [] s u (by rcases hst with rfl | rfl <;> decide)
    (by rcases hst with rfl | rfl <;> decide) (by rcases hst with rfl | rfl <;> simp) T.own T.other T.waits rfl _ rfl
  refine ⟨_, g, ?_, A.1, A.2.1.trans ?_, rfl, rfl, rfl, rfl, rfl, rfl, ?_, A.2.2.2, eff⟩
  · rw [ex, serve_ready op n c h p s i rd known multi, chk]
    unfold finish
    simp only [act, fn, answerTick, takenReq, flush, ne_eq, not_false_eq_true, and_true]
    rfl
  · show s.mbx.staged ++ [g] = [g]
    rw [rd.2.1]; rfl
  · show decide (st = .accepted ∨ st = .deferred) = true ↔ _
    rcases hst with rfl | rfl <;> decide

end Sys2Proof.Machine
end

