-- ==== Sys2Proof/Tests/Slice0.lean ====
section
/-! SUPPORT. Small tests: ill-formed terms that the checks refuse, what no word spells, single steps, and a state with operands
that meets the hypotheses of each statement's clauses. -/
namespace Sys2Proof.Tests
open Sys2Proof.Machine Host
set_option Elab.async false

/-! ### Helpers -/

/-- The hub with firmware running and every class granted to every requester. -/
def base : State :=
  { State.reset with
    pwr := { State.reset.pwr with memReady := true, fwUp := true, prot := [(0, { classes := 0xFF, windows := [(0, 67108864)] }), (1, { classes := 0xFF, windows := [(0, 67108864)] }), (2, { classes := 0xFF })] } }

/-- The hub whose PCIe entry grants these windows of record memory. -/
def winS (w : List (Nat × Nat)) : State := { base with pwr.prot := [(0, { classes := 0xFF, windows := w })] }

/-- A header for a payload of n bytes. -/
def hdr (n : Nat) (m : Fin 8 := 0) (flags : BitVec 16 := 0) (func : BitVec 16 := 0) (tick : BitVec 32 := 0) : ReqHdr :=
  { mbx := m, seq := 1, length := BitVec.ofNat 16 n, flags, applyTick := tick, func }

/-- Whether a request is taken and validated, as a test. -/
def takenB (op : Nat) (h : ReqHdr) (p : List Byte) (n : Option Nat) (s : State) : Bool :=
  s.pwr.fwUp && !s.pwr.pwrfail && !s.pwr.llTakeover && !(boxOf s h.mbx.val).busy
    && (boxOf s h.mbx.val).log.all (fun e => decide (e.req.hdr.seq ≠ h.seq)) && decide (p.length = h.length.toNat) && decide (p.length ≤ 240)
    && (match opInfo op with
        | some i => (headBad i h p).isNone && bit (protOf s (protEntry s h.mbx.val)).classes.toNat i.cls
        | none => false)
    && decide (applyTickOf h s.tb.tick = n)

def readyB (op : Nat) (h : ReqHdr) (p : List Byte) (n : Nat) (s : State) : Bool :=
  takenB op h p (some n) s && s.mbx.staged.isEmpty && s.chd.held.isEmpty

theorem taken_of {op : Nat} {h : ReqHdr} {p : List Byte} {n : Option Nat} {s : State} (t : takenB op h p n s = true) : Spec.taken op h p n s := by
  simp only [takenB, Bool.and_eq_true, Bool.not_eq_true', List.all_eq_true, decide_eq_true_eq] at t
  obtain ⟨⟨⟨⟨⟨⟨⟨⟨a, b⟩, c⟩, d⟩, e⟩, f⟩, g⟩, i⟩, j⟩ := t
  refine ⟨a, b, c, d, e, f, g, ?_, j⟩
  cases k : opInfo op with
  | none => rw [k] at i; cases i
  | some x =>
    rw [k] at i
    simp only [Bool.and_eq_true, Option.isNone_iff_eq_none] at i
    exact ⟨x, rfl, i.1, i.2⟩

theorem ready_of {op : Nat} {h : ReqHdr} {p : List Byte} {n : Nat} {s : State} (t : readyB op h p n s = true) : Spec.ready op h p n s := by
  simp only [readyB, Bool.and_eq_true, List.isEmpty_iff] at t
  exact ⟨taken_of t.1.1, t.1.2, t.2⟩

def fwUpd : FwUpdate := { slot := 1, prev := 0, owed := { mbx := 0, opcode := 0x0D03, seq := 4 } }
def master : AnnounceData := { gmId := 5 }
def sync : SyncMsg := { port := 2, seq := 9, twoStep := true, origin := 0, ingress := 100 }
def beaconSet : BeaconSet := { periodic := true, activeLow := false, start := 160, period := 3200, width := 160 }
def pwmSet : VoutSet := { eng := true, slot := 3, pwm := true, onBad := 0, actLow := false, pc := 2000, base := 0, k := 0, fault := 0 }
theorem mayWrite_of {t : Tab Func} (v : BitVec 1024) (id : Nat) (e : fnExists id = true) (h : v.getLsbD id = true) :
    mayWrite { base with pwr.prot := [(0, { frs := v })], fn := t } .pcie id = true := by
  rw [mayWrite, e]; exact h
theorem mayWrite_one {t : Tab Func} {id : Nat} (e : fnExists id = true) (l : id < 1024) :
    mayWrite { base with pwr.prot := [(0, { frs := BitVec.allOnes 1024 })], fn := t } .pcie id = true :=
  mayWrite_of _ _ e (by rw [BitVec.getLsbD_allOnes]; exact decide_eq_true l)
def owed0 : Owed := { mbx := 0, opcode := 0x0302, seq := 4 }

theorem shaBlock_length (h : List Nat) (blk : List Byte) : (shaBlock h blk).length = 8 := by simp [shaBlock]
theorem shaBlocks_length : ∀ (n : Nat) (bs : List Byte) (h : List Nat), h.length = 8 → (shaBlocks n bs h).length = 8
  | 0, _, _, e => e
  | n + 1, _, _, _ => shaBlocks_length n _ _ (shaBlock_length ..)
theorem le_length : ∀ n v : Nat, (le n v).length = n
  | 0, _ => rfl
  | n + 1, v => congrArg (· + 1) (le_length n (v / 256))
theorem be_length (n v : Nat) : (be n v).length = n := by rw [be, List.length_reverse, le_length]
theorem flatMap_be_length : ∀ l : List Nat, (l.flatMap (be 4)).length = 4 * l.length
  | [] => rfl
  | x :: l => by rw [List.flatMap_cons, List.length_append, be_length, flatMap_be_length l, List.length_cons]; omega
theorem hmacTag_length (k m : List Byte) : (hmacTag k m).length = 16 := by
  rw [hmacTag, List.length_take, sha256, flatMap_be_length, shaBlocks_length _ _ _ rfl]; rfl
theorem hmacTag_ne (k m : List Byte) (b : List Byte) (h : b.length ≠ 16) : hmacTag k m ≠ b :=
  fun e => h (e ▸ hmacTag_length k m)
theorem rd_append {b t : List Byte} {o n : Nat} (h : o + n ≤ b.length) : rd (b ++ t) o n = rd b o n := by
  rw [rd, rd, List.drop_append_of_le_length (by omega), List.take_append_of_le_length (by rw [List.length_drop]; omega)]
theorem trigTagOk_of {s : State} {type : Nat} {b : List Byte} (h : b.length = 48) (e : rd b 0 1 = type) (v : rd b 1 1 = 4)
    (k : rd b 2 1 < 8) : trigTagOk s type (b ++ hmacTag (keyOf s (rd b 2 1)) b) = true := by
  have q : ∀ o n, o + n ≤ 48 → rd (b ++ hmacTag (keyOf s (rd b 2 1)) b) o n = rd b o n := fun o n l => rd_append (by omega)
  simp [trigTagOk, q, h, e, v, k, hmacTag_length]

/-- The fields of a trigger message under key 0 from hub `hub`, record 0. -/
def trigB (type : Byte) (hub : Byte) : List Byte := [type, 4, 0, 0, 0, 0, 0, 0, hub, 0] ++ List.replicate 38 0
/-- The same as a datagram with the tag that a hub without a boot block expects. -/
def trigD (type hub : Byte) : Dgram := { port := 0, body := trigB type hub ++ hmacTag (zeros 32) (trigB type hub) }
theorem trigD_ok {t : Tab Group} {x : List (BitVec 16 × BitVec 32)} (type : Nat) (hub : Byte) (h : type < 256) :
    trigTagOk { base with trg.grp := t, trg.handled := x } type (trigD (BitVec.ofNat 8 type) hub).body = true :=
  trigTagOk_of rfl (by show (BitVec.ofNat 8 type).toNat + 0 = type; simp; omega) rfl (by show 0 < 8; decide)

/-- An address that is on-link whatever the hub's own is: an IPv6 group. -/
def onA : BitVec 128 := 0xFF020000000000000000000000000009

/-- A frame whose status is awaited. -/
def await_ (seq : BitVec 8) : Awaited := { seq, frame := 0, start := 0 }

/-- A stream with one stored block numbered 5, sent at instant 100 to role 1. -/
def blk : Block := { seq := 5, first := 0, count := 1, fidx := 0, firstT := 0 }
def sentS (st : Option Nat) : State :=
  { base with str.s := [(63, { cfg := { dest := 2 }, closedAny := true, nextSeq := 6, blocks := [{ blk with coded := true, dst := [(1, { sent := st })] }] })],
              net.coll := [(1, { cfg := { addr := onA } })] }
/-- An ACK of role 1 for that stream, base 5. -/
def ackB : List Byte := [2, 4, 63, 1, 5, 0, 0, 0, 0, 0, 0, 0, 24, 0] ++ List.replicate 10 0
def ackD : Dgram := { port := 0, src := onA, body := ackB ++ hmacTag (zeros 32) ackB }
theorem ackD_ok : ackOk (sentS (some 100)) ackD = true := by
  have q : ∀ o n, o + n ≤ 24 → rd ackD.body o n = rd ackB o n := fun o n l => rd_append (by show o + n ≤ 24; omega)
  have a : ackD.body.length = 40 := by show (ackB ++ _).length = 40; rw [List.length_append, hmacTag_length]; rfl
  have b : ackD.body.take 24 = ackB := List.take_left' rfl
  have c : ackD.body.drop 24 = hmacTag (zeros 32) ackB := List.drop_left' rfl
  rw [ackOk, q 2 1 (by omega), q 3 1 (by omega), q 4 4 (by omega), q 0 1 (by omega), q 1 1 (by omega), q 12 2 (by omega), q 14 2 (by omega), a, b, c]
  have e : keyOf (sentS (some 100)) (collOf (sentS (some 100)) (rd ackB 3 1)).cfg.keyId = zeros 32 := rfl
  rw [e]
  simp only [Bool.and_eq_true]
  and_intros <;> first | exact beq_self_eq_true _ | decide

def red0 : RedInst := { slot := 0, skind := 0, kind := 4, rate := 0, target := 0, period := 1, pars := [], runs := [(0, none)], nextIn := 256 }
def job0 : Job := { tag := 1, group := 0, options := 0, record := 0, base := 0, size := 64, bwords := 256, owed := { mbx := 0, opcode := 0x0A01, seq := 1 } }
def rec0 : Record := { no := 0, trig := 0, fireT := 0 }
theorem swapSlots_done {t : TimeBase} {x : Option SwapRun} {p : List Instr} {now : Nat} :
    ∀ n ∈ swapSlots { base with tb := t, now := now, chd.swap := x, pending := p },
      fadeDone { base with tb := t, now := now, chd.swap := x, pending := p } n = true := by
  intro n _
  show (match (tget ([] : Tab Chan) n (if isSpare n then { route := .parked } else {})).fade with | some f => f.done | none => true) = true
  rw [tget]; split
  next h => split at h <;> cases h
  · rfl

/-- A drive frame whose CRC is right, of type 0x5C and sequence 7. -/
def statF : BitVec 64 := 6629298651606871280
/-- A heartbeat for hub 0 from hub 1, under key 0. -/
def beatB : List Byte := [0x20, 4, 0, 0, 1, 0, 0, 0] ++ List.replicate 8 0
def beatD : Dgram := { port := 0, body := beatB ++ hmacTag (zeros 32) beatB }
theorem beat_rd (o n : Nat) (h : o + n ≤ 16) : rd beatD.body o n = rd beatB o n := rd_append (by show o + n ≤ 16; omega)
theorem beat_tag : hmacTag (zeros 32) (beatD.body.take 16) = beatD.body.drop 16 := by
  rw [show beatD.body.take 16 = beatB from List.take_left' rfl, show beatD.body.drop 16 = hmacTag (zeros 32) beatB from List.drop_left' rfl]

/-- An encapsulated datagram of role 0 with counter 1, for hub 0 in its first boot: type and body. -/
def encB (type : Byte) (pay : List Byte) : List Byte :=
  [type, 4, 0, 0, 0, 0] ++ le 2 pay.length ++ zeros 8 ++ [1] ++ zeros 7 ++ pay
def encD (type : Byte) (pay : List Byte) : Dgram := { port := 0, src := 9, srcPort := 5, body := encB type pay ++ hmacTag (zeros 32) (encB type pay) }
theorem encB_length (type : Byte) (pay : List Byte) : (encB type pay).length = 24 + pay.length := by
  simp only [encB, List.length_append, le_length]; rfl
theorem encD_rd (type : Byte) (pay : List Byte) (o n : Nat) (h : o + n ≤ 24) : rd (encD type pay).body o n = rd (encB type pay) o n :=
  rd_append (by rw [encB_length]; omega)
theorem encD_body (type : Byte) (pay : List Byte) (h : rd (encB type pay) 6 2 = pay.length) : encapBody (encD type pay) = pay := by
  rw [encapBody, encD_rd _ _ _ _ (by omega), h, encD, List.drop_append_of_le_length (by rw [encB_length]; omega)]
  rw [show (encB type pay).drop 24 = pay from List.drop_left' rfl, List.take_left' rfl]
theorem encD_ok {s : State} (type : Byte) (pay : List Byte) (h : rd (encB type pay) 6 2 = pay.length) (k : keyOf s 0 = zeros 32)
    (c : (collOf s 0).cfg = {}) (x : (collOf s 0).rxCnt = 0) (u : hubNo s = 0) (b : s.pwr.bootCount = 0) :
    (encapCheck (encD type pay) s).1 = some 0 := by
  have q := encD_rd type pay
  have l : (encD type pay).body.length = 40 + pay.length := by
    show (encB type pay ++ _).length = _; rw [List.length_append, encB_length, hmacTag_length]; omega
  have t : (encD type pay).body.take (24 + pay.length) = encB type pay := List.take_left' (encB_length ..)
  have d : (encD type pay).body.drop (24 + pay.length) = hmacTag (zeros 32) (encB type pay) := List.drop_left' (encB_length ..)
  have g : ∀ o n, o + n ≤ 6 → rd (encB type pay) o n = rd [type, 4, 0, 0, 0, 0] o n := fun o n i => by
    rw [encB, List.append_assoc, List.append_assoc, List.append_assoc, List.append_assoc]; exact rd_append i
  have g2 : ∀ o n, 8 ≤ o → o + n ≤ 24 → rd (encB type pay) o n = rd (zeros 8 ++ [1] ++ zeros 7) (o - 8) n := fun o n i j => by
    rw [show encB type pay = ([type, 4, 0, 0, 0, 0] ++ le 2 pay.length) ++ ((zeros 8 ++ [1] ++ zeros 7) ++ pay) by simp [encB], rd,
      List.drop_append, List.drop_eq_nil_of_le (by show 8 ≤ o; exact i), List.nil_append]
    exact rd_append (by show o - 8 + n ≤ 16; omega)
  have r : rd (encD type pay).body 3 1 = 0 := by rw [q _ _ (by omega), g _ _ (by omega)]; rfl
  have y : rd (encD type pay).body 2 1 = 0 := by rw [q _ _ (by omega), g _ _ (by omega)]; rfl
  have v : rd (encD type pay).body 1 1 = 4 := by rw [q _ _ (by omega), g _ _ (by omega)]; rfl
  have z : rd (encD type pay).body 4 2 = 0 := by rw [q _ _ (by omega), g _ _ (by omega)]; rfl
  have n1 : rd (encD type pay).body 8 4 = 0 := by rw [q _ _ (by omega), g2 _ _ (by omega) (by omega)]; rfl
  have n2 : rd (encD type pay).body 16 8 = 1 := by rw [q _ _ (by omega), g2 _ _ (by omega) (by omega)]; rfl
  simp only [encapCheck, q 6 2 (by omega), h, r, y, v, z, n1, n2, l, t, d, k, c, x, u, b]
  simp

def ntc : Notice := { type := 0x21, pri := 2 }
def outN : OutNotice := { counter := 1, bytes := [], items := [ntc], sent := 100 }
/-- A NOP request as a mailbox spells it. -/
def nopB : List Byte := [3, 1, 1, 0] ++ List.replicate 12 0
def sess0 : Session := { target := 3, phase := .overlapOut, nMatch := 2, winFrom := some 0, seenChan := 2, seenSpare := 2 }
def sessF (p : CalPhase) (w : Nat) : Session := { sess0 with phase := p, windows := w }
def sessP : Session := { sess0 with xChan := [(0, 0), (1, 0)], xSpare := [(0, 0), (1, 0)] }
def calS (x : Session) : State := { base with cal.sess := [(511, x)] }
def pt : CalPoint := { gain := 0, source := 0, m := 2, v := 0 }
def store0 : StoreWrite := { page := 5, results := [], at_ := 0, tick := 0, owed := { mbx := 0, opcode := 0x0304, seq := 4 } }
def page0 : StoredPage := { page := 5, bytes := [], tick := 0, owed := owed0 }
def auxW : BitVec 64 := 0x4000000000000100
def stg (n : Nat) : Staged := { tick := n, opcode := 0x0201, hdr := hdr 6, cmd := .chanConfig (hdr 6) [] }
def inj0 : Inject := { signal := 0, order := 0, ampl := 1, count := 0, base := 64, bitLen := 1, f0 := 0, f1 := 0, freqs := [] }
theorem beat_length : beatD.body.length = 32 := by show (beatB ++ _).length = 32; rw [List.length_append, hmacTag_length]; rfl

def bootBlk : BootBlk :=
  { prefSlot := 0, seq := 1, station := 0, hubIndex := 0, fwOfs := (0x100000, 0x200000), fwMax := 0x100000, calOfs := 0, recOfs := 0, minFw := 0,
    memPlan := [0, 0, 0, 0, 0], net := {}, ringVlan := 0, ringRole := 0, ringBlk := 0, coll := [], keys := [], prot := [] }
def swapRun : SwapRun := { k := 8, tick := 1, owed := owed0 }

def pt0 : CalPoint := { gain := 0, source := 0, m := 16, v := 0, done := true }
def pt5 : CalPoint := { gain := 0, source := 1, m := 16, v := 0x4014000000000000, mean := 0x4150000000000000, done := true }
def res0 : CalResult := { entry := 248, o := 0, g := 0x3FF0000000000000, quality := 0, isOver := false, tick := 0 }
/-- A two-point fit through 0 V and 5 V of ideal codes, as hand calculation gives it: offset 0, gain 1. -/
theorem fit_res : fitAll 511 200 [pt0, pt5] = .ok [res0] := by
  have h : (match fitAll 511 200 [pt0, pt5] with | .ok rs => decide (rs = [res0]) | .error _ => false) = true := by decide +kernel
  generalize fitAll 511 200 [pt0, pt5] = x at h ⊢
  cases x with
  | error _ => cases h
  | ok r => rw [of_decide_eq_true h]

/-! ### Ill-formed terms, one for each check -/

theorem test_wf_payload : Instr.wf (.nop (hdr 0) (List.replicate 241 0)) = false := by
  rw [Instr.wf, payloadFits, List.length_replicate]; rfl
theorem test_wf_flash_address : Instr.wf (.pornFall [(0x8000000, 0)]) = false := by decide
theorem test_wf_tick_lists : Instr.wf (.tickBoundary { paceCount := List.replicate 25 0 }) = false
    ∧ Instr.wf (.tickBoundary { temps := List.replicate 6 0 }) = false ∧ Instr.wf (.tickBoundary { vexc := List.replicate 5 0 }) = false
    ∧ Instr.wf (.tickBoundary { exc := [(128, {})] }) = false := by decide
theorem test_wf_instance : Instr.wf (.reductionIntervalEnd 64) = false := by decide
theorem test_wf_function : Instr.wf (.drainEnd 1024) = false ∧ Instr.wf (.frsEnable .pcie 1024) = false := by decide
theorem test_wf_sar_bank : Instr.wf (.chandlerRound [(16, [])]) = false := by decide
theorem test_wf_memory_window : Instr.wf (.bar2Read 0x3FFFFFF 2 []) = false ∧ Instr.wf (.bar2Write 0x4000000 [0]) = false
    ∧ Instr.wf (.spiMemoryRead 0x4000000 1 []) = false := by decide
theorem test_wf_ingress : Instr.wf (.switchForward 5 [] true {} 0) = false := by decide
theorem test_wf_fine : Instr.wf (.eventEdge 0 true 0 320000) = false ∧ Instr.wf (.comparatorCrossing 0 true 0 320000) = false := by decide
theorem test_wf_vlan : Instr.wf (.learningAgeOut 0 4096) = false := by decide
theorem test_wf_register : Instr.wf (.rcRead .pcie 0x800000) = false ∧ Instr.wf (.registerWrite .pcie 0x800000 4 0) = false
    ∧ Instr.wf (.registerWrite .pcie 0 3 0) = false := by decide
theorem test_wf_spi : Instr.wf (.spiRegisterRead 0x1000000 1) = false ∧ Instr.wf (.spiRegisterWrite 0x1000000 [] false) = false := by decide
theorem test_wf_jtag : Instr.wf (.jtagSamplePreload [true] []) = false := by decide
theorem test_wf_last : Instr.wf (.rcRead .pcie 0x7FFFFC) = true ∧ Instr.wf (.bar2Read 0x3FFFFF8 8 []) = true := by decide

/-- The table gives no row any bits. -/
theorem test_no_word (n w : Nat) : decodeTableWord n w = none := rfl

/-! ### Published answers: FIPS 180-4 and RFC 4231 (HMAC case 2, truncated), the CRC catalogue's check values, IEEE 754 -/

theorem test_sha256 : sha256 [0x61, 0x62, 0x63] = be 32 0xba7816bf8f01cfea414140de5dae2223b00361a396177a9cb410ff61f20015ad := by
  decide +kernel
theorem test_hmac : hmacTag [0x4a, 0x65, 0x66, 0x65] (be 28 0x7768617420646f2079612077616e7420666f72206e6f7468696e673f)
    = be 16 0x5bdcc146bf60754e6a042426089575c7 := by decide +kernel
theorem test_crc16 : crc16 72 0x313233343536373839 = 0x29B1 := by decide +kernel
theorem test_crc32 : crc32 (be 9 0x313233343536373839) = 0xCBF43926 := by decide +kernel
theorem test_f64_third : F64.div 0x3FF0000000000000 0x4008000000000000 = 0x3FD5555555555555 := by decide +kernel
theorem test_f64_sqrt : F64.sqrt 0x4000000000000000 = 0x3FF6A09E667F3BCD := by decide +kernel

/-! ### Single steps -/

/-- The state that a step answers; reset where it stops. -/
def after (s : State) (c : Instr) : State :=
  match step { s with pending := [c] } with | .next t => t | _ => State.reset

theorem test_idle : step base = .next base := rfl
theorem test_pace_clear : ((paceOf (after { base with pace := [(23, { alarm := true, goodRun := 64 })] } (.paceAlarmClear 23)) 23).alarm) = false := by
  decide +kernel
theorem test_lock : (after { base with tb.state := .acquiring, tb.postStep := 16 } .lockAfterStep).tb.act = .lock := by decide +kernel
theorem test_idcode : (after base .jtagIdcode).io.jIr = .idcode := by decide +kernel
theorem test_bar2_write : (after base (.bar2Write 0x100 [1])).rm.mem = [] ∧ (after base (.bar2Write 0x100 [1])).glb.bar2Writes = 1 := by
  decide +kernel
theorem test_loop_switches : (loopLaw {} 65537 5 {}).1.out = true ∧ (loopLaw {} 65536 5 {}).1.out = false := by decide +kernel
theorem test_round_half_up : shrRound 3 1 = 2 ∧ shrRound (-3) 1 = -1 := by decide +kernel
theorem test_first_index : n0 1 4096 = 256 ∧ n0 1 10240 = 103 := by decide +kernel
/-- R432: 8 192 bytes and their header exceed 2 000, and an IPv4 fragment carries a multiple of 8; 1 408 bytes do not. -/
theorem test_fragments (b : List Byte) :
    (b.length = 8208 → dataMsg base 0xFFFFEFC02F03 9 b = .udpCut 0xFFFFEFC02F03 9 4 1976 b)
    ∧ (b.length = 1424 → dataMsg base 0xFFFFEFC02F03 9 b = .udp 0xFFFFEFC02F03 9 4 b) := by
  have m : dgramMtu base 0xFFFFEFC02F03 = 2000 := by decide +kernel
  have v : (v4Of 0xFFFFEFC02F03).isSome = true := by decide +kernel
  constructor <;> intro l <;> simp only [dataMsg, l, m, v, if_true] <;> rfl
theorem test_stale_frame : (portOf (after { base with wick.port := [(31, { expect := [await_ 8] })] } (.statusFrameReceived 31 0 5)) 31).crcErr = 1 := by
  decide +kernel
/-! ### States and operands that meet the hypotheses of the statements, clause by clause -/

theorem wit_StepRunsFrontCommand :
    (∃ (s : State) (c : Instr) (rest : List Instr), s.pending = c :: rest) ∧
    (∃ (s : State), s.pending = []) :=
  ⟨⟨{ base with pending := [.perstnAssert] }, .perstnAssert, [], rfl⟩,
   ⟨base, rfl⟩⟩

theorem wit_ResetState :
    (∃ (l : LinDesc), l = linOf State.reset 0) :=
  ⟨linOf State.reset 0, rfl⟩

theorem wit_StepKeepsMemoryCanonical :
    (∃ (s : State) (t : State), s.memInv ∧ step s = .next t) :=
  ⟨base, base, ⟨rfl, rfl⟩, rfl⟩

theorem wit_PowerOnReset :
    (∃ (s : State), s.pwr.porn = false) ∧
    (∃ (s : State), s.memInv) ∧
    (∃ (s : State), s.pwr.porn = true ∧ s.pwr.pwrWait.isSome = true) ∧
    (∃ (s : State), s.pwr.porn = true ∧ s.pwr.memReady = false) :=
  ⟨⟨{ base with pwr := { base.pwr with porn := false } }, rfl⟩,
   ⟨base, ⟨rfl, rfl⟩⟩,
   ⟨{ base with pwr := { base.pwr with pwrWait := some 5 } }, rfl, rfl⟩,
   ⟨State.reset, rfl, rfl⟩⟩

theorem wit_BootCodeAndFirmwareStart :
    (∃ (s : State), s.pwr.porn = true ∧ s.pwr.memReady = true ∧ s.pwr.protLocked = false) ∧
    (∃ (s : State), s.pwr.handed = true ∧ s.pwr.fwUp = false) :=
  ⟨⟨base, rfl, rfl, rfl⟩,
   ⟨{ State.reset with pwr := { State.reset.pwr with handed := true } }, rfl, rfl⟩⟩

theorem wit_PowerFailWarning :
    (∃ (s : State), (∀ i, i < 64 → ∀ b ∈ (strOf s i).blocks, b.coded = false ∨ b.dst.any (fun e => e.2.sent.isSome) = true) ∧
      s.pwr.fwUp = true) ∧
    (∃ (s : State), s.pwr.fwUp = false) ∧
    (∃ (s : State), s.pwr.pwrfail = true) ∧
    (∃ (s : State), s.pwr.pwrfail = false) :=
  ⟨⟨sentS (some 100), by decide +kernel, rfl⟩,
   ⟨State.reset, rfl⟩,
   ⟨{ base with pwr := { base.pwr with pwrfail := true } }, rfl⟩,
   ⟨base, rfl⟩⟩

theorem wit_PciExpressAndJtag :
    (∃ (gen : Nat) (width : Nat), 1 ≤ gen ∧ gen ≤ 3 ∧ (width = 4 ∨ width = 2 ∨ width = 1)) :=
  ⟨1, 1, by decide, by decide, by decide⟩

theorem wit_HostAccess :
    (∃ (s : State) (c : Byte), fnOut s 0x2F1 = false ∧ c ∉ ([0x0B, 0x02, 0x0C, 0x05] : List Byte)) ∧
    (∃ (s : State), fnOut s 0x2F1 = false) ∧
    (∃ (addr : Nat) (len : Nat), 67108864 < addr + len) ∧
    (∃ (addr : Nat) (data : List Byte), 67108864 < addr + data.length) ∧
    (∃ (s : State) (addr : Nat) (len : Nat), addr + len ≤ 67108864 ∧ s.pwr.memReady = true ∧ (∀ k, k < len → granted (protOf s 0)
      (addr + k) = true)) ∧
    (∃ (s : State) (addr : Nat) (len : Nat), addr + len ≤ 67108864 ∧ s.pwr.memReady = true ∧ (∀ k, k < len → granted (protOf s 1)
      (addr + k) = true) ∧ fnOut s 0x2F1 = false) ∧
    (∃ (s : State) (addr : Nat) (len : Nat), addr + len ≤ 67108864 ∧ s.pwr.memReady = true ∧ (∃ k, k < len ∧ granted (protOf s 0)
      (addr + k) = false) ∧ ∃ k, k < len ∧ granted (protOf s 0) (addr + k) = true) ∧
    (∃ (s : State) (addr : Nat) (len : Nat), addr + len ≤ 67108864 ∧ 0 < len ∧ (∀ k, k < len → granted (protOf s 0) (addr + k) =
      false)) ∧
    (∃ (s : State) (addr : Nat) (len : Nat), fnOut s 0x2F1 = false ∧ 0 < len ∧ (∀ k, k < len → 67108864 ≤ addr + k ∨ granted
      (protOf s 1) (addr + k) = false)) ∧
    (∃ (addr : Nat) (data : List Byte), addr + data.length ≤ 67108864) :=
  ⟨⟨base, 0x9F, rfl, by decide⟩,
   ⟨base, rfl⟩,
   ⟨67108864, 1, by decide⟩,
   ⟨67108864, [0], by decide⟩,
   ⟨winS [(64, 4), (68, 4)], 64, 8, by decide, rfl, by decide⟩,
   ⟨base, 0, 8, by decide, rfl, by decide, rfl⟩,
   ⟨winS [(64, 4)], 64, 8, by decide, rfl, ⟨4, by decide, rfl⟩, ⟨3, by decide, rfl⟩⟩,
   ⟨State.reset, 67108856, 8, by decide, by decide, by decide⟩,
   ⟨base, 67108864, 1, rfl, by decide, by decide⟩,
   ⟨0, List.replicate 8 0, by decide⟩⟩

theorem wit_RegisterReadsAndWrites :
    (∃ (s : State) (r : Requester) (m : Nat), reachesBar0 s r = true ∧ m < 8) ∧
    (∃ (s : State) (r : Requester) (n : Nat), reachesBar0 s r = true ∧ n < 608) ∧
    (∃ (s : State) (r : Requester), reachesBar0 s r = true) ∧
    (∃ (s : State) (r : Requester), reachesBar0 s r = false) ∧
    (∃ (s : State) (r : Requester) (addr : Nat) (size : Nat), reachesBar0 s r = true ∧ (size = 4 ∧ addr % 4 ≠ 0 ∨ size = 8 ∧
      addr % 8 ≠ 0 ∨ size ≠ 4 ∧ size ≠ 8)) ∧
    (∃ (s : State) (r : Requester) (o : Nat), reachesBar0 s r = true ∧ o < 0x1000 ∧ o % 4 = 0) ∧
    (∃ (s : State) (r : Requester) (q : Nat) (v : BitVec 64), reachesBar0 s r = true ∧ q < 2 ∧ v.toNat < 2 ^ 32 ∧ v.toNat %
      128 ≠ 0 ∧ v.toNat % 128 ≤ 64) ∧
    (∃ (s : State) (m : Fin 8) (o : Nat), reachesBar0 s (ownerOf m.val) = true ∧ o < 0x100 ∧ o % 4 = 0) :=
  ⟨⟨base, .pcie, 0, rfl, by decide⟩,
   ⟨base, .pcie, 607, rfl, by decide⟩,
   ⟨base, .pcie, rfl⟩,
   ⟨base, .collA, rfl⟩,
   ⟨base, .pcie, 2, 4, rfl, by decide⟩,
   ⟨base, .pcie, 0x104, rfl, by decide, rfl⟩,
   ⟨base, .pcie, 1, 48, rfl, by decide, by decide, by decide, by decide⟩,
   ⟨base, 5, 0xFC, rfl, by decide, rfl⟩⟩

theorem wit_MonitorsAndAlarms :
    (∃ (s : State) (r : Requester) (m : Fin 32), (r = .pcie ∨ r = .spi) ∧ (monOf s m.val).owner = ownerCode r ∧ (monOf s
      m.val).autoIn ≠ some s.tb.tick) ∧
    (∃ (s : State) (r : Requester) (m : Fin 32), (r = .pcie ∨ r = .spi) ∧ (monOf s m.val).owner = ownerCode r ∧ (monOf s
      m.val).autoIn = some s.tb.tick) ∧
    (∃ (s : State) (r : Requester) (m : Fin 32), (¬ ((r = .pcie ∨ r = .spi) ∧ (monOf s m.val).owner = ownerCode r))) ∧
    (∃ (s : State) (m : Fin 32), (monOf s m.val).auto = true ∧ (monOf s m.val).winTicks ≠ 0 ∧ s.tb.tick % (monOf s
      m.val).winTicks = 0 ∧ (monOf s m.val).snapIn ≠ some s.tb.tick ∧ (monOf s m.val).autoIn ≠ some s.tb.tick) ∧
    (∃ (s : State) (k : Fin 24), (paceOf s k.val).alarm = true ∧ 64 ≤ (paceOf s k.val).goodRun) ∧
    (∃ (s : State) (d : Fin 5), 16 ≤ tget s.glb.tempOver d.val 0 ∧ tget s.glb.tempAlarm d.val false = false) ∧
    (∃ (s : State) (d : Fin 5), 64 ≤ tget s.glb.tempUnder d.val 0 ∧ tget s.glb.tempAlarm d.val false = true) ∧
    (∃ (s : State) (x : Fin 4), 16 ≤ (tileOf s x.val).overTicks ∧ (tileOf s x.val).noticed = false) ∧
    (∃ (s : State) (x : Fin 4) (g : Nat), (64 ≤ (tileOf s x.val).over66 ∨ (tileOf s x.val).shutting = true) ∧ 6 * watt <
      (tileOf s x.val).power ∧ hottest s x.val = some g) :=
  ⟨⟨{ base with mon := [(3, { owner := 1 })] }, .pcie, 3, by decide, rfl, by decide⟩,
   ⟨{ base with mon := [(3, { owner := 1, autoIn := some 0 })] }, .pcie, 3, by decide, rfl, rfl⟩,
   ⟨base, .collA, 0, by decide⟩,
   ⟨{ base with mon := [(3, { auto := true })], tb.tick := 400 }, 3, rfl, by decide, rfl, by decide, by decide⟩,
   ⟨{ base with pace := [(23, { alarm := true, goodRun := 64 })] }, 23, rfl, by decide⟩,
   ⟨{ base with glb.tempOver := [(4, 16)] }, 4, by decide, rfl⟩,
   ⟨{ base with glb.tempUnder := [(4, 64)], glb.tempAlarm := [(4, true)] }, 4, by decide, rfl⟩,
   ⟨{ base with fe.tile := [(3, { overTicks := 16 })] }, 3, by decide, rfl⟩,
   ⟨{ base with fe.tile := [(3, { over66 := 64, power := 130000000000 })], fe.exc := [(97, { mode := 1, pG := 5 })] }, 3, 97,
     by decide, by decide, rfl⟩⟩

theorem wit_FrsWrites :
    (∃ (s : State) (r : Requester) (id : Nat), mayWrite s r id = false) ∧
    (∃ (s : State) (r : Requester) (id : Nat), mayWrite s r id = true ∧ (fnOf s id).held = true) ∧
    (∃ (s : State) (r : Requester) (id : Nat), mayWrite s r id = true ∧ (fnOf s id).held = false ∧ fnState s id ≠ .off ∧
      fnState s id ≠ .quiescent ∧ fnState s id ≠ .fault) ∧
    (∃ (s : State) (r : Requester) (id : Nat), mayWrite s r id = true ∧ (fnOf s id).held = false ∧ fnState s id ≠ .off ∧
      fnState s id ≠ .quiescent ∧ fnState s id ≠ .fault ∧ id = 0x2D0) ∧
    (∃ (s : State) (r : Requester) (id : Nat), mayWrite s r id = true ∧ (fnOf s id).held = false ∧ fnState s id = .off ∧
      (fnOf s id).testing = false) :=
  ⟨⟨base, .collA, 5, rfl⟩,
   ⟨{ base with pwr.prot := [(0, { frs := BitVec.allOnes 1024 })], fn := [(0, { held := true })] }, .pcie, 0, mayWrite_one rfl (by decide),
     rfl⟩,
   ⟨{ base with pwr.prot := [(0, { frs := BitVec.allOnes 1024 })] }, .pcie, 0, mayWrite_one rfl (by decide), rfl, by decide, by decide, by
     decide⟩,
   ⟨{ base with pwr.prot := [(0, { frs := BitVec.allOnes 1024 })] }, .pcie, 0x2D0, mayWrite_one rfl (by decide), rfl, by decide, by decide,
     by decide, rfl⟩,
   ⟨{ base with pwr.prot := [(0, { frs := BitVec.allOnes 1024 })], fn := [(0, { state := .off })] }, .pcie, 0, mayWrite_one rfl (by decide),
     rfl, rfl, rfl⟩⟩

theorem wit_FunctionLifecycle :
    (∃ (s : State) (id : Nat), (fnOf s id).held = false ∧ (fnState s id = .draining ∨ fnState s id = .enablePending) ∧ (fnOf
      s id).drainTo ≤ s.tb.tick * 1048576 ∧ (¬ (id = fnCooper ∧ s.cop.any (·.running) = true)) ∧ (id = fnWick 0 ∨ id = fnWick
      1 → s.wick.active ≠ some (id - fnWick 0))) ∧
    (∃ (s : State) (id : Nat), (fnOf s id).held = false ∧ fnState s id = .quiescent ∧ (fnOf s id).drainTo ≤ s.tb.tick *
      1048576) ∧
    (∃ (s : State) (id : Nat), fnState s id = .renewing ∧ (fnOf s id).renew = some .going ∧ (fnSession s id).isSome = false ∧
      (¬ (id = fnCooper ∧ s.cop.any (·.running) = true)) ∧ (¬ (id = 0x2F2 ∧ s.io.qBusy = true)) ∧ (id = fnWick 0 ∨ id =
      fnWick 1 → s.wick.active ≠ some (id - fnWick 0))) ∧
    (∃ (s : State) (id : Nat), id ≠ fnWick 0 ∧ id ≠ fnWick 1 ∧ (fnOf s id).testing = true ∧ sessOf s id = none ∧ (fnOf s
      id).renew = some .testing) ∧
    (∃ (s : State) (id : Nat), id ≠ fnWick 0 ∧ id ≠ fnWick 1 ∧ (fnOf s id).testing = true ∧ sessOf s id = none ∧ (fnOf s
      id).renew ≠ some .testing ∧ (fnOf s id).testOnly = none) ∧
    (∃ (s : State) (id : Nat), fnState s id = .renewing ∧ (fnOf s id).renew = some .returning ∧ (¬ (0x260 ≤ id ∧ id < 0x270))
      ∧ id ≠ fnChandler ∧ id ≠ fnWick 0 ∧ id ≠ fnWick 1) :=
  ⟨⟨{ base with fn := [(7, { state := .draining, drainTo := 1048576 })], tb.tick := 1 }, 7, rfl, by decide, by decide, by
    decide, by decide⟩,
   ⟨{ base with fn := [(7, { state := .quiescent })] }, 7, rfl, rfl, by decide⟩,
   ⟨{ base with fn := [(7, { state := .renewing, renew := some .going })] }, 7, rfl, rfl, rfl, by decide, by decide, by decide⟩,
   ⟨{ base with fn := [(7, { testing := true, renew := some .testing })] }, 7, by decide, by decide, rfl, rfl, rfl⟩,
   ⟨{ base with fn := [(7, { testing := true })] }, 7, by decide, by decide, rfl, rfl, by decide, rfl⟩,
   ⟨{ base with fn := [(7, { state := .renewing, renew := some .returning })] }, 7, rfl, rfl, by decide, by decide, by
     decide, by decide⟩⟩

theorem wit_LamplightersAndFirmware :
    (∃ (s : State), s.pwr.fwUp = true ∧ s.pwr.llTakeover = false) ∧
    (∃ (s : State), s.pwr.llTakeover = true ∧ s.net.keptReqs = []) ∧
    (∃ (s : State) (k : Fin 2) (v : Nat × Owed), (s.pwr.fwVerify.find? fun v => v.1 == k.val) = some v) ∧
    (∃ (s : State) (u : FwUpdate), s.pwr.fwUpdate = some u ∧ u.probation = false ∧ s.pwr.fwUp = true ∧ s.pwr.llTakeover =
      false ∧ lampReady s (1 - s.pwr.llActive) = true) ∧
    (∃ (s : State) (u : FwUpdate), s.pwr.fwUpdate = some u ∧ u.probation = true ∧ u.since + 11719 ≤ s.tb.tick) :=
  ⟨⟨base, rfl, rfl⟩,
   ⟨{ base with pwr.llTakeover := true }, rfl, rfl⟩,
   ⟨{ base with pwr.fwVerify := [(1, { mbx := 0, opcode := 0x0D02, seq := 4 })] }, 1, (1, { mbx := 0, opcode := 0x0D02, seq := 4 }),
     rfl⟩,
   ⟨{ base with pwr.fwUpdate := some fwUpd }, fwUpd, rfl, rfl, rfl, rfl, rfl⟩,
   ⟨{ base with pwr.fwUpdate := some { fwUpd with probation := true }, tb.tick := 11719 }, { fwUpd with probation := true },
     rfl, rfl, by decide⟩⟩

theorem wit_PtpMessages :
    (∃ (s : State) (x : PtpRx), lampServes s = true ∧ ptpTakes s x.domain x.udp = true) ∧
    (∃ (s : State) (x : PtpRx), lampServes s = true ∧ ptpTakes s x.domain x.udp = false) ∧
    (∃ (s : State) (m : SyncMsg) (q : Nat) (a : AnnounceData), s.tb.parent = some (q, a) ∧ ptpTakes s m.domain m.udp = true ∧
      m.twoStep = true) ∧
    (∃ (s : State) (m : SyncMsg) (q : Nat) (a : AnnounceData), s.tb.parent = some (q, a) ∧ ptpTakes s m.domain m.udp = true ∧
      m.twoStep = false) ∧
    (∃ (s : State), s.tb.parent = none) ∧
    (∃ (s : State) (f : FollowUpMsg) (w : SyncMsg), s.tb.syncWait = some w ∧ w.seq = f.seq ∧ ptpTakes s f.rx.domain f.rx.udp =
      true ∧ servoRuns s = true ∧ s.tb.state.lossy = true) ∧
    (∃ (s : State) (f : FollowUpMsg) (w : SyncMsg), s.tb.syncWait = some w ∧ w.seq = f.seq ∧ ptpTakes s f.rx.domain f.rx.udp =
      true ∧ servoHeld s = true) ∧
    (∃ (s : State), lampServes s = true ∧ s.tb.parent.isSome = true) ∧
    (∃ (s : State) (x : PtpRx) (seq : Nat) (e : Nat) (p : Nat), s.tb.dreqWait = some (seq, e, p) ∧ ptpTakes s x.domain x.udp =
      true) ∧
    (∃ (s : State) (p : Nat) (a : AnnounceData), s.tb.parent = some (p, a)) :=
  ⟨⟨base, { port := 2 }, rfl, by decide⟩,
   ⟨base, { port := 2, domain := 5 }, rfl, by decide⟩,
   ⟨{ base with tb.parent := some (2, master) }, sync, 2, master, rfl, by decide, rfl⟩,
   ⟨{ base with tb.parent := some (2, master) }, { sync with twoStep := false }, 2, master, rfl, by decide, rfl⟩,
   ⟨base, rfl⟩,
   ⟨{ base with tb.syncWait := some sync, tb.state := .locked }, { rx := { port := 2 }, seq := 9, origin := 0 }, sync, rfl, rfl, by
     decide, by decide, rfl⟩,
   ⟨{ base with tb.syncWait := some sync, fn := [(0x3F0, { held := true, state := .off })] }, { rx := { port := 2 }, seq := 9, origin := 0 },
     sync, rfl, rfl, by decide, by decide⟩,
   ⟨{ base with tb.parent := some (2, master) }, rfl, rfl⟩,
   ⟨{ base with tb.dreqWait := some (3, 100, 2) }, { port := 2 }, 3, 100, 2, rfl, by decide⟩,
   ⟨{ base with tb.parent := some (2, master) }, 2, master, rfl⟩⟩

theorem wit_TimeStateEvents :
    (∃ (s : State) (t0 : Nat), s.tb.state.lossy = true ∧ s.tb.servoLast + watchdogRefs s.tb ≤ t0) ∧
    (∃ (s : State) (t0 : Nat), t0 < s.tb.servoLast + watchdogRefs s.tb) ∧
    (∃ (s : State), s.tb.state.lossy = false ∧ 2 ≤ s.tb.qAnn ∧ 16 ≤ s.tb.qSync ∧ 16 ≤ s.tb.qDelay) ∧
    (∃ (s : State), (s.tb.qAnn < 2 ∨ s.tb.qSync < 16 ∨ s.tb.qDelay < 16)) ∧
    (∃ (s : State), s.tb.state = .acquiring ∧ 16 ≤ s.tb.postStep) ∧
    (∃ (s : State) (o : Int), s.tb.state = .slewing ∧ -3276800 ≤ o ∧ o ≤ 3276800) ∧
    (∃ (s : State) (p : Fin 4), s.tb.synceMode = 1 ∧ s.tb.syncePort = p.val ∧ s.tb.synceSel ≠ some p.val) ∧
    (∃ (s : State), lampServes s = true) ∧
    (∃ (s : State) (p : Nat), lampServes s = true ∧ s.tb.synceSel = some p ∧ (∀ k, k < 4 → (netOf s k).link = true)) :=
  ⟨⟨{ base with tb.state := .locked }, 102400000, rfl, by decide⟩,
   ⟨base, 102399999, by decide⟩,
   ⟨{ base with tb.qAnn := 2, tb.qSync := 16, tb.qDelay := 16 }, rfl, by decide, by decide, by decide⟩,
   ⟨base, by decide⟩,
   ⟨{ base with tb.state := .acquiring, tb.postStep := 16 }, rfl, by decide⟩,
   ⟨{ base with tb.state := .slewing }, 3276800, rfl, by decide, by decide⟩,
   ⟨{ base with tb.synceMode := 1, tb.syncePort := 3 }, 3, rfl, rfl, by decide⟩,
   ⟨base, rfl⟩,
   ⟨{ base with tb.synceSel := some 3, net.port := [(0, { link := true }), (1, { link := true }), (2, { link := true }), (3, { link := true })] },
     3, rfl, rfl, by decide⟩⟩

theorem wit_StampsAndBeacons :
    (∃ (s : State) (i : Fin 16) (rising : Bool) (t0 : Nat) (fine : Nat) (x : Nat), bit (tget s.tb.evtEdges i.val 0) (if rising then
      0 else 1) = true ∧ fnState s (fnEvent i.val) = .running ∧ (fnOf s (fnEvent i.val)).held = false ∧ x = cutStamp (t0 * 320000 +
      fine) ∧ (∀ p, (tdcOf s i.val).prev = some p → p + 64 * 320000 ≤ x)) ∧
    (∃ (s : State) (i : Fin 16) (rising : Bool) (t0 : Nat) (fine : Nat) (p : Nat), bit (tget s.tb.evtEdges i.val 0) (if rising then
      0 else 1) = true ∧ (tdcOf s i.val).prev = some p ∧ cutStamp (t0 * 320000 + fine) < p + 64 * 320000) ∧
    (∃ (s : State) (i : Fin 16) (rising : Bool), bit (tget s.tb.evtEdges i.val 0) (if rising then 0 else 1) = false) ∧
    (∃ (s : State) (c : Fin 16) (t0 : Nat) (fine : Nat) (x : Nat), (compOf s c.val).enable = true ∧ (compOf s c.val).mutedUntil ≤
      t0 ∧ x = cutStamp (t0 * 320000 + fine) ∧ (∀ p, (tdcOf s (16 + c.val)).prev = some p → p + 64 * 320000 ≤ x)) ∧
    (∃ (s : State) (c : Fin 16) (t0 : Nat), ((compOf s c.val).enable = false ∨ t0 < (compOf s c.val).mutedUntil)) ∧
    (∃ (s : State) (k : Fin 16) (c : BeaconSet) (e : Nat), (beaconOf s k.val).cfg = some c ∧ (beaconOf s k.val).edge = some e
      ∧ (beaconOf s k.val).inPulse = false) ∧
    (∃ (s : State) (k : Fin 16) (c : BeaconSet) (e : Nat), (beaconOf s k.val).cfg = some c ∧ (beaconOf s k.val).edge = some e
      ∧ (beaconOf s k.val).inPulse = true ∧ (beaconOf s k.val).stopping = false ∧ (beaconOf s k.val).next = none ∧ c.periodic =
      true ∧ c.period ≠ 0 ∧ c.start ≤ e) ∧
    (∃ (s : State) (k : Fin 16) (c : BeaconSet) (e : Nat), (beaconOf s k.val).cfg = some c ∧ (beaconOf s k.val).edge = some e
      ∧ (beaconOf s k.val).inPulse = true ∧ (beaconOf s k.val).stopping = true) :=
  ⟨⟨{ base with tb.evtEdges := [(15, 1)], tb.tdc := [(15, { prev := some 0 })] }, 15, true, 64, 799, 20480032, rfl, rfl, rfl, by
     decide, by rintro p ⟨⟩; decide⟩,
   ⟨{ base with tb.evtEdges := [(15, 1)], tb.tdc := [(15, { prev := some 0 })] }, 15, true, 63, 319999, 0, rfl, rfl, by decide⟩,
   ⟨base, 15, true, rfl⟩,
   ⟨{ base with fe.comp := [(15, { enable := true, mutedUntil := 7 })] }, 15, 7, 0, 2239424, rfl, by decide, by decide, nofun⟩,
   ⟨{ base with fe.comp := [(15, { enable := true, mutedUntil := 7 })] }, 15, 6, by decide⟩,
   ⟨{ base with tb.beacon := [(15, { cfg := some beaconSet, edge := some 160 })] }, 15, beaconSet, 160, rfl, rfl, rfl⟩,
   ⟨{ base with tb.beacon := [(15, { cfg := some beaconSet, edge := some 320, inPulse := true })] }, 15, beaconSet, 320, by
     and_intros <;> decide +kernel⟩,
   ⟨{ base with tb.beacon := [(15, { cfg := some beaconSet, edge := some 320, inPulse := true, stopping := true })] }, 15, beaconSet,
     320, rfl, rfl, rfl, rfl⟩⟩

theorem wit_ValueOutputs :
    (∃ (s : State) (o : Fin 32) (t0 : Nat) (c : VoutSet), (voutOf s o.val).cfg = some c ∧ c.pwm = true ∧ c.pc ≠ 0 ∧ t0 % c.pc
      = 0 ∧ (voutOf s o.val).stopping = false ∧ (voutOf s o.val).next = none ∧ fnOut s (fnVout o.val) = false) ∧
    (∃ (s : State) (o : Fin 32) (t0 : Nat) (p : Nat) (c : VoutSet), (voutOf s o.val).cfg = some c ∧ c.pwm = true ∧ fnOut s
      (fnVout o.val) = false ∧ (voutOf s o.val).period = some p ∧ p + (voutOf s o.val).high ≤ t0 ∧ (voutOf s o.val).high <
      c.pc) ∧
    (∃ (s : State) (o : Fin 32) (c : VoutSet), (voutOf s o.val).cfg = some c ∧ c.pwm = false ∧ fnOut s (fnVout o.val) = false
      ∧ (voutOf s o.val).halted = false ∧ (voutOf s o.val).stopping = false ∧ (voutOf s o.val).next = none ∧ (voutOf s
      o.val).onBad = false) :=
  ⟨⟨{ base with lin.vout := [(31, { cfg := some pwmSet })] }, 31, 4000, pwmSet, by
     and_intros <;> decide +kernel⟩,
   ⟨{ base with lin.vout := [(31, { cfg := some pwmSet, period := some 4000, high := 1000 })] }, 31, 5000, 4000, pwmSet, rfl,
     rfl, rfl, rfl, by decide, by decide⟩,
   ⟨{ base with lin.vout := [(31, { cfg := some { pwmSet with pwm := false } })] }, 31, { pwmSet with pwm := false }, by
     and_intros <;> decide +kernel⟩⟩

theorem wit_FrontEndFaults :
    (∃ (s : State) (pin : Pin) (n : Nat), pinSlot pin = some n ∧ pinClamps s pin = false) ∧
    (∃ (s : State) (pin : Pin), pinClamps s pin = true) ∧
    (∃ (s : State) (n : Fin 512) (neg : Bool), pinClamps s (.ain n neg) = false) ∧
    (∃ (s : State) (a : Fin 4) (neg : Bool), pinClamps s (.calRef a neg) = false) ∧
    (∃ (pin : Pin) (b : Nat), ((∃ n g, pin = .ain n g ∧ b = n.val / 32) ∨ ∃ c g, pin = .wb c g ∧ b = c.val)) ∧
    (∃ (s : State) (f : WireFault) (t0 : Nat) (n : Nat), testRuns s t0 f = true ∧ n ∈ wireSlots s f ∧ (isSpare n = true ∨ (chanOf s
      n).enabled = true) ∧ wireRow f ∉ (chanOf s n).wire) ∧
    (∃ (s : State) (f : WireFault) (t0 : Nat) (n : Nat), testRuns s t0 f = true ∧ n ∈ wireSlots s f ∧ wireRow f ∈ (chanOf s
      n).wire) ∧
    (∃ (s : State) (f : WireFault) (t0 : Nat), testRuns s t0 f = false) ∧
    (∃ (s : State) (g : Fin 128), (excMode s g.val = 1 ∨ excMode s g.val = 2) ∧ groupWire s g.val = false) ∧
    (∃ (s : State) (g : Fin 128), excMode s g.val = 1) ∧
    (∃ (s : State) (g : Fin 128), ((excOf s g.val).dropout = true ∨ (excOf s g.val).limit = true) ∧ (excOf s g.val).leftAt =
      none) ∧
    (∃ (s : State) (g : Fin 128) (t0 : Nat) (l : Nat), (excOf s g.val).leftAt = some l ∧ l + excT (excMode s g.val) ≤ t0) ∧
    (∃ (s : State) (g : Fin 128) (t0 : Nat) (l : Nat), (excOf s g.val).leftAt = some l ∧ t0 < l + excT (excMode s g.val)) :=
  ⟨⟨base, .wb 15 true, 543, rfl, rfl⟩,
   ⟨{ base with fe.bank := [(15, { clampPins := [.wb 15 true] })] }, .wb 15 true, by decide⟩,
   ⟨{ base with fe.bank := [(15, { clampPins := [.ain 511 false] })] }, 511, true, by decide⟩,
   ⟨{ base with fe.tile := [(3, { refPins := [false] })] }, 3, true, by decide⟩,
   ⟨.wb 15 true, 15, Or.inr ⟨15, true, rfl, rfl⟩⟩,
   ⟨{ base with fe.exc := [(2, { mode := 1 })], fe.chan := [(9, { enabled := true })] }, .voltage 2, 0, 9, rfl, by decide,
     Or.inr rfl, by decide⟩,
   ⟨{ base with fe.exc := [(2, { mode := 1 })], fe.chan := [(9, { wire := [0] })] }, .voltage 2, 0, 9, rfl, by decide, by
     decide⟩,
   ⟨base, .voltage 2, 0, rfl⟩,
   ⟨{ base with fe.exc := [(127, { mode := 2 })] }, 127, by decide, by decide⟩,
   ⟨{ base with fe.exc := [(127, { mode := 1 })] }, 127, rfl⟩,
   ⟨{ base with fe.exc := [(127, { mode := 1, dropout := true })] }, 127, Or.inl rfl, rfl⟩,
   ⟨{ base with fe.exc := [(127, { mode := 2, leftAt := some 100 })] }, 127, 1024100, 100, rfl, by decide⟩,
   ⟨{ base with fe.exc := [(127, { mode := 2, leftAt := some 100 })] }, 127, 1024099, 100, rfl, by decide⟩⟩

theorem wit_FirStageOutput :
    (∃ (coef : Nat → Int) (shift : Nat) (line : List Tap) (e : Int), (stageOut coef shift line).sat = false ∧ 2 * firSum coef
      0 line = 2 ^ (shift + 1) * (stageOut coef shift line).v + e) ∧
    (∃ (line : List Tap), (∃ x ∈ line, x.sat = true)) :=
  ⟨⟨fun _ => 3, 1, [{ v := 5 }], -2, rfl, rfl⟩,
   ⟨[{ sat := true }], ⟨_, List.mem_singleton.2 rfl, rfl⟩⟩⟩

theorem wit_TileLinksAndRounds :
    (∃ (s : State) (b : Fin 16) (w : BitVec 64), s.pwr.plane = true ∧ wordPos w ≤ 32 ∧ (bankSt s b.val).cicBuf.length < 64) ∧
    (∃ (s : State) (b : Fin 16) (w : BitVec 64), s.pwr.plane = true ∧ wordPos w ≤ 32 ∧ 64 ≤ (bankSt s b.val).cicBuf.length) ∧
    (∃ (s : State) (w : BitVec 64), (s.pwr.plane = false ∨ 32 < wordPos w)) ∧
    (∃ (s : State), s.pwr.plane = true) ∧
    (∃ (s : State) (n : Nat), s.pwr.plane = true ∧ n < 544 ∧ (chanOf s n).chains = [] ∧ (chanOf s n).fade = none) ∧
    (∃ (s : State) (n : Nat) (w : BitVec 64), s.pwr.plane = true ∧ n < 528 ∧ takeWord s (bankOf n) n = some w) ∧
    (∃ (s : State) (n : Nat), s.pwr.plane = true ∧ n < 528 ∧ takeWord s (bankOf n) n = none) ∧
    (∃ (s : State), s.pwr.plane = false) :=
  ⟨⟨{ base with pwr.plane := true }, 15, 0, rfl, by decide, by decide⟩,
   ⟨{ base with pwr.plane := true, fe.bank := [(15, { cicBuf := List.replicate 64 0 })] }, 15, 0, rfl, by decide, by decide⟩,
   ⟨base, 0, Or.inl rfl⟩,
   ⟨{ base with pwr.plane := true }, rfl⟩,
   ⟨{ base with pwr.plane := true }, 543, rfl, by decide, rfl, rfl⟩,
   ⟨{ base with pwr.plane := true, fe.bank := [(15, { cicBuf := [0x7C00000000000000] })] }, 511, 0x7C00000000000000, rfl, by decide,
     by decide +kernel⟩,
   ⟨{ base with pwr.plane := true }, 527, rfl, by decide, by decide +kernel⟩,
   ⟨base, rfl⟩⟩

theorem wit_SamplesCommitted :
    (∃ (s : State), s.chd.linQ = []) ∧
    (∃ (s : State) (o : ChOut) (rest : List ChOut), s.chd.linQ = o :: rest ∧ 528 ≤ o.fe) ∧
    (∃ (s : State) (o : ChOut) (rest : List ChOut), s.chd.linQ = o :: rest ∧ o.fe < 528) ∧
    (∃ (s : State), s.chd.comQ = []) ∧
    (∃ (s : State) (i : CommitItem) (rest : List CommitItem), s.chd.comQ = i :: rest) :=
  ⟨⟨base, rfl⟩,
   ⟨{ base with chd.linQ := [{ fe := 528, rate := 15, n := 3, raw := 0x500 }] }, { fe := 528, rate := 15, n := 3, raw := 0x500 },
     [], rfl, by decide⟩,
   ⟨{ base with chd.linQ := [{ fe := 527, rate := 0, n := 3, raw := 0x500 }] }, { fe := 527, rate := 0, n := 3, raw := 0x500 },
     [], rfl, by decide⟩,
   ⟨base, rfl⟩,
   ⟨{ base with chd.comQ := [{ fe := 527, rate := 0, n := 3, raw := 0x500 }] }, { fe := 527, rate := 0, n := 3, raw := 0x500 },
     [], rfl⟩⟩

theorem wit_FilterSwapComplete :
    (∃ (s : State) (w : SwapRun), s.chd.swap = some w ∧ s.now = s.tb.tick * 1048576 ∧ (∀ n ∈ swapSlots s, fadeDone s n =
      true) ∧ s.chd.deferred = none ∧ s.chd.late = none ∧ s.chd.held = []) ∧
    (∃ (s : State) (w : SwapRun) (d : SwapRun), s.chd.swap = some w ∧ s.now = s.tb.tick * 1048576 ∧ (∀ n ∈ swapSlots s,
      fadeDone s n = true) ∧ s.chd.deferred = some d ∧ s.chd.late = none ∧ d.tick ≤ s.tb.tick ∧ swapAhead s = false ∧ (∀ n, n < 528 →
      (chanOf s n).running = false ∨ chainDefined s.chd (1 - (1 - s.chd.active)) (chanOf s n).set (chanOf s n).rate = true)) ∧
    (∃ (s : State), (s.chd.swap = none ∨ s.now ≠ s.tb.tick * 1048576 ∨ ∃ n ∈ swapSlots s, fadeDone s n = false)) :=
  ⟨⟨{ base with tb.tick := 2, now := 2097152, chd.swap := some { k := 8, tick := 1, owed := owed0 } }, { k := 8, tick := 1, owed := owed0 },
    rfl, rfl, swapSlots_done, rfl, rfl, rfl⟩,
   ⟨{ base with tb.tick := 2, now := 2097152, chd.swap := some { k := 8, tick := 1, owed := owed0 }, chd.deferred := some { k := 9, tick := 2, owed := owed0 } },
    { k := 8, tick := 1, owed := owed0 }, { k := 9, tick := 2, owed := owed0 }, by
     and_intros <;> decide +kernel⟩,
   ⟨base, Or.inl rfl⟩⟩

theorem wit_AuxiliaryScans :
    (∃ (s : State) (c : Fin 4) (tm : Fin 2) (t0 : Nat), (tget (auxOf s c.val).timers tm.val {}).period ≠ 0 ∧ (tget (auxOf s
      c.val).timers tm.val {}).phase ≤ t0 ∧ (t0 - (tget (auxOf s c.val).timers tm.val {}).phase) % (tget (auxOf s
      c.val).timers tm.val {}).period = 0 ∧ fnIdle s (fnAuxConv c.val) = false ∧ s.tb.evBuf.length < 32 ∧ ∃ e, (auxOf s
      c.val).table.getD (auxOf s c.val).pos 0 = e ∧ auxWait e = true ∧ auxSource e = tm.val ∧ (auxOf s c.val).phase = .waiting ∧
      (auxOf s c.val).freeAt ≤ t0) ∧
    (∃ (s : State) (c : Fin 4) (tm : Fin 2) (t0 : Nat), (tget (auxOf s c.val).timers tm.val {}).period ≠ 0 ∧ (tget (auxOf s
      c.val).timers tm.val {}).phase ≤ t0 ∧ (t0 - (tget (auxOf s c.val).timers tm.val {}).phase) % (tget (auxOf s
      c.val).timers tm.val {}).period = 0 ∧ fnIdle s (fnAuxConv c.val) = false ∧ s.tb.evBuf.length < 32 ∧ ∃ e ∈ (auxOf s
      c.val).table, auxWait e = true ∧ auxSource e = tm.val ∧ ((auxOf s c.val).phase ≠ .waiting ∨ t0 < (auxOf s c.val).freeAt)) ∧
    (∃ (s : State) (c : Fin 4) (due : Nat) (late : Bool), (auxOf s c.val).phase = .delay due late ∧ auxWait ((auxOf s
      c.val).table.getD (auxNext (auxOf s c.val)) 0) = false) ∧
    (∃ (s : State) (c : Fin 4) (hold : Nat) (rep : Nat) (e : BitVec 64), (auxOf s c.val).phase = .converting hold rep ∧
      (auxOf s c.val).table.getD (auxOf s c.val).pos 0 = e ∧ fnOut s (fnAuxConv c.val) = false ∧ (auxOf s c.val).waiting =
      none) ∧
    (∃ (s : State) (c : Fin 4) (tb : List (BitVec 64)), (auxOf s c.val).waiting = some tb ∧ (auxOf s c.val).phase = .idle) :=
  ⟨⟨{ base with fe.aux := [(3, { timers := [(1, { period := 100, phase := 5 })], table := [auxW], phase := .waiting })] }, 3, 1, 105, by
    decide, by decide, rfl, rfl, by decide, auxW, rfl, by decide, by decide, rfl, by decide⟩,
   ⟨{ base with fe.aux := [(3, { timers := [(1, { period := 100, phase := 5 })], table := [auxW], phase := .waiting, freeAt := 106 })] },
    3, 1, 105, by decide, by decide, rfl, rfl, by decide, auxW, List.mem_singleton.2 rfl, by decide, by decide, by decide⟩,
   ⟨{ base with fe.aux := [(3, { phase := .delay 50 false })] }, 3, 50, false, rfl, rfl⟩,
   ⟨{ base with fe.aux := [(3, { table := [5], phase := .converting 50 0 })] }, 3, 50, 0, 5, rfl, rfl, rfl, rfl⟩,
   ⟨{ base with fe.aux := [(3, { waiting := some [1] })] }, 3, [1], rfl, rfl⟩⟩

theorem wit_CommitDeadlines :
    (∃ (s : State) (i : Fin 64) (d : Nat × List Nat), (s.pwr.plane = true ∨ (strOf s i.val).enabled = false) ∧ (strOf s
      i.val).cfg.kind ≠ 6 ∧ nextDeadline s i.val = some d) ∧
    (∃ (s : State) (i : Fin 64) (x : Nat) (xs : List Nat), (s.pwr.plane = true ∨ (strOf s i.val).enabled = false) ∧ (strOf s
      i.val).cfg.kind = 6 ∧ entryStamps (strOf s i.val) = x :: xs) ∧
    (∃ (s : State) (i : Fin 64), (strOf s i.val).enabled = true ∧ s.pwr.plane = false) ∧
    (∃ (st : Stream) (w : Word32), balanced st.cnt = true ∧ (w.st = .early ∨ w.st = .absent ∨ (∃ cz, w.st = .dueF cz) ∨ ∃ cz,
      w.st = .dueD cz)) :=
  ⟨⟨{ base with str.s := [(63, { cfg := { slots := [0] }, due := [2], stopAt := some 5 })] }, 63, (79872, [0]), Or.inr rfl,
    by decide, by decide⟩,
   ⟨{ base with str.s := [(63, { cfg := { kind := 6 }, held := [(7, 0, [])] })] }, 63, 7, [], Or.inr rfl, rfl, rfl⟩,
   ⟨{ base with str.s := [(63, { enabled := true })] }, 63, rfl, rfl⟩,
   ⟨{ cnt := { p := 2, m := 1, a := 1 } }, { st := .dueF 3 }, rfl, Or.inr (Or.inr (Or.inl ⟨3, rfl⟩))⟩⟩

theorem wit_BlocksStoredAndSent :
    (∃ (s : State) (i : Fin 64) (b : Block), (strOf s i.val).blocks.find? (fun b => !b.coded) = some b) ∧
    (∃ (s : State) (i : Fin 64), (∀ b ∈ (strOf s i.val).blocks, b.coded = true)) ∧
    (∃ (s : State) (i : Fin 64) (r : Nat) (a : BitVec 128) (b : Block) (rest : List Block), (strOf s i.val).blocks = b ::
      rest ∧ b.coded = true ∧ destRoles (strOf s i.val).cfg = [r] ∧ (tget b.dst r {}).sent = none ∧ (tget b.dst r {}).acked =
      false ∧ roleAddr s r = some a) ∧
    (∃ (s : State) (i : Fin 64), (∀ b ∈ (strOf s i.val).blocks, b.coded = false ∨ ∀ r ∈ destRoles (strOf s i.val).cfg, (tget
      b.dst r {}).sent.isSome = true ∨ (tget b.dst r {}).acked = true)) :=
  ⟨⟨{ base with str.s := [(63, { blocks := [blk] })] }, 63, blk, rfl⟩,
   ⟨sentS none, 63, by decide⟩,
   ⟨sentS none, 63, 1, onA, { blk with coded := true, dst := [(1, { sent := none })] }, [], rfl, rfl, rfl, rfl, rfl,
     by decide +kernel⟩,
   ⟨sentS (some 100), 63, by decide⟩⟩

theorem wit_RetransmissionAndAcks :
    (∃ (s : State) (i : Fin 64) (seq : Nat) (r : Fin 2) (t0 : Nat) (x : Nat) (a : BitVec 128) (b : Block), (strOf s
      i.val).blocks.find? (fun b => b.coded && b.seq == BitVec.ofNat 32 seq) = some b ∧ (tget b.dst r.val {}).sent = some x ∧
      roleAddr s r.val = some a ∧ (tget b.dst r.val {}).acked = false ∧ bit (strOf s i.val).cfg.dest r.val = true ∧ x +
      (strOf s i.val).cfg.rto * 204800 ≤ t0) ∧
    (∃ (s : State) (i : Fin 64) (seq : Nat) (r : Fin 2) (t0 : Nat) (x : Nat) (a : BitVec 128) (b : Block), (strOf s
      i.val).blocks.find? (fun b => b.coded && b.seq == BitVec.ofNat 32 seq) = some b ∧ (tget b.dst r.val {}).sent = some x ∧
      roleAddr s r.val = some a ∧ (tget b.dst r.val {}).acked = false ∧ bit (strOf s i.val).cfg.dest r.val = true ∧ t0 < x +
      (strOf s i.val).cfg.rto * 204800) ∧
    (∃ (s : State) (d : Dgram), s.pwr.llTakeover = false ∧ ackOk s d = true) ∧
    (∃ (s : State) (d : Dgram), s.pwr.llTakeover = false ∧ hmacTag (keyOf s (collOf s (rd d.body 3 1)).cfg.keyId)
      (d.body.take 24) ≠ d.body.drop 24) ∧
    (∃ (s : State), s.pwr.llTakeover = true ∧ s.str.keptAcks.length < 1024) :=
  ⟨⟨sentS (some 100), 63, 5, 1, 4096100, 100, onA, { blk with coded := true, dst := [(1, { sent := some 100 })] }, rfl, rfl,
    by decide +kernel, rfl, rfl, by decide⟩,
   ⟨sentS (some 100), 63, 5, 1, 4096099, 100, onA, { blk with coded := true, dst := [(1, { sent := some 100 })] }, rfl, rfl,
     by decide +kernel, rfl, rfl, by decide⟩,
   ⟨sentS (some 100), ackD, rfl, ackD_ok⟩,
   ⟨base, { port := 0, body := [] }, rfl, hmacTag_ne _ _ _ (by decide)⟩,
   ⟨{ base with pwr.llTakeover := true }, rfl, by decide⟩⟩

theorem wit_ReductionIntervals :
    (∃ (s : State) (j : Nat) (a : Nat) (r : RedInst), redAt s j = some r ∧ (r.kind = 4 ∨ r.kind = 5) ∧ r.runs = [(a, none)] ∧
      r.cuts = [] ∧ (r.intv + 1) * r.period ≤ s.tb.tick ∧ fnOut s fnRed = false ∧ (n0 ((r.intv + 1) * r.period) (rateRefs
      r.rate) ≤ r.nextIn ∨ (n0 ((r.intv + 1) * r.period) (rateRefs r.rate) - 1) * rateRefs r.rate + latency s r.slot ≤
      s.now)) ∧
    (∃ (s : State) (j : Nat) (r : RedInst), redAt s j = some r ∧ s.tb.tick < (r.intv + 1) * r.period) :=
  ⟨⟨{ base with str.red := [red0], tb.tick := 1 }, 0, 0, red0, rfl, Or.inl rfl, rfl, rfl, by decide, rfl, Or.inl (by decide)⟩,
   ⟨{ base with str.red := [red0] }, 0, red0, rfl, by decide⟩⟩

theorem wit_TriggerEvaluations :
    (∃ (s : State) (g : Fin 8) (t0 : Nat), (grpOf s g.val).armed = true ∧ evalReady { s with now := max s.now t0 } (grpOf s
      g.val).cfg (grpOf s g.val).next = true ∧ (grpOf s g.val).stopAt = none) ∧
    (∃ (s : State) (g : Fin 8) (t0 : Nat), ((grpOf s g.val).armed = false ∨ evalReady { s with now := max s.now t0 } (grpOf s
      g.val).cfg (grpOf s g.val).next = false)) :=
  ⟨⟨{ base with trg.grp := [(7, { armed := true, next := 1 })] }, 7, 5000, rfl, rfl, rfl⟩,
   ⟨base, 7, 0, Or.inl rfl⟩⟩

theorem wit_GroupMessages :
    (∃ (s : State) (d : Dgram), hmacTag (keyOf s (rd d.body 2 1)) (d.body.take 48) ≠ d.body.drop 48) ∧
    (∃ (s : State) (d : Dgram), trigTagOk s 0x10 d.body = true ∧ (BitVec.ofNat 16 (rd d.body 8 2), BitVec.ofNat 32 (rd d.body
      12 4)) ∈ s.trg.handled) ∧
    (∃ (s : State) (d : Dgram) (g : Nat), trigTagOk s 0x10 d.body = true ∧ g ∈ netGroups s (rd d.body 4 4) 1 ∧ rd d.body 8 2
      ≠ hubNo s ∧ (BitVec.ofNat 16 (rd d.body 8 2), BitVec.ofNat 32 (rd d.body 12 4)) ∉ s.trg.handled) ∧
    (∃ (s : State) (d : Dgram) (arm : Bool), s.pwr.fwUp = true ∧ trigTagOk s (if arm then 0x11 else 0x12) d.body = true ∧ rd
      d.body 8 2 ≠ hubNo s) ∧
    (∃ (s : State), s.pwr.fwUp = false) ∧
    (∃ (s : State) (d : Dgram), s.pwr.fwUp = true ∧ hmacTag (keyOf s (rd d.body 2 1)) (d.body.take 48) ≠ d.body.drop 48) :=
  ⟨⟨base, { port := 0, body := [] }, hmacTag_ne _ _ _ (by decide)⟩,
   ⟨{ base with trg.handled := [(1, 0)] }, trigD 0x10 1, trigD_ok 0x10 1 (by decide), by decide⟩,
   ⟨{ base with trg.grp := [(3, { defd := true, cfg := { nflags := 2 } })] }, trigD 0x10 1, 3, trigD_ok 0x10 1 (by decide),
     by decide, by decide, nofun⟩,
   ⟨base, trigD 0x11 1, true, rfl, trigD_ok 0x11 1 (by decide), by decide⟩,
   ⟨State.reset, rfl⟩,
   ⟨base, { port := 0, body := [] }, rfl, hmacTag_ne _ _ _ (by decide)⟩⟩

theorem wit_RecordsComplete :
    (∃ (s : State) (g : Fin 8) (r : Record), (grpOf s g.val).recs.find? (fun r => !r.complete) = some r ∧ recDue s r + 2048 ≤
      s.tb.tick * 1048576 ∧ s.memInv) ∧
    (∃ (s : State) (g : Fin 8), (∀ r, (grpOf s g.val).recs.find? (fun r => !r.complete) = some r → s.tb.tick * 1048576 <
      recDue s r + 2048)) :=
  ⟨⟨{ base with trg.grp := [(7, { recs := [rec0] })], tb.tick := 1 }, 7, rec0, rfl, by decide, ⟨rfl, rfl⟩⟩,
   ⟨base, 7, nofun⟩⟩

theorem wit_ScrubAndMigration :
    (∃ (s : State), (s.pwr.memReady = false ∨ s.rm.mig ≠ none ∨ fnState s 0x328 ≠ .running ∨ (fnOf s 0x328).held = true)) ∧
    (∃ (s : State) (b : Nat), s.pwr.memReady = true ∧ s.rm.mig = none ∧ fnState s 0x328 = .running ∧ (fnOf s 0x328).held = false ∧
      s.rm.pos + 1 < allLines ∧ s.rm.pos < 33 * 32768 ∧ logOf s (s.rm.pos / 32768) = some b) ∧
    (∃ (s : State), s.pwr.memReady = true ∧ s.rm.mig = none ∧ fnState s 0x328 = .running ∧
      (fnOf s 0x328).held = false ∧ allLines ≤ s.rm.pos + 1) ∧
    (∃ (s : State) (e : SymErr), s.pwr.memReady = true ∧ s.rm.mig = none ∧ fnState s 0x328 =
      .running ∧ (fnOf s 0x328).held = false ∧ e.ofs < 64 ∧ e.kind = .corrected ∧ s.rm.pos + 1 < allLines) ∧
    (∃ (s : State) (e : SymErr) (b : Nat), s.pwr.memReady = true ∧ s.rm.mig = none ∧ fnState s
      0x328 = .running ∧ (fnOf s 0x328).held = false ∧ e.ofs < 64 ∧ e.kind = .uncorrectable ∧ s.rm.pos < 33 * 32768 ∧ logOf s
      (s.rm.pos / 32768) = some b ∧ s.rm.poison.has ((lineAddr b (s.rm.pos % 32768) + e.ofs) / 8 * 8) = false) ∧
    (∃ (s : State) (e : SymErr) (b : Nat) (v : Byte), s.pwr.memReady = true ∧ s.rm.mig = none ∧
      fnState s 0x328 = .running ∧ (fnOf s 0x328).held = false ∧ e.ofs < 64 ∧ e.kind = .miscorrected v ∧ s.rm.pos < 33 *
      32768 ∧ logOf s (s.rm.pos / 32768) = some b ∧ s.memInv) ∧
    (∃ (s : State) (b : Fin 32) (w : Nat × Option Owed) (sp : Nat), s.rm.wantMig.find? (fun e => e.1 == b.val) = some w ∧
      s.rm.sparePhys = some sp ∧ s.rm.mig = none) ∧
    (∃ (s : State) (b : Fin 32) (w : Nat × Option Owed), s.rm.wantMig.find? (fun e => e.1 == b.val) = some w ∧ s.rm.sparePhys
      = none) ∧
    (∃ (s : State) (b : Fin 32), s.rm.wantMig.find? (fun e => e.1 == b.val) = none) ∧
    (∃ (s : State) (g : Migration) (sp : Nat), s.rm.mig = some g ∧ g.phase = .copied ∧ s.rm.sparePhys = some sp ∧ g.bank < 32 ∧ s.memInv ∧ g.owed = none ∧
      (fnOf s (fnMemBank g.bank)).disOwed = []) ∧
    (∃ (s : State) (g : Migration), s.rm.mig = some g ∧ g.phase = .copying) :=
  ⟨⟨State.reset, Or.inl rfl⟩,
   ⟨{ base with rm.poison.c0 := [8] }, 0, by
     and_intros <;> decide +kernel⟩,
   ⟨{ base with rm.pos := 1146879 }, rfl, rfl, rfl, rfl, by decide⟩,
   ⟨base, { ofs := 63, kind := .corrected }, by
     and_intros <;> decide +kernel⟩,
   ⟨base, { ofs := 63, kind := .uncorrectable }, 0, by
     and_intros <;> decide +kernel⟩,
   ⟨base, { ofs := 63, kind := .miscorrected 7 }, 0, 7, rfl, rfl, rfl, rfl, by decide, rfl, by decide, rfl, ⟨rfl, rfl⟩⟩,
   ⟨{ base with rm.wantMig := [(31, none)] }, 31, (31, none), 32, rfl, rfl, rfl⟩,
   ⟨{ base with rm.wantMig := [(31, none)], rm.sparePhys := none }, 31, (31, none), rfl, rfl⟩,
   ⟨base, 31, rfl⟩,
   ⟨{ base with rm.mig := some { bank := 31, phase := .copied } }, { bank := 31, phase := .copied }, 32, rfl, rfl, rfl, by
     decide, ⟨rfl, rfl⟩, rfl, rfl⟩,
   ⟨{ base with rm.mig := some { bank := 31, phase := .copying } }, { bank := 31, phase := .copying }, rfl, rfl⟩⟩

theorem wit_CooperJobs :
    (∃ (s : State) (j : Job) (rest : List Job), s.cop = j :: rest ∧ j.running = false ∧ cooperOut s = false ∧ j.started =
      false ∧ j.span = 0 ∧ j.room = 0 ∧ (∀ k ∈ rest, k.running = false) ∧ s.memInv) ∧
    (∃ (s : State) (j : Job) (rest : List Job), s.cop = j :: rest ∧ (j.running = true ∨ cooperOut s = true)) ∧
    (∃ (s : State), s.cop = []) ∧
    (∃ (s : State) (j : Job) (rest : List Job) (r : Record), s.cop = j :: rest ∧ recOf s j.group j.record = some r ∧
      j.running = true ∧ j.started = true ∧ j.slotPos = r.parts.length ∧ s.memInv) :=
  ⟨⟨{ base with cop := [job0] }, job0, [], rfl, rfl, rfl, rfl, rfl, rfl, nofun, ⟨rfl, rfl⟩⟩,
   ⟨{ base with cop := [{ job0 with running := true }] }, { job0 with running := true }, [], rfl, Or.inl rfl⟩,
   ⟨base, rfl⟩,
   ⟨{ base with cop := [{ job0 with running := true, started := true }], trg.grp := [(0, { recs := [rec0] })] }, { job0 with running := true, started := true },
     [], rec0, rfl, rfl, rfl, rfl, rfl, ⟨rfl, rfl⟩⟩⟩

theorem wit_LoopEvaluations :
    (∃ (s : State) (n : Fin 32) (w : Nat) (k : Nat) (ek : Nat), (loopOf s n.val).defd = true ∧ s.wick.active = some w ∧
      (portOf s n.val).waitFirst = false ∧ (loopOf s n.val).cfg.period ≠ 0 ∧ k = nextEval (loopOf s n.val).cfg (loopOf s
      n.val).from_ ∧ ek = k * (loopOf s n.val).cfg.period + (loopOf s n.val).cfg.phase) ∧
    (∃ (s : State) (n : Fin 32), ((loopOf s n.val).defd = false ∨ s.wick.active = none ∨ (portOf s n.val).waitFirst = true)) :=
  ⟨⟨{ base with wick.loop := [(31, { defd := true, cfg := { period := 2048, phase := 10 }, from_ := 20 })] }, 31, 0, 1, 2058,
    rfl, rfl, rfl, by decide, rfl, rfl⟩,
   ⟨base, 31, Or.inl rfl⟩⟩

theorem wit_LoopLaw :
    (∃ (p : LoopParam) (v : Int), v.natAbs ≤ p.h) ∧
    (∃ (p : LoopParam) (v : Int) (ek : Nat) (r : LoopRun), (p.h : Int) < v ∧ r.out = false ∧ (r.offEdge = 0 ∨ r.offEdge +
      p.tOffMin ≤ ek)) ∧
    (∃ (p : LoopParam) (v : Int) (ek : Nat) (r : LoopRun), v < -(p.h : Int) ∧ r.out = true ∧ (r.onEdge = 0 ∨ r.onEdge +
      p.tOnMin ≤ ek)) ∧
    (∃ (p : LoopParam) (ek : Nat) (r : LoopRun), r.out = true ∧ ek < r.onEdge + p.tOnMin ∧ r.onEdge ≠ 0) ∧
    (∃ (r0 : LoopRun) (w : SampleWord), r0.mode = .closed ∧ wHas w fBad = true) ∧
    (∃ (c : LoopDef) (p : LoopParam) (r0 : LoopRun) (ho : Bool) (fresh : Bool) (w : SampleWord) (d : Int) (tv : Int) (ta :
      Int) (ek : Nat) (track : Option Bool), r0.mode = .closed ∧ (evalLoop c p r0 ho fresh (some w) d tv ta ek track).cause ≠
      .none) ∧
    (∃ (c : LoopDef) (p : LoopParam) (r0 : LoopRun) (ho : Bool) (fresh : Bool) (w : SampleWord) (d : Int) (tv : Int) (ta :
      Int) (ek : Nat) (track : Option Bool), r0.mode = .closed ∧ (evalLoop c p r0 ho fresh (some w) d tv ta ek track).cause =
      .none ∧ p.iMin ≤ 0 ∧ 0 ≤ p.iMax ∧ p.iMax ≤ 2147483647) :=
  ⟨⟨{}, 65536, by decide⟩,
   ⟨{}, 65537, 0, {}, by decide, rfl, Or.inl rfl⟩,
   ⟨{}, -65537, 0, { out := true }, by decide, rfl, Or.inl rfl⟩,
   ⟨{ tOnMin := 1000 }, 10, { out := true, onEdge := 5 }, rfl, by decide, by decide⟩,
   ⟨{ mode := .closed }, 0x80000001, rfl, rfl⟩,
   ⟨{}, {}, { mode := .closed }, false, true, 0x80000001, 0, 0, 0, 2048, none, rfl, by decide⟩,
   ⟨{}, { iMax := 7 }, { mode := .closed }, false, true, 0x500, 0, 0, 0, 2048, none, rfl, rfl, by decide, by decide, by decide⟩⟩

theorem wit_LoopEventsAndDriveFrames :
    (∃ (s : State) (n : Fin 32) (j : Inject), (loopOf s n.val).inj = some j ∧ (loopOf s n.val).capEnd = true ∧ s.memInv) ∧
    (∃ (s : State) (n : Fin 32) (w : Nat) (t0 : Nat), (loopOf s n.val).defd = true ∧ s.wick.active = some w ∧ (portOf s
      n.val).waitFirst = false ∧ (loopOf s n.val).cfg.period ≠ 0 ∧ frameEnd (portOf s n.val).start ≤ t0 ∧ fnOut s (fnDrive
      n.val) = false ∧ bitRefs (frameBit (portOf s n.val) t0) + 600 ≤ nextEval (loopOf s n.val).cfg (max (loopOf s n.val).from_ t0) * (loopOf s n.val).cfg.period
      + (loopOf s n.val).cfg.phase) ∧
    (∃ (s : State) (p : Fin 32) (f : BitVec 64), fnOut s (fnDrive p.val) = false ∧ bits f.toNat 15 0 ≠ crc16 48 (f.toNat /
      65536)) ∧
    (∃ (s : State) (p : Fin 32) (f : BitVec 64) (t0 : Nat) (a : Awaited) (pre rest : List Awaited), fnOut s (fnDrive p.val) = false ∧
      bits f.toNat 15 0 = crc16 48 (f.toNat / 65536) ∧ bits f.toNat 63 56 = 0x5C ∧ (portOf s p.val).expect = pre ++ a :: rest ∧
      (∀ b ∈ pre, b.seq ≠ a.seq) ∧ a.seq = BitVec.ofNat 8 (bits f.toNat 31 24) ∧ t0 ≤ frameEnd a.start + 1024) ∧
    (∃ (s : State) (p : Fin 32) (f : BitVec 64) (t0 : Nat), fnOut s (fnDrive p.val) = false ∧ bits f.toNat 15 0 = crc16 48 (f.toNat /
      65536) ∧ (∀ b ∈ (portOf s p.val).expect, b.seq ≠ BitVec.ofNat 8 (bits f.toNat 31 24) ∨ frameEnd b.start + 1024 < t0)) ∧
    (∃ (s : State) (p : Fin 32) (a : Awaited) (rest : List Awaited), (portOf s p.val).expect = a :: rest) ∧
    (∃ (s : State) (p : Fin 32) (w : Nat), (loopOf s p.val).defd = true ∧ s.wick.active = some w) ∧
    (∃ (s : State) (p : Fin 32), (loopOf s p.val).defd = false) ∧
    (∃ (s : State) (p : Fin 32) (w : Nat) (t0 : Nat), s.wick.active = some w ∧ (portOf s p.val).waitFirst = true ∧ (portOf s
      p.val).start + 4096 ≤ t0 ∧ fnOut s (fnDrive p.val) = false) :=
  ⟨⟨{ base with wick.loop := [(31, { capEnd := true, inj := some inj0 })] }, 31, inj0, rfl, rfl, ⟨rfl, rfl⟩⟩,
   ⟨{ base with wick.loop := [(31, { defd := true, cfg := { period := 8192, phase := 10 } })] }, 31, 0, 2000, by
     and_intros <;> decide +kernel⟩,
   ⟨base, 31, 0, rfl, by decide +kernel⟩,
   ⟨{ base with wick.port := [(31, { expect := [await_ 6, await_ 7] })] }, 31, statF, 1000, await_ 7, [await_ 6], [], rfl,
     by decide +kernel, by decide, rfl, by decide, by decide, by decide⟩,
   ⟨{ base with wick.port := [(31, { expect := [await_ 8] })] }, 31, statF, 1000, rfl, by decide +kernel, by decide⟩,
   ⟨{ base with wick.port := [(31, { expect := [await_ 8] })] }, 31, await_ 8, [], rfl⟩,
   ⟨{ base with wick.loop := [(31, { defd := true, cfg := { period := 8192, phase := 10 } })] }, 31, 0, rfl, rfl⟩,
   ⟨base, 31, rfl⟩,
   ⟨{ base with wick.port := [(31, { waitFirst := true })] }, 31, 0, 4096, rfl, rfl, by decide, rfl⟩⟩

theorem wit_CheckpointsAndFailover :
    (∃ (s : State) (w : Nat) (c : Nat), s.wick.active = some w ∧ c = s.wick.ckJ * s.wick.interval ∧ s.memInv) ∧
    (∃ (s : State), s.wick.active = none) ∧
    (∃ (s : State) (w : Nat), s.wick.fail = .fenced ∧ s.wick.active = none ∧ incoming s = some w) ∧
    (∃ (s : State), (s.wick.fail ≠ .fenced ∨ incoming s = none)) ∧
    (∃ (s : State) (w : Nat), s.wick.fail = .powered ∧ incoming s = some w) ∧
    (∃ (s : State) (w : Fin 2), (fnOf s (fnWick w.val)).testing = true ∧ (fnOf s (fnWick w.val)).renew = none) ∧
    (∃ (s : State) (w : Nat) (x : Nat), s.wick.active = some w ∧ s.wick.takeback = some x ∧ s.memInv) ∧
    (∃ (s : State), (s.wick.active = none ∨ s.wick.takeback = none)) :=
  ⟨⟨{ base with wick.ckJ := 2 }, 0, 409600, rfl, rfl, ⟨rfl, rfl⟩⟩,
   ⟨{ base with wick.active := none }, rfl⟩,
   ⟨{ base with wick.active := none, wick.fail := .fenced, wick.takeback := some 1 }, 1, rfl, rfl, rfl⟩,
   ⟨base, by decide⟩,
   ⟨{ base with wick.active := none, wick.fail := .powered, wick.takeback := some 1 }, 1, rfl, rfl⟩,
   ⟨{ base with fn := [(0x2D9, { testing := true })] }, 1, rfl, rfl⟩,
   ⟨{ base with wick.takeback := some 1 }, 0, 1, rfl, rfl, ⟨rfl, rfl⟩⟩,
   ⟨base, Or.inr rfl⟩⟩

theorem wit_PairedHubs :
    (∃ (s : State), s.wick.paired = true ∧ s.pwr.fwUp = true ∧ s.pwr.llTakeover = false) ∧
    (∃ (s : State), (s.wick.paired = false ∨ s.pwr.fwUp = false ∨ s.pwr.llTakeover = true)) ∧
    (∃ (s : State) (d : Dgram), s.wick.paired = true ∧ d.body.length = 32 ∧ rd d.body 0 1 = 0x20 ∧ rd d.body 1 1 = 4 ∧ rd
      d.body 2 1 = s.wick.pairKey ∧ rd d.body 6 2 = hubNo s ∧ rd d.body 4 2 = s.wick.partner.toNat ∧ hmacTag (keyOf s
      s.wick.pairKey) (d.body.take 16) = d.body.drop 16) ∧
    (∃ (s : State) (d : Dgram), hmacTag (keyOf s s.wick.pairKey) (d.body.take 16) ≠ d.body.drop 16) ∧
    (∃ (s : State) (t0 : Nat), s.wick.paired = true ∧ s.wick.pairLost = false ∧ s.wick.hbLast + 614400 ≤ t0) ∧
    (∃ (s : State) (t0 : Nat), s.wick.paired = true ∧ s.wick.pairLost = false ∧ t0 < s.wick.hbLast + 614400) :=
  ⟨⟨{ base with wick.paired := true }, rfl, rfl, rfl⟩,
   ⟨base, Or.inl rfl⟩,
   ⟨{ base with wick.paired := true, wick.partner := 1 }, beatD, rfl, beat_length, (beat_rd 0 1 (by omega)).trans rfl,
     (beat_rd 1 1 (by omega)).trans rfl, (beat_rd 2 1 (by omega)).trans rfl, (beat_rd 6 2 (by omega)).trans rfl, (beat_rd 4 2
     (by omega)).trans rfl, beat_tag⟩,
   ⟨base, { port := 0, body := [] }, hmacTag_ne _ _ _ (by decide)⟩,
   ⟨{ base with wick.paired := true, wick.hbLast := 5 }, 614405, rfl, rfl, by decide⟩,
   ⟨{ base with wick.paired := true, wick.hbLast := 5 }, 614404, rfl, rfl, by decide⟩⟩

theorem wit_PortsAndOwnAddresses :
    (∃ (s : State) (p : Fin 4), (netOf s p.val).mode ≠ 0) ∧
    (∃ (s : State) (p : Fin 4), (netOf s p.val).mode = 0) ∧
    (∃ (s : State) (p : Nat) (f : List Byte), p < 4 ∧ fnState s fnSwitch = .running ∧ (fnOf s fnSwitch).held = false ∧ (netOf s
      p).link = true ∧ portOut s p = false ∧ 8192 < f.length) ∧
    (∃ (s : State) (p : Nat) (f : List Byte) (ok : Bool), p < 4 ∧ fnState s fnSwitch = .running ∧ (fnOf s fnSwitch).held =
      false ∧ (netOf s p).link = true ∧ portOut s p = false ∧ (netOf s p).rxBuf + f.length ≤ 8192 ∧
      frameBad f (frameHdr f) ok = true) ∧
    (∃ (s : State) (p : Nat) (f : List Byte) (ok : Bool), p < 4 ∧ fnState s fnSwitch = .running ∧ (fnOf s fnSwitch).held =
      false ∧ (netOf s p).link = true ∧ portOut s p = false ∧ (netOf s p).rxBuf + f.length ≤ 8192 ∧
      frameBad f (frameHdr f) ok = false ∧ ringCtl s (frameHdr f) =
      false ∧ (netOf s p).blocked = true) ∧
    (∃ (s : State) (p : Nat) (f : List Byte) (ok : Bool), p < 4 ∧ fnState s fnSwitch = .running ∧ (fnOf s fnSwitch).held =
      false ∧ (netOf s p).link = true ∧ portOut s p = false ∧ (netOf s p).rxBuf + f.length ≤ 8192 ∧
      frameBad f (frameHdr f) ok = false ∧ ringCtl s (frameHdr f) =
      false ∧ (netOf s p).blocked = false) ∧
    (∃ (s : State) (f : List Byte) (k : Nat), fnState s fnSwitch = .running ∧ (fnOf s fnSwitch).held = false ∧ frameBad f (frameHdr
      f) true = false ∧ ringCtl s (frameHdr f) = false ∧ groupBit (frameHdr f).dst = true ∧ (frameHdr f).dst ≠ s.net.own.mac ∧ k < 4
      ∧ passes s k = true) ∧
    (∃ (s : State) (target : BitVec 32), lampServes s = true ∧ s.net.own.ipv4 ≠ 0 ∧ target = s.net.own.ipv4) ∧
    (∃ (s : State) (target : BitVec 32), (lampServes s = false ∨ s.net.own.ipv4 = 0 ∨ target ≠ s.net.own.ipv4)) ∧
    (∃ (s : State), lampServes s = true ∧ s.net.v6Usable = true ∧ s.net.own.ipv6 ≠ 0) ∧
    (∃ (s : State) (target : BitVec 128), (s.net.v6Usable = false ∨ target ≠ s.net.own.ipv6)) ∧
    (∃ (s : State), s.net.own.ipv6 ≠ 0) ∧
    (∃ (s : State) (v6 : Bool) (src : BitVec 128) (t0 : Nat), lampServes s = true ∧ onLink s src = true ∧ (if v6 then
      s.net.v6Usable = true else s.net.own.ipv4 ≠ 0) ∧ (s.net.icmpSec ≠ t0 / 204800000 ∨ s.net.icmpCnt < 100)) ∧
    (∃ (s : State) (v6 : Bool) (src : BitVec 128) (t0 : Nat), lampServes s = true ∧ onLink s src = true ∧ (if v6 then
      s.net.v6Usable = true else s.net.own.ipv4 ≠ 0) ∧ s.net.icmpSec = t0 / 204800000 ∧ 100 ≤ s.net.icmpCnt) :=
  ⟨⟨{ base with net.port := [(3, { mode := 1 })] }, 3, by decide⟩,
   ⟨base, 3, rfl⟩,
   ⟨{ base with net.port := [(3, { link := true })] }, 3, List.replicate 8193 0, by decide, rfl, rfl, rfl, rfl, by
     rw [List.length_replicate]; decide⟩,
   ⟨{ base with net.port := [(3, { link := true, rxBuf := 8192 })] }, 3, [], true, by
     and_intros <;> decide +kernel⟩,
   ⟨{ base with net.port := [(3, { link := true, blocked := true })] }, 3, List.replicate 64 0, true, by
     and_intros <;> decide +kernel⟩,
   ⟨{ base with net.port := [(3, { link := true, rxBuf := 8128 })] }, 3, List.replicate 64 0, true, by
     and_intros <;> decide +kernel⟩,
   ⟨{ base with net.port := [(3, { link := true })] }, List.replicate 64 1, 3, by
     and_intros <;> decide +kernel⟩,
   ⟨{ base with net.own.ipv4 := 0x0A000001 }, 0x0A000001, rfl, by decide, rfl⟩,
   ⟨base, 5, Or.inr (Or.inl rfl)⟩,
   ⟨{ base with net.own.ipv6 := 5, net.v6Usable := true }, rfl, rfl, by decide⟩,
   ⟨base, 5, Or.inl rfl⟩,
   ⟨{ base with net.own.ipv6 := 5 }, by decide⟩,
   ⟨{ base with net.v6Usable := true }, true, 0xFE800000000000000000000000000001, 204800000, rfl, by decide, by decide, by
     decide⟩,
   ⟨{ base with net.v6Usable := true, net.icmpSec := 1, net.icmpCnt := 100 }, true, 0xFE800000000000000000000000000001,
     204800000, rfl, by decide, by decide, rfl, by decide⟩⟩

theorem wit_RingProtection :
    (∃ (s : State), s.net.ring.configured = true ∧ s.net.ring.role = 1 ∧ lampServes s = true) ∧
    (∃ (s : State) (p : Fin 2) (f : RingFrame), s.net.ring.configured = true ∧ s.net.ring.role = 1 ∧ (netOf s p.val).holding
      = false ∧ lampServes s = true ∧ f.hub = hubNo s ∧ f.port ≠ p.val ∧ s.net.ring.broken = false) ∧
    (∃ (s : State) (p : Fin 2) (f : RingFrame), s.net.ring.configured = true ∧ s.net.ring.role = 1 ∧ (netOf s p.val).holding
      = false ∧ lampServes s = true ∧ f.hub = hubNo s ∧ f.port ≠ p.val ∧ s.net.ring.broken = true) ∧
    (∃ (s : State) (p : Fin 2) (f : RingFrame), s.net.ring.configured = true ∧ s.net.ring.role = 1 ∧ (netOf s p.val).holding
      = false ∧ lampServes s = true ∧ f.hub < hubNo s) ∧
    (∃ (s : State), s.net.ring.configured = true ∧ s.net.ring.role = 1 ∧ s.net.ring.broken = false ∧ lampServes s = true ∧ 3
      ≤ s.net.ring.out) ∧
    (∃ (s : State), s.net.ring.configured = true ∧ s.net.ring.role = 1 ∧ s.net.ring.broken = false ∧ lampServes s = true ∧
      s.net.ring.out < 3) ∧
    (∃ (s : State) (p : Fin 2) (f : RingFrame), s.net.ring.configured = true ∧ s.net.ring.role = 1 ∧ s.net.ring.broken =
      false ∧ lampServes s = true ∧ (netOf s p.val).holding = false ∧ f.hub ≠ hubNo s) ∧
    (∃ (s : State) (p : Fin 2), s.net.ring.configured = true ∧ s.net.ring.role = 0 ∧ (netOf s p.val).los = true) ∧
    (∃ (s : State) (p : Fin 2) (f : RingFrame), s.net.ring.configured = true ∧ (netOf s p.val).holding = false ∧ f.hub ≠
      hubNo s) ∧
    (∃ (s : State) (p : Fin 2), (netOf s p.val).link = true) ∧
    (∃ (s : State) (p : Fin 2), (netOf s p.val).link = false) :=
  ⟨⟨{ base with net.ring := { configured := true, role := 1 } }, rfl, rfl, rfl⟩,
   ⟨{ base with net.ring := { configured := true, role := 1 } }, 0, { port := 1, hub := 0, seq := 3 }, by
     and_intros <;> decide +kernel⟩,
   ⟨{ base with net.ring := { configured := true, role := 1, broken := true } }, 0, { port := 1, hub := 0, seq := 3 }, by
     and_intros <;> decide +kernel⟩,
   ⟨{ base with net.ring := { configured := true, role := 1 }, pwr.hub := 3 }, 0, { port := 1, hub := 0, seq := 3 }, rfl,
     rfl, rfl, rfl, by decide⟩,
   ⟨{ base with net.ring := { configured := true, role := 1, out := 3 } }, rfl, rfl, rfl, rfl, by decide⟩,
   ⟨{ base with net.ring := { configured := true, role := 1, out := 2 } }, rfl, rfl, rfl, rfl, by decide⟩,
   ⟨{ base with net.ring := { configured := true, role := 1 } }, 1, { port := 1, hub := 7, seq := 3 }, rfl, rfl, rfl, rfl,
     rfl, by decide⟩,
   ⟨{ base with net.ring := { configured := true, role := 0 }, net.port := [(1, { los := true })] }, 1, rfl, rfl, rfl⟩,
   ⟨{ base with net.ring := { configured := true, role := 1 } }, 1, { port := 1, hub := 7, seq := 3 }, rfl, rfl, by decide⟩,
   ⟨{ base with net.port := [(1, { link := true })] }, 1, rfl⟩,
   ⟨base, 1, rfl⟩⟩

theorem wit_CrierNotices :
    (∃ (s : State) (r : Fin 2) (port : Nat) (a : BitVec 128), lampServes s = true ∧ collDest s r.val = some (a, port) ∧
      (ntqOf s (r.val + 2)).hidden = false ∧ readOrder 8 (ntqOf s (r.val + 2)).chain ≠ [] ∧ (collOf s r.val).outst = none) ∧
    (∃ (s : State) (r : Fin 2), (lampServes s = false ∨ (collOf s r.val).outst.isSome = true ∨ (ntqOf s (r.val + 2)).chain =
      [])) ∧
    (∃ (s : State) (r : Fin 2) (t0 : Nat) (port : Nat) (a : BitVec 128) (o : OutNotice), lampServes s = true ∧ collDest s
      r.val = some (a, port) ∧ (collOf s r.val).outst = some o ∧ o.sent + 4096000 ≤ t0) ∧
    (∃ (s : State) (r : Fin 2) (t0 : Nat) (port : Nat) (a : BitVec 128) (o : OutNotice), lampServes s = true ∧ collDest s
      r.val = some (a, port) ∧ (collOf s r.val).outst = some o ∧ t0 < o.sent + 4096000) ∧
    (∃ (s : State) (d : Dgram) (r : Nat) (o : OutNotice), lampServes s = true ∧ (encapCheck d s).1 = some r ∧ (collOf s
      r).outst = some o ∧ rd d.body 0 1 = 0x33 ∧ rd (encapBody d) 0 8 = o.counter) ∧
    (∃ (s : State) (d : Dgram), lampServes s = true ∧ hmacTag (keyOf s (rd d.body 2 1)) (d.body.take (24 + rd d.body 6 2)) ≠
      d.body.drop (24 + rd d.body 6 2)) ∧
    (∃ (s : State) (q : Fin 4) (n : Notice), (ntqOf s q.val).hidden = false ∧ oldestOf (ntqOf s q.val).chain = some n) ∧
    (∃ (s : State) (q : Fin 4), ((ntqOf s q.val).hidden = true ∨ (ntqOf s q.val).chain = [])) ∧
    (∃ (s : State) (q : Fin 4) (n : Notice), q.val < 2 ∧ (ntqOf s q.val).latch = some n) ∧
    (∃ (s : State) (q : Fin 4) (pk : Nat), q.val < 2 ∧ (ntqOf s q.val).lastCont = some pk) ∧
    (∃ (q : Fin 4), 2 ≤ q.val) :=
  ⟨⟨{ base with net.coll := [(1, { cfg := { addr := onA, udpPort := 5 } })], ntq := [(3, { chain := [ntc] })] }, 1, 5, onA, rfl,
    by decide +kernel, rfl, nofun, rfl⟩,
   ⟨base, 1, Or.inr (Or.inr rfl)⟩,
   ⟨{ base with net.coll := [(1, { cfg := { addr := onA, udpPort := 5 }, outst := some outN })] }, 1, 4096100, 5, onA, outN, rfl,
     by decide +kernel, rfl, by decide⟩,
   ⟨{ base with net.coll := [(1, { cfg := { addr := onA, udpPort := 5 }, outst := some outN })] }, 1, 4096099, 5, onA, outN, rfl,
     by decide +kernel, rfl, by decide⟩,
   ⟨{ base with net.coll := [(0, { outst := some outN })] }, encD 0x33 (le 8 1), 0, outN, rfl, encD_ok _ _ rfl rfl rfl rfl
     rfl rfl, rfl, (encD_rd _ _ 0 1 (by omega)).trans rfl, (by rw [encD_body _ _ rfl]; rfl)⟩,
   ⟨base, { port := 0, body := [] }, rfl, hmacTag_ne _ _ _ (by decide)⟩,
   ⟨{ base with ntq := [(3, { chain := [ntc] })] }, 3, ntc, rfl, rfl⟩,
   ⟨base, 3, Or.inr rfl⟩,
   ⟨{ base with ntq := [(1, { latch := some ntc })] }, 1, ntc, by decide, rfl⟩,
   ⟨{ base with ntq := [(1, { lastCont := some 4 })] }, 1, 4, by decide, rfl⟩,
   ⟨3, by decide⟩⟩

theorem wit_CalibrationSessions :
    (∃ (s : State) (b : Fin 16) (k : Nat) (w : Nat) (x : Session), bankSess s b.val = some (k, x) ∧ inMatch x.phase = true ∧
      x.winFrom = some w ∧ w + x.nMatch ≤ x.seenChan ∧ w + x.nMatch ≤ x.seenSpare ∧ x.nMatch ≤ 2 * (windowDiffs x w).length ∧
      windowPasses x (meanSd (windowDiffs x w)) = true) ∧
    (∃ (s : State) (b : Fin 16) (k : Nat) (w : Nat) (x : Session), bankSess s b.val = some (k, x) ∧ inMatch x.phase = true ∧
      x.winFrom = some w ∧ w + x.nMatch ≤ x.seenChan ∧ w + x.nMatch ≤ x.seenSpare ∧ (2 * (windowDiffs x w).length < x.nMatch
      ∨ windowPasses x (meanSd (windowDiffs x w)) = false) ∧ x.windows ≠ 7) ∧
    (∃ (s : State) (b : Fin 16) (k : Nat) (w : Nat) (x : Session), bankSess s b.val = some (k, x) ∧ inMatch x.phase = true ∧
      x.winFrom = some w ∧ w + x.nMatch ≤ x.seenChan ∧ w + x.nMatch ≤ x.seenSpare ∧ (2 * (windowDiffs x w).length < x.nMatch
      ∨ windowPasses x (meanSd (windowDiffs x w)) = false) ∧ x.windows = 7 ∧ x.forFunc = none ∧ k < 512 ∧ x.phase =
      .overlapOut) ∧
    (∃ (s : State) (b : Fin 16) (k : Nat) (w : Nat) (x : Session), bankSess s b.val = some (k, x) ∧ inMatch x.phase = true ∧
      x.winFrom = some w ∧ w + x.nMatch ≤ x.seenChan ∧ w + x.nMatch ≤ x.seenSpare ∧ (2 * (windowDiffs x w).length < x.nMatch
      ∨ windowPasses x (meanSd (windowDiffs x w)) = false) ∧ x.windows = 7 ∧ x.forFunc = none ∧ k < 512 ∧ x.phase =
      .overlapBack) ∧
    (∃ (s : State) (b : Fin 16) (k : Nat) (w : Nat) (x : Session), bankSess s b.val = some (k, x) ∧ x.winFrom = some w ∧
      (x.seenChan < w + x.nMatch ∨ x.seenSpare < w + x.nMatch ∨ inMatch x.phase = false)) ∧
    (∃ (s : State) (b : Fin 16) (k : Nat) (n : Nat) (x : Session), bankSess s b.val = some (k, x) ∧ n = n0 s.tb.tick
      (rateRefs (chanOf s k).rate) ∧ x.phase = .switchOut) ∧
    (∃ (s : State) (b : Fin 16) (k : Nat) (n : Nat) (x : Session), bankSess s b.val = some (k, x) ∧ n = n0 s.tb.tick
      (rateRefs (chanOf s k).rate) ∧ x.phase = .switchBack) ∧
    (∃ (s : State) (b : Fin 16) (k : Nat) (n : Nat) (x : Session), bankSess s b.val = some (k, x) ∧ n = n0 s.tb.tick
      (rateRefs (chanOf s k).rate) ∧ x.phase ≠ .switchOut ∧ x.phase ≠ .switchBack) ∧
    (∃ (s : State) (b : Fin 16) (k : Nat) (x : Session), bankSess s b.val = some (k, x) ∧ k < 512 ∧ x.forFunc = none ∧
      s.tb.tick * 1048576 < parkFrom s k x.swIndex) ∧
    (∃ (s : State) (b : Fin 16) (k : Nat) (x : Session), bankSess s b.val = some (k, x) ∧ k < 512 ∧ x.forFunc = none ∧
      parkFrom s k x.swIndex ≤ s.tb.tick * 1048576 ∧ x.phase = .parking ∧ x.legacy = false) ∧
    (∃ (s : State) (b : Fin 16) (k : Nat) (x : Session), bankSess s b.val = some (k, x) ∧ k < 512 ∧ x.forFunc = none ∧
      parkFrom s k x.swIndex ≤ s.tb.tick * 1048576 ∧ x.phase = .parkBack) ∧
    (∃ (s : State) (u : Fin 20) (k : Nat) (x : Session) (p : CalPoint), unitSess s u.val = some (k, x) ∧ x.points.find? (fun
      p => !p.done) = some p ∧ p.m ≤ p.vals.length) ∧
    (∃ (s : State) (u : Fin 20) (k : Nat) (x : Session) (p : CalPoint), unitSess s u.val = some (k, x) ∧ x.points.find? (fun
      p => !p.done) = some p ∧ p.vals.length < p.m ∧ 4 * p.m ≤ p.seen) ∧
    (∃ (s : State) (u : Fin 20) (k : Nat) (x : Session) (p : CalPoint), unitSess s u.val = some (k, x) ∧ x.points.find? (fun
      p => !p.done) = some p ∧ p.vals.length < p.m ∧ p.seen < 4 * p.m) :=
  ⟨⟨calS sessP, 15, 511, 0, sessP, by
     and_intros <;> decide +kernel⟩,
   ⟨calS sess0, 15, 511, 0, sess0, rfl, rfl, rfl, by decide, by decide, Or.inl (by decide), by decide⟩,
   ⟨calS (sessF .overlapOut 7), 15, 511, 0, sessF .overlapOut 7, rfl, rfl, rfl, by decide, by decide, Or.inl (by decide),
     rfl, rfl, by decide, rfl⟩,
   ⟨calS (sessF .overlapBack 7), 15, 511, 0, sessF .overlapBack 7, rfl, rfl, rfl, by decide, by decide, Or.inl (by decide),
     rfl, rfl, by decide, rfl⟩,
   ⟨calS { sess0 with seenSpare := 1 }, 15, 511, 0, { sess0 with seenSpare := 1 }, rfl, rfl, Or.inr (Or.inl (by decide))⟩,
   ⟨calS (sessF .switchOut 0), 15, 511, 0, sessF .switchOut 0, rfl, rfl, rfl⟩,
   ⟨calS (sessF .switchBack 0), 15, 511, 0, sessF .switchBack 0, rfl, rfl, rfl⟩,
   ⟨calS (sessF .parking 0), 15, 511, 0, sessF .parking 0, rfl, rfl, by decide, by decide⟩,
   ⟨calS { sessF .parking 0 with swIndex := 9 }, 15, 511, { sessF .parking 0 with swIndex := 9 }, rfl, by decide, rfl, by
     decide⟩,
   ⟨{ calS (sessF .parking 0) with tb.tick := 1 }, 15, 511, sessF .parking 0, rfl, by decide, rfl, by decide, rfl, rfl⟩,
   ⟨{ calS (sessF .parkBack 0) with tb.tick := 1 }, 15, 511, sessF .parkBack 0, rfl, by decide, rfl, by decide, rfl⟩,
   ⟨{ base with cal.sess := [(0x277, { sess0 with points := [{ pt with vals := [5, 6] }] })] }, 19, 0x277, { sess0 with points := [{ pt with vals := [5, 6] }] },
     { pt with vals := [5, 6] }, rfl, rfl, by decide⟩,
   ⟨{ base with cal.sess := [(0x277, { sess0 with points := [{ pt with seen := 8 }] })] }, 19, 0x277, { sess0 with points := [{ pt with seen := 8 }] },
     { pt with seen := 8 }, rfl, rfl, by decide, by decide⟩,
   ⟨{ base with cal.sess := [(0x277, { sess0 with points := [pt] })] }, 19, 0x277, { sess0 with points := [pt] }, pt, rfl,
     rfl, by decide, by decide⟩⟩

theorem wit_CalibrationStore :
    (∃ (s : State), s.cal.writes = []) ∧
    (∃ (s : State) (w : StoreWrite) (rest : List StoreWrite), s.cal.writes = w :: rest ∧ (s.pwr.pwrfail = true ∨ ∃ x ∈
      s.cal.stored, x.page = w.page)) ∧
    (∃ (s : State) (a : Bool) (b : Bool) (w : StoreWrite) (rest : List StoreWrite), s.cal.writes = w :: rest ∧ (∀ x ∈
      s.cal.stored, x.page ≠ w.page) ∧ s.pwr.pwrfail = false ∧ fnOut s 0x2F2 = false ∧ s.memInv ∧ (a || b) = true) ∧
    (∃ (s : State) (a : Bool) (b : Bool) (w : StoreWrite) (rest : List StoreWrite), s.cal.writes = w :: rest ∧ (∀ x ∈
      s.cal.stored, x.page ≠ w.page) ∧ s.pwr.pwrfail = false ∧ fnOut s 0x2F2 = false ∧ s.memInv ∧ (a || b) = false) ∧
    (∃ (s : State), (∀ w ∈ s.cal.stored, s.tb.tick < w.tick)) ∧
    (∃ (s : State) (w : StoredPage), s.cal.stored = [w] ∧ w.tick ≤ s.tb.tick) :=
  ⟨⟨base, rfl⟩,
   ⟨{ base with cal.writes := [store0], cal.stored := [page0] }, store0, [], rfl, Or.inr ⟨page0, List.mem_singleton.2 rfl, rfl⟩⟩,
   ⟨{ base with cal.writes := [store0], cal.stored := [{ page0 with page := 4 }] }, false, true, store0, [], rfl, by decide, rfl,
     rfl, ⟨rfl, rfl⟩, rfl⟩,
   ⟨{ base with cal.writes := [store0] }, false, false, store0, [], rfl, nofun, rfl, rfl, ⟨rfl, rfl⟩, rfl⟩,
   ⟨{ base with cal.stored := [{ page0 with tick := 1 }] }, by decide⟩,
   ⟨{ base with cal.stored := [page0] }, page0, rfl, by decide⟩⟩

theorem wit_TickBoundary :
    (∃ (s : State), s.pwr.porn = false) ∧
    (∃ (s : State) (g : Staged), s.pwr.porn = true ∧ s.mbx.staged = [g] ∧ isLedgerClear g.cmd = false ∧ s.tb.tick + 1 <
      g.tick ∧ s.tb.leave = false ∧ s.tb.act = .none) ∧
    (∃ (s : State) (g : Staged), s.pwr.porn = true ∧ s.mbx.staged = [g] ∧ isLedgerClear g.cmd = false ∧ g.tick ≤ s.tb.tick +
      1) ∧
    (∃ (s : State), s.pwr.porn = true ∧ s.pwr.memReady = true ∧ s.mbx.staged = [] ∧ s.tb.leave = false ∧ s.tb.act = .none) :=
  ⟨⟨{ base with pwr.porn := false }, rfl⟩,
   ⟨{ base with mbx.staged := [stg 2] }, stg 2, rfl, rfl, rfl, by decide, rfl, rfl⟩,
   ⟨{ base with mbx.staged := [stg 1] }, stg 1, rfl, rfl, rfl, by decide⟩,
   ⟨base, rfl, rfl, rfl, rfl, rfl⟩⟩

theorem wit_MailboxEvents :
    (∃ (r : Requester) (m : Fin 8), r ≠ ownerOf m.val) ∧
    (∃ (s : State), (s.pwr.fwUp = false ∨ s.pwr.pwrfail = true)) ∧
    (∃ (s : State) (m : Fin 8), s.pwr.fwUp = true ∧ s.pwr.pwrfail = false ∧ (boxOf s m.val).busy = true) ∧
    (∃ (s : State) (m : Fin 8) (q : Taken), s.pwr.fwUp = true ∧ s.pwr.pwrfail = false ∧ (boxOf s m.val).busy = false ∧ q =
      takenOf m (boxOf s m.val).req) ∧
    (∃ (s : State) (d : Dgram), (s.pwr.fwUp = false ∨ s.pwr.pwrfail = true ∨ rd d.body 0 1 ≠ 0x30)) ∧
    (∃ (s : State) (d : Dgram), s.pwr.fwUp = true ∧ s.pwr.pwrfail = false ∧ rd d.body 0 1 = 0x30 ∧ s.pwr.llTakeover = true) ∧
    (∃ (s : State) (d : Dgram), s.pwr.fwUp = true ∧ s.pwr.pwrfail = false ∧ rd d.body 0 1 = 0x30 ∧ s.pwr.llTakeover = false ∧
      hmacTag (keyOf s (rd d.body 2 1)) (d.body.take (24 + rd d.body 6 2)) ≠ d.body.drop (24 + rd d.body 6 2)) ∧
    (∃ (s : State) (d : Dgram) (role : Nat) (q : Taken) (i : OpInfo), s.pwr.fwUp = true ∧ s.pwr.pwrfail = false ∧ rd d.body 0
      1 = 0x30 ∧ s.pwr.llTakeover = false ∧ (encapCheck d s).1 = some role ∧ role < 2 ∧ q = takenOf (if role = 0 then 6 else
      7) (padTo 256 (encapBody d)) ∧ (boxOf s (6 + role)).busy = false ∧ (∀ e ∈ (boxOf s (6 + role)).log, e.req.hdr.seq ≠
      q.hdr.seq) ∧ opInfo q.opcode = some i ∧ headBad i q.hdr q.pay = none ∧ bit (protOf s (protEntry s (6 +
      role))).classes.toNat i.cls = true) :=
  ⟨⟨.pcie, 4, by decide⟩,
   ⟨State.reset, Or.inl rfl⟩,
   ⟨{ base with mbx.box := [(7, { busy := true })] }, 7, rfl, rfl, rfl⟩,
   ⟨base, 7, takenOf 7 (boxOf base 7).req, rfl, rfl, rfl, rfl⟩,
   ⟨base, { port := 0, body := [] }, Or.inr (Or.inr (by decide))⟩,
   ⟨{ base with pwr.llTakeover := true }, { port := 0, body := [0x30] }, rfl, rfl, rfl, rfl⟩,
   ⟨base, { port := 0, body := [0x30] }, rfl, rfl, rfl, rfl, hmacTag_ne _ _ _ (by decide)⟩,
   ⟨base, encD 0x30 nopB, 0, takenOf 6 (padTo 256 nopB), { op := 0x0103, cls := 0, lo := 0, hi := 0 }, rfl, rfl, (encD_rd _ _
     0 1 (by omega)).trans rfl, rfl, encD_ok _ _ rfl rfl rfl rfl rfl rfl, by decide, (by rw [encD_body _ _ rfl]; rfl), rfl,
     nofun, rfl, by decide, rfl⟩⟩

theorem wit_ObservingCommands :
    (∃ (s : State) (h : ReqHdr) (p : List Byte) (n : Nat) (k : Nat) (b : BootBlk), Spec.taken 0x0101 h p (some n) s ∧ s.pwr.boot =
      some b ∧ s.pwr.fwRun = some k) ∧
    (∃ (s : State) (h : ReqHdr) (p : List Byte) (n : Nat) (e : Prot), Spec.taken 0x0102 h p (some n) s ∧ e = protOf s (protEntry s
      h.mbx.val)) ∧
    (∃ (s : State) (h : ReqHdr) (p : List Byte) (n : Nat), Spec.taken 0x0103 h p (some n) s) ∧
    (∃ (s : State) (h : ReqHdr) (p : List Byte) (n : Nat) (a : AuxConv), Spec.taken 0x0212 h p (some n) s ∧ rd p 0 1 ≤ 3 ∧ a = auxOf
      s (rd p 0 1)) ∧
    (∃ (s : State) (h : ReqHdr) (p : List Byte) (n : Nat) (d : LinDesc), Spec.taken 0x0221 h p (some n) s ∧ rd p 0 2 ≤ 511 ∧ d =
      linOf s (rd p 0 2)) ∧
    (∃ (s : State) (h : ReqHdr) (p : List Byte) (n : Nat), Spec.taken 0x0317 h p (some n) s ∧ isTarget (rd p 0 2) = true ∧ rd p 2 1
      ≤ 63 ∧ sessOf s (rd p 0 2) = none) ∧
    (∃ (s : State) (h : ReqHdr) (p : List Byte) (n : Nat) (x : Session), Spec.taken 0x0317 h p (some n) s ∧ isTarget (rd p 0 2) =
      true ∧ rd p 2 1 ≤ 63 ∧ sessOf s (rd p 0 2) = some x ∧ heldPoints x = []) ∧
    (∃ (s : State) (h : ReqHdr) (p : List Byte) (n : Nat) (u : Nat × Nat × Nat), Spec.taken 0x0318 h p (some n) s ∧ rd p 0 1 ≤ 15 ∧
      u = tget s.cal.inUse (rd p 0 1) (0, 0, 0)) ∧
    (∃ (s : State) (h : ReqHdr) (p : List Byte) (n : Nat), Spec.taken 0x040A h p (some n) s ∧ rd p 0 1 ≤ 1 ∧ 0 < rd p 4 1 ∧ rd p 1 1
      = 0 ∧ rd p 4 1 ≤ 64 ∧ rd p 2 2 + rd p 4 1 ≤ 16384) ∧
    (∃ (s : State) (h : ReqHdr) (p : List Byte) (n : Nat), Spec.taken 0x040A h p (some n) s ∧ rd p 0 1 ≤ 1 ∧ 0 < rd p 4 1 ∧ rd p 1 1
      = 1 ∧ rd p 4 1 ≤ 28 ∧ rd p 2 2 + rd p 4 1 ≤ 576) ∧
    (∃ (s : State) (h : ReqHdr) (p : List Byte) (n : Nat) (k : Nat) (c : StreamDef), Spec.taken 0x0505 h p (some n) s ∧ rd p 0 1 ≤
      63 ∧ (strOf s (rd p 0 1)).defd = true ∧ c = (strOf s (rd p 0 1)).cfg ∧ k = rd p 1 1 ∧ k < 1 + cdiv (c.chans - 96) 118) ∧
    (∃ (s : State) (h : ReqHdr) (p : List Byte) (n : Nat) (b : Nat) (c : PhysBank), Spec.taken 0x0541 h p (some n) s ∧ rd p 0 1 ≤ 33
      ∧ c = tget s.rm.bankCnt (rd p 0 1) {} ∧ s.rm.sparePhys ≠ some (rd p 0 1) ∧ logOf s (rd p 0 1) = some b) ∧
    (∃ (s : State) (h : ReqHdr) (p : List Byte) (n : Nat) (x : Group), Spec.taken 0x0606 h p (some n) s ∧ rd p 0 1 ≤ 7 ∧ x = grpOf s
      (rd p 0 1) ∧ rd p 1 1 = 0) ∧
    (∃ (s : State) (h : ReqHdr) (p : List Byte) (n : Nat) (x : Group), Spec.taken 0x0606 h p (some n) s ∧ rd p 0 1 ≤ 7 ∧ x = grpOf s
      (rd p 0 1) ∧ 0 < rd p 1 1 ∧ 240 * (rd p 1 1 - 1) < x.cfg.bytes.length) ∧
    (∃ (s : State) (h : ReqHdr) (p : List Byte) (n : Nat) (rs : List Record), Spec.taken 0x0607 h p (some n) s ∧ rd p 0 1 ≤ 7 ∧ rs =
      ((grpOf s (rd p 0 1)).recs.filter fun x => x.complete && decide (rd p 4 4 ≤ x.no.toNat)).take 19) :=
  ⟨⟨{ base with pwr.boot := some bootBlk, pwr.fwRun := some 0 }, hdr 0, [], 1, 0, bootBlk, taken_of (by decide +kernel), rfl,
    rfl⟩,
   ⟨base, hdr 0, [], 1, protOf base 0, taken_of (by decide +kernel), rfl⟩,
   ⟨base, hdr 0, [], 1, taken_of (by decide +kernel)⟩,
   ⟨base, hdr 4, [3, 0, 0, 0], 1, auxOf base 3, taken_of (by decide +kernel), by decide, rfl⟩,
   ⟨base, hdr 2, [255, 1], 1, linOf base 511, taken_of (by decide +kernel), by decide, rfl⟩,
   ⟨base, hdr 4, [15, 2, 63, 0], 1, taken_of (by decide +kernel), rfl, by decide, rfl⟩,
   ⟨{ base with cal.sess := [(527, sess0)] }, hdr 4, [15, 2, 63, 0], 1, sess0, taken_of (by decide +kernel), rfl, by decide,
     rfl, rfl⟩,
   ⟨base, hdr 4, [15, 0, 0, 0], 1, (0, 0, 0), taken_of (by decide +kernel), by decide, rfl⟩,
   ⟨base, hdr 8, [1, 0, 192, 63, 64, 0, 0, 0], 1, taken_of (by decide +kernel), by decide, by decide, rfl, by decide, by
     decide⟩,
   ⟨base, hdr 8, [1, 1, 36, 2, 28, 0, 0, 0], 1, taken_of (by decide +kernel), by decide, by decide, rfl, by decide, by decide⟩,
   ⟨{ base with str.s := [(63, { defd := true, cfg := { slots := List.range 96 } })] }, hdr 4, [63, 0, 0, 0], 1, 0, { slots := List.range 96 },
     taken_of (by decide +kernel), by decide, rfl, rfl, rfl, by decide⟩,
   ⟨base, hdr 4, [31, 0, 0, 0], 1, 31, {}, taken_of (by decide +kernel), by decide, rfl, by decide, rfl⟩,
   ⟨base, hdr 4, [7, 0, 0, 0], 1, {}, taken_of (by decide +kernel), by decide, rfl, rfl⟩,
   ⟨{ base with trg.grp := [(7, { cfg := { bytes := [1] } })] }, hdr 4, [7, 1, 0, 0], 1, { cfg := { bytes := [1] } },
     taken_of (by decide +kernel), by decide, rfl, by decide, by decide⟩,
   ⟨base, hdr 8, ([7] ++ zeros 7), 1, [], taken_of (by decide +kernel), by decide, by decide⟩⟩

theorem wit_StatusCommands :
    (∃ (s : State) (h : ReqHdr) (p : List Byte) (n : Nat) (q : Nat) (y : Nat) (a : AnnounceData), Spec.taken 0x0701 h p (some n) s ∧
      s.tb.parent = some (q, a) ∧ s.tb.synceSel = some y) ∧
    (∃ (s : State) (h : ReqHdr) (p : List Byte) (n : Nat) (b : Nat), Spec.taken 0x0805 h p (some n) s ∧ rd p 0 1 ≤ 31 ∧ (loopOf s
      (rd p 0 1)).tuned = some b ∧ rd p 1 1 = 0) ∧
    (∃ (s : State) (h : ReqHdr) (p : List Byte) (n : Nat) (b : Nat), Spec.taken 0x0805 h p (some n) s ∧ rd p 0 1 ≤ 31 ∧ (loopOf s
      (rd p 0 1)).tuned = some b ∧ rd p 1 1 = 1) ∧
    (∃ (s : State) (h : ReqHdr) (p : List Byte) (n : Nat), Spec.taken 0x0806 h p (some n) s ∧ rd p 0 1 ≤ 31) ∧
    (∃ (s : State) (h : ReqHdr) (p : List Byte) (n : Nat) (w : Nat), Spec.taken 0x0811 h p (some n) s ∧ s.wick.active = some w) ∧
    (∃ (s : State) (h : ReqHdr) (p : List Byte) (n : Nat) (d : DrivePort), Spec.taken 0x0813 h p (some n) s ∧ rd p 0 1 ≤ 31 ∧ d =
      portOf s (rd p 0 1)) ∧
    (∃ (s : State) (h : ReqHdr) (p : List Byte) (n : Nat), Spec.taken 0x0904 h p (some n) s) ∧
    (∃ (s : State) (h : ReqHdr) (p : List Byte) (n : Nat), Spec.taken 0x0A04 h p (some n) s ∧ fnExists h.func.toNat = true ∧ 0 < rd
      p 0 2 ∧ rd p 0 2 ≤ 60) ∧
    (∃ (s : State) (h : ReqHdr) (p : List Byte) (n : Nat), Spec.taken 0x0B01 h p (some n) s) ∧
    (∃ (s : State) (h : ReqHdr) (p : List Byte) (n : Nat) (b : MonBank), Spec.taken 0x0C02 h p (some n) s ∧ rd p 0 1 < 32 ∧ b =
      (monOf s (rd p 0 1)).snap) ∧
    (∃ (s : State) (h : ReqHdr) (p : List Byte) (n : Nat) (b : MonBank), Spec.taken 0x0C02 h p (some n) s ∧ 128 ≤ rd p 0 1 ∧ rd p 0
      1 < 160 ∧ b = (monOf s (rd p 0 1 - 128)).snap) ∧
    (∃ (s : State) (h : ReqHdr) (p : List Byte) (n : Nat) (x : NetPort), Spec.taken 0x0D05 h p (some n) s ∧ rd p 0 1 ≤ 3 ∧ x = netOf
      s (rd p 0 1)) ∧
    (∃ (s : State) (h : ReqHdr) (p : List Byte) (n : Nat) (k : Nat) (b : BootBlk), Spec.taken 0x0F01 h p (some n) s ∧ s.pwr.boot =
      some b ∧ s.pwr.fwRun = some k) ∧
    (∃ (s : State) (h : ReqHdr) (p : List Byte) (n : Nat), Spec.taken 0x0F20 h p (some n) s ∧ fnExists h.func.toNat = true) :=
  ⟨⟨{ base with tb.parent := some (2, master), tb.synceSel := some 3 }, hdr 0, [], 1, 2, 3, master, taken_of (by
    decide +kernel), rfl, rfl⟩,
   ⟨{ base with wick.loop := [(31, { tuned := some 64 })] }, hdr 4, [31, 0, 0, 0], 1, 64, taken_of (by decide +kernel), by
     decide, rfl, rfl⟩,
   ⟨{ base with wick.loop := [(31, { tuned := some 64 })] }, hdr 4, [31, 1, 0, 0], 1, 64, taken_of (by decide +kernel), by
     decide, rfl, rfl⟩,
   ⟨base, hdr 4, [31, 0, 0, 0], 1, taken_of (by decide +kernel), by decide⟩,
   ⟨base, hdr 0, [], 1, 0, taken_of (by decide +kernel), rfl⟩,
   ⟨base, hdr 4, [31, 0, 0, 0], 1, {}, taken_of (by decide +kernel), by decide, rfl⟩,
   ⟨base, hdr 0, [], 1, taken_of (by decide +kernel)⟩,
   ⟨base, hdr 4 (func := 0x3F0), [60, 0, 0, 0], 1, taken_of (by decide +kernel), rfl, by decide, by decide⟩,
   ⟨base, hdr 0, [], 1, taken_of (by decide +kernel)⟩,
   ⟨base, hdr 4, [31, 0, 0, 0], 1, {}, taken_of (by decide +kernel), by decide, rfl⟩,
   ⟨base, hdr 4, [159, 0, 0, 0], 1, {}, taken_of (by decide +kernel), by decide, by decide, rfl⟩,
   ⟨base, hdr 4, [3, 0, 0, 0], 1, {}, taken_of (by decide +kernel), by decide, rfl⟩,
   ⟨{ base with pwr.boot := some bootBlk, pwr.fwRun := some 0 }, hdr 0, [], 1, 0, bootBlk, taken_of (by decide +kernel), rfl,
     rfl⟩,
   ⟨base, hdr 0 (func := 0x3F0), [], 1, taken_of (by decide +kernel), rfl⟩⟩

theorem wit_FrontEndCommands :
    (∃ (s : State) (h : ReqHdr) (p : List Byte) (n : Nat) (k : Nat), Spec.ready 0x0201 h p n s ∧ k = rd p 0 2 ∧ k ≤ 543 ∧ rd
      p 2 1 ≤ 1 ∧ rd p 3 1 ≤ 7 ∧ rd p 4 1 ≤ 1 ∧ (528 ≤ k → rd p 3 1 = 0 ∧ rd p 4 1 = 0) ∧ (rd p 2 1 = 0 → (chanOf s
      k).enabled = true → streamCarries s k = false ∧ usesSlot s k = false)) ∧
    (∃ (s : State) (h : ReqHdr) (p : List Byte) (n : Nat) (c : Nat), Spec.ready 0x0204 h p n s ∧ c = rd p 0 1 ∧ c ≤ 15 ∧ rd p
      1 1 ≤ 2 ∧ rd p 2 1 ≤ 1) ∧
    (∃ (s : State) (h : ReqHdr) (p : List Byte) (n : Nat) (c : Nat), Spec.ready 0x0205 h p n s ∧ c = rd p 0 1 ∧ c ≤ 15 ∧ rd p
      1 1 ≤ 1 ∧ rd p 2 1 ≤ 2 ∧ rd p 4 2 ≤ 4095) ∧
    (∃ (s : State) (h : ReqHdr) (p : List Byte) (n : Nat) (g : Nat), Spec.ready 0x0208 h p n s ∧ g = rd p 0 1 ∧ g ≤ 127 ∧ rd
      p 1 1 ≤ 3 ∧ rd p 2 1 ≤ 1 ∧ (rd p 1 1 = 1 → 500 ≤ rd p 4 4 ∧ rd p 4 4 ≤ 10000) ∧ (rd p 1 1 = 2 → 1000 ≤ rd p 4 4 ∧ rd p
      4 4 ≤ 1000000) ∧ (rd p 1 1 = 3 → rd p 4 4 = 2 ∨ rd p 4 4 = 4 ∨ rd p 4 4 = 8) ∧ (rd p 8 4 = 0 ∨ 10 ≤ rd p 8 4 ∧ rd p 8 4
      ≤ 1000)) ∧
    (∃ (s : State) (h : ReqHdr) (p : List Byte) (n : Nat) (b : Nat) (f : Nat) (j : Nat), Spec.ready 0x020C h p n s ∧ b = rd p
      0 1 ∧ f = rd p 1 1 ∧ b ≤ 15 ∧ f ≤ 32 ∧ rd p 2 1 ≤ 3 ∧ (f = 32 → rd p 2 1 ≠ 0) ∧ (f ≠ 32 → rd p 2 1 ≠ 3) ∧ rd p 3 1 ≤ 31
      ∧ bankInSession s b = false ∧ routeLegal s b f (routeOf (rd p 2 1)) (rd p 3 1) = true ∧ j = (if f = 32 then 512 + b
      else 32 * b + f)) ∧
    (∃ (s : State) (h : ReqHdr) (p : List Byte) (n : Nat) (c : Nat) (tb : List (BitVec 64)), Spec.ready 0x0210 h p n s ∧
      Spec.solePart p s ∧ c = rd p 4 1 ∧ c ≤ 3 ∧ 1 ≤ rd p 6 1 ∧ rd p 6 1 ≤ 28 ∧ p.length = 8 + 8 * rd p 6 1 ∧ rd p 5 1 + rd p
      6 1 ≤ 256 ∧ (∀ i, i < rd p 6 1 → auxEntryOk (BitVec.ofNat 64 (rd p (8 + 8 * i) 8)) = true) ∧ loadTable 256 (loadEntries
      [p]) 0 = some tb ∧ misfit (auxOf s c) tb = none) ∧
    (∃ (s : State) (h : ReqHdr) (p : List Byte) (n : Nat) (c : Nat), Spec.ready 0x0211 h p n s ∧ c = rd p 0 1 ∧ c ≤ 3 ∧ rd p
      1 1 ≤ 1 ∧ 200 ≤ rd p 4 4 ∧ rd p 8 4 < rd p 4 4 ∧ timerFits (auxTable (auxOf s c)) (rd p 1 1) (rd p 4 4) = true) :=
  ⟨⟨base, hdr 6, [31, 2, 1, 0, 0, 0], 1, 543, ready_of (by decide +kernel), by
     and_intros <;> decide +kernel⟩,
   ⟨base, hdr 4, [15, 2, 1, 0], 1, 15, ready_of (by decide +kernel), rfl, by decide, by decide, by decide⟩,
   ⟨base, hdr 8, [15, 1, 2, 0, 255, 15, 0, 0], 1, 15, ready_of (by decide +kernel), rfl, by decide, by decide, by decide, by
     decide⟩,
   ⟨base, hdr 12, [127, 1, 1, 0, 16, 39, 0, 0, 232, 3, 0, 0], 1, 127, ready_of (by decide +kernel), by
     and_intros <;> decide +kernel⟩,
   ⟨base, hdr 4, [15, 32, 2, 31], 1, 15, 32, 527, ready_of (by decide +kernel), by
     and_intros <;> decide +kernel⟩,
   ⟨base, hdr 16, [0, 0, 1, 0, 3, 0, 1, 0, 0, 0, 0, 0, 0, 0, 0, 32], 1, 3, [0x2000000000000000], ready_of (by
     decide +kernel), ⟨by decide, by decide, by decide⟩, by
     and_intros <;> decide +kernel⟩,
   ⟨base, hdr 12, [3, 1, 0, 0, 200, 0, 0, 0, 199, 0, 0, 0], 1, 3, ready_of (by decide +kernel), rfl, by decide, by decide, by
     decide, by decide, rfl⟩⟩

theorem wit_ProcessingCommands :
    (∃ (s : State) (h : ReqHdr) (p : List Byte) (n : Nat) (k : Nat) (d : LinDesc), Spec.ready 0x0220 h p n s ∧ k = rd p 0 2 ∧
      k ≤ 511 ∧ d = linOfBytes p ∧ (d.tsrc ≠ 0xFFFF → (d.tsrc < 512 ∧ d.tsrc ≠ k ∧ (linOf s d.tsrc).tsrc = 0xFFFF ∨ 544 ≤
      d.tsrc ∧ d.tsrc < 608) ∧ ∀ e ∈ s.lin.desc, e.1 ≠ k → e.2.tsrc ≠ k) ∧ d.stale ≤ 4096000000 ∧ F64.posNormal d.lsb = true
      ∧ F64.isFinite d.tscale = true ∧ F64.isFinite d.t0 = true ∧ (∀ i, i < 24 → F64.isFinite (d.coef.getD i 0) = true) ∧
      (d.lsb ≠ (linOf s k).lsb → engStream s k = false)) ∧
    (∃ (s : State) (h : ReqHdr) (p : List Byte) (n : Nat) (o : Nat), Spec.ready 0x0230 h p n s ∧ o = rd p 0 1 ∧ o ≤ 31 ∧ rd p
      1 1 ≤ 1 ∧ rd p 2 2 ≤ 607 ∧ (rd p 1 1 = 1 → rd p 2 2 ≤ 511) ∧ rd p 4 1 ≤ 1 ∧ rd p 5 1 ≤ 2 ∧ rd p 6 1 ≤ 1 ∧ (rd p 4 1 = 1
      → 2048 ≤ rd p 8 4 ∧ rd p 8 4 ≤ 204800) ∧ (if rd p 4 1 = 1 then F64.le 0 (rdF p 32) && F64.le (rdF p 32)
      F64.one else F64.le f01 (rdF p 32) && F64.le (rdF p 32) f100k) = true) ∧
    (∃ (s : State) (h : ReqHdr) (p : List Byte) (n : Nat) (o : Nat), Spec.ready 0x0231 h p n s ∧ o = rd p 0 1 ∧ o ≤ 31) ∧
    (∃ (s : State) (h : ReqHdr) (p : List Byte) (n : Nat) (k : Nat), Spec.ready 0x0402 h p n s ∧ k = rd p 0 2 ∧ k ≤ 527 ∧ rd
      p 2 1 ≤ 11 ∧ rd p 3 1 ≤ 7 ∧ rd p 4 1 ≤ 10 ∧ (512 ≤ k → (chanOf s k).route = .parked) ∧ chainDefined s.chd s.chd.active
      (rd p 3 1) (rd p 2 1) = true ∧ (∀ j ∈ selectFes s k, rd p 2 1 ≠ (chanOf s j).rate → streamCarries s j = false ∧ usesSlot
      s j = false) ∧ fadeRuns s k = false ∧ s.chd.swap = none ∧ s.chd.late = none ∧
      s.chd.deferred = none) ∧
    (∃ (s : State) (h : ReqHdr) (p : List Byte) (n : Nat) (k : Nat), Spec.ready 0x0402 h p n s ∧ k = rd p 0 2 ∧ k ≤ 527 ∧ rd
      p 2 1 ≤ 11 ∧ rd p 3 1 ≤ 7 ∧ rd p 4 1 ≤ 10 ∧ (512 ≤ k → (chanOf s k).route = .parked) ∧ chainDefined s.chd s.chd.active
      (rd p 3 1) (rd p 2 1) = true ∧ (∀ j ∈ selectFes s k, rd p 2 1 ≠ (chanOf s j).rate → streamCarries s j = false ∧ usesSlot
      s j = false) ∧ fadeRuns s k = false ∧ s.chd.swap.isSome = true) ∧
    (∃ (s : State) (h : ReqHdr) (p : List Byte) (n : Nat) (ds : List (BitVec 64)), Spec.ready 0x0408 h p n s ∧ Spec.solePart
      p s ∧ ds = upToLast (partDescs p) ∧ 4 ≤ rd p 4 1 ∧ rd p 4 1 ≤ 7 ∧ rd p 5 1 ≤ 11 ∧ 1 ≤ rd p 6 1 ∧ rd p 6 1 ≤ 6 ∧
      p.length = 8 + 8 * rd p 6 1 ∧ (partDescs p).any dLast = true ∧ (∀ i, i < rd p 6 1 → descOk i ((partDescs p).getD i 0) = true) ∧
      chainDecim ds = rateDecim (rd p 5 1) ∧ 2400 + chainSpanRefs 512 ds ≤ dSpan (ds.headD 0) * rateRefs (rd p 5 1) ∧
      chainCost (chainDecim ds) 1 ds ≤ 7500000 * chainDecim ds ∧ s.chd.swap = none ∧ s.chd.late = none ∧ s.chd.deferred = none) ∧
    (∃ (s : State) (h : ReqHdr) (p : List Byte) (n : Nat), Spec.ready 0x0409 h p n s ∧ 8192 ≤ rd p 0 2 ∧ 1 ≤ rd p 2 1 ∧ rd p
      2 1 ≤ 64 ∧ p.length = 4 + 3 * rd p 2 1 ∧ rd p 0 2 + rd p 2 1 ≤ 16384 ∧ s.chd.swap = none ∧ s.chd.late = none ∧ s.chd.deferred = none) ∧
    (∃ (s : State) (h : ReqHdr) (p : List Byte) (n : Nat), Spec.ready 0x0410 h p n s ∧ rd p 0 1 ≤ 10 ∧ s.chd.deferred = none
      ∧ s.chd.swap = none ∧ s.chd.late = none ∧ allDefined s (1 - s.chd.active) = true ∧ setChangeRuns s = false) ∧
    (∃ (s : State) (h : ReqHdr) (p : List Byte) (n : Nat), Spec.ready 0x0410 h p n s ∧ rd p 0 1 ≤ 10 ∧ s.chd.deferred = none
      ∧ s.chd.swap.isSome = true) :=
  ⟨⟨base, hdr 224, ([255, 1, 95, 2, 0, 0, 36, 244, 0, 0, 0, 0, 0, 0, 240, 63, 0, 0, 0, 0, 0, 0, 240, 63] ++ zeros 200), 1,
    511, linOfBytes ([255, 1, 95, 2, 0, 0, 36, 244, 0, 0, 0, 0, 0, 0, 240, 63, 0, 0, 0, 0, 0, 0, 240, 63] ++ zeros 200),
    ready_of (by decide +kernel), by
     and_intros <;> decide +kernel⟩,
   ⟨base, hdr 40, ([31, 1, 255, 1, 1, 2, 1, 0, 0, 8] ++ zeros 28 ++ [240, 63]), 1, 31, ready_of (by decide +kernel), by
     and_intros <;> decide +kernel⟩,
   ⟨base, hdr 4, [31, 0, 0, 0], 1, 31, ready_of (by decide +kernel), rfl, by decide⟩,
   ⟨base, hdr 8, [15, 2, 11, 3, 10, 0, 0, 0], 1, 527, ready_of (by decide +kernel), by
     and_intros <;> decide +kernel⟩,
   ⟨{ base with chd.swap := some swapRun }, hdr 8, [15, 2, 11, 3, 10, 0, 0, 0], 1, 527, ready_of (by decide +kernel), by
     and_intros <;> decide +kernel⟩,
   ⟨base, hdr 16, [0, 0, 1, 0, 4, 0, 1, 0, 0, 0, 0, 1, 128, 1, 64, 128], 1, upToLast (partDescs [0, 0, 1, 0, 4, 0, 1, 0, 0,
     0, 0, 1, 128, 1, 64, 128]), ready_of (by decide +kernel), ⟨by decide, by decide, by decide⟩, by
     and_intros <;> decide +kernel⟩,
   ⟨base, hdr 7, ([255, 63, 1] ++ zeros 4), 1, ready_of (by decide +kernel), by
     and_intros <;> decide +kernel⟩,
   ⟨{ base with fe.chan := [(511, { enabled := true })] }, hdr 4, [10, 0, 0, 0], 1, ready_of (by decide +kernel), by decide,
     rfl, rfl, rfl, by decide +kernel, by decide +kernel⟩,
   ⟨{ base with chd.swap := some swapRun }, hdr 4, [10, 0, 0, 0], 1, ready_of (by decide +kernel), by decide, rfl, rfl⟩⟩

theorem wit_CalibrationCommands :
    (∃ (s : State) (h : ReqHdr) (p : List Byte) (n : Nat) (k : Nat) (b : Nat), Spec.ready 0x0310 h p n s ∧ k = rd p 0 2 ∧ b =
      bankOf k ∧ (rd p 4 4 = 0 ∨ 16 ≤ rd p 4 4 ∧ rd p 4 4 ≤ 65536) ∧ (k < 528 → bankInSession s b = false ∧ fnState s k ≠
      .renewing ∧ fnState s (512 + b) ≠ .renewing ∧ (chanOf s (512 + b)).route = .parked ∧ (bankSt s b).legacyHeld = false) ∧
      (k < 528 ∨ 0x274 ≤ k ∧ k ≤ 0x277 ∧ sessOf s k = none ∧ fnState s k ≠ .renewing) ∧ (512 ≤ k → k < 528 → (rd p 2 1 = 0xFF
      ∨ rd p 2 1 ≤ 11) ∧ (rd p 3 1 = 0xFF ∨ rd p 3 1 ≤ 7 ∧ chainDefined s.chd s.chd.active (rd p 3 1) (if rd p 2 1 = 0xFF
      then (chanOf s k).rate else rd p 2 1) = true))) ∧
    (∃ (s : State) (h : ReqHdr) (p : List Byte) (n : Nat) (k : Nat) (g : Nat) (x : Session), Spec.ready 0x0312 h p n s ∧ k =
      rd p 0 2 ∧ k < 528 ∧ g = rd p 2 1 ∧ sessOf s k = some x ∧ g ≤ 7 ∧ rd p 3 1 ≤ 1 ∧ 16 ≤ rd p 4 4 ∧ rd p 4 4 ≤ 1048576 ∧
      (rd p 3 1 = 0 → F64.isZero (rdF p 8) = true) ∧ F64.le (F64.abs (rdF p 8)) (F64.mul 0x3FEE666666666666 (fullScale false
      g)) = true ∧ (x.phase = .out ∨ x.phase = .mismatchHeld) ∧ (rd p 3 1 = 1 → ∀ j ∈ bankSlots (bankOf k), j ≠ k → (chanOf s
      j).route ≠ .refbus) ∧ (∀ q ∈ x.points, q.done = true) ∧ (x.points.filter fun q => q.gain == g).length < 8) ∧
    (∃ (s : State) (h : ReqHdr) (p : List Byte) (n : Nat) (k : Nat) (g : Nat) (x : Session) (es : List (BitVec 64)),
      Spec.ready 0x0312 h p n s ∧ k = rd p 0 2 ∧ 0x274 ≤ k ∧ k ≤ 0x277 ∧ g = rd p 2 1 ∧ sessOf s k = some x ∧ g / 4 ≤ 1 ∧ g %
      4 ≠ 3 ∧ rd p 3 1 ≤ 15 ∧ es = feeders s (k - 0x274) (rd p 3 1) ∧ es ≠ [] ∧ (∀ e ∈ es, 4 * auxMode e + auxGain e = g) ∧
      16 ≤ rd p 4 4 ∧ rd p 4 4 ≤ 1048576 ∧ F64.le (F64.abs (rdF p 8)) (F64.mul 0x3FEE666666666666 (fullScale true g)) = true
      ∧ x.phase = .out ∧ (∀ q ∈ x.points, q.done = true) ∧ (x.points.filter fun q => q.gain == g).length < 8) ∧
    (∃ (s : State) (h : ReqHdr) (p : List Byte) (n : Nat) (k : Nat) (x : Session) (rs : List CalResult), Spec.ready 0x0313 h
      p n s ∧ k = rd p 0 2 ∧ sessOf s k = some x ∧ x.target = k ∧ fitAll k x.qMax x.points = .ok rs ∧ rs ≠ []) ∧
    (∃ (s : State) (h : ReqHdr) (p : List Byte) (n : Nat) (k : Nat) (x : Session), Spec.ready 0x0314 h p n s ∧ k = rd p 0 2 ∧
      sessOf s k = some x ∧ rd p 2 1 ≤ 1 ∧ x.results ≠ [] ∧ (rd p 2 1 = 0 → ∀ y ∈ x.results, y.isOver = false)) ∧
    (∃ (s : State) (h : ReqHdr) (p : List Byte) (n : Nat) (k : Nat) (x : Session), Spec.ready 0x0315 h p n s ∧ k = rd p 0 2 ∧
      sessOf s k = some x ∧ rd p 2 1 ≤ 1 ∧ (x.phase = .out ∨ x.phase = .mismatchHeld)) ∧
    (∃ (s : State) (h : ReqHdr) (p : List Byte) (n : Nat) (k : Nat) (x : Session), Spec.ready 0x0316 h p n s ∧ k = rd p 0 2 ∧
      sessOf s k = some x ∧ (x.phase = .out ∨ x.phase = .mismatchHeld ∨ x.phase = .overlapOut ∨ x.phase = .overlapBack)) :=
  ⟨⟨base, hdr 16, ([255, 1, 0, 0, 16] ++ zeros 11), 1, 511, 15, ready_of (by decide +kernel), rfl, rfl, Or.inr (by decide),
    by decide +kernel, Or.inl (by decide), by decide +kernel⟩,
   ⟨{ base with cal.sess := [(511, { sess0 with phase := .out })] }, hdr 16, ([255, 1, 7, 1, 16] ++ zeros 11), 1, 511, 7, { sess0 with phase := .out },
     ready_of (by decide +kernel), rfl, by decide, rfl, rfl, by decide, by decide, by decide, by decide, by decide +kernel,
     by decide +kernel, Or.inl rfl, by decide +kernel, nofun, by decide +kernel⟩,
   ⟨{ base with cal.sess := [(0x277, { sess0 with phase := .out })], fe.aux := [(3, { table := [0x200F000000000000] })] },
     hdr 16, ([119, 2, 0, 15, 16] ++ zeros 11), 1, 0x277, 0, { sess0 with phase := .out }, [0x200F000000000000], ready_of (by
     decide +kernel), rfl, by decide, by decide, rfl, rfl, by decide, by decide, by decide, by decide +kernel, by
     decide +kernel, List.forall_mem_singleton.2 (by decide), by decide, by decide, by decide +kernel, rfl, nofun, by
     decide +kernel⟩,
   ⟨{ base with cal.sess := [(511, { sess0 with phase := .out, points := [pt0, pt5], target := 511 })] }, hdr 2, [255, 1], 1,
     511, { sess0 with phase := .out, points := [pt0, pt5], target := 511 }, [res0], ready_of (by decide +kernel), rfl, rfl,
     rfl, fit_res, nofun⟩,
   ⟨{ base with cal.sess := [(511, { sess0 with phase := .out, results := [res0] })] }, hdr 4, [255, 1, 0, 0], 1, 511, { sess0 with phase := .out, results := [res0] },
     ready_of (by decide +kernel), rfl, rfl, by decide, nofun, by decide +kernel⟩,
   ⟨{ base with cal.sess := [(511, { sess0 with phase := .out })] }, hdr 4, [255, 1, 1, 0], 1, 511, { sess0 with phase := .out },
     ready_of (by decide +kernel), rfl, rfl, by decide, Or.inl rfl⟩,
   ⟨{ base with cal.sess := [(511, sessF .overlapBack 0)] }, hdr 4, [255, 1, 0, 0], 1, 511, sessF .overlapBack 0, ready_of
     (by decide +kernel), rfl, rfl, Or.inr (Or.inr (Or.inr rfl))⟩⟩

theorem wit_StreamAndMemoryCommands :
    (∃ (s : State) (h : ReqHdr) (p : List Byte) (n : Nat) (i : Nat) (c : StreamDef), Spec.ready 0x0501 h p n s ∧
      Spec.solePart p s ∧ i = rd p 4 1 ∧ c = streamDefOf [p] ∧ i ≤ 63 ∧ 48 ≤ p.length ∧ (p.length - 48) % 2 = 0 ∧ (p.length -
      48) / 2 ≤ 96 ∧ c.kind ≤ 6 ∧ (slotClass (c.slots.headD 0) ≠ 0 → c.kind = 0 ∨ c.kind = 6) ∧ (c.kind = 6 → slotClass
      (c.slots.headD 0) = 2) ∧ (if c.kind = 6 then c.rate = 0xFF else c.rate < 12 ∨ c.rate = 15) ∧ c.skind ≤ 1 ∧ (c.skind = 1
      → slotClass (c.slots.headD 0) = 0) ∧ 1 ≤ rd p 8 2 ∧ rd p 8 2 = c.chans ∧ 1 ≤ c.dest ∧ c.dest ≤ 3 ∧ c.opts ≤ 7 ∧
      c.roGroup ≤ 7 ∧ (if 1 ≤ c.kind ∧ c.kind ≤ 3 then c.target ≤ 11 ∧ rateRefs c.target % rateRefs c.rate = 0 ∧ 2 ≤ ratio c
      else c.target = 0) ∧ (if c.kind ≤ 3 then 1 ≤ c.block ∧ c.block ≤ 65536 ∧ bodyBytes c c.block ≤ 4194304 else if c.kind =
      6 then c.block = 0 else 1 ≤ c.block ∧ c.block ≤ 16777216) ∧ 64 ≤ c.retain ∧ c.retain ≤ 65536 ∧ 2 * cdiv (64 + bodyBytes
      c (maxOutputs c) + 8 * b2n c.compressed) 1024 ≤ c.retain ∧ 2 ≤ c.rto ∧ c.rto ≤ 1000 ∧ (∀ k, k < 4 → parOk c.kind k
      (c.pars.getD k 0) = true) ∧ (∀ k, k < c.chans → slotEntryOk s c k = true) ∧ (strOf s i).enabled = false ∧ (strOf s
      i).retained = false ∧ (∀ x ∈ instsOf c, (keptInsts s i).any (sameInst x) = true ∨ (distinctOn (keptInsts s i) x.slot).length < 4) ∧ (∃ b, fit s 2 c.retain = .ok b) ∧ (newInstKiB s c = 0 ∨ ∃ b, fit s 0 (newInstKiB s c) =
      .ok b)) ∧
    (∃ (s : State) (h : ReqHdr) (p : List Byte) (n : Nat) (i : Nat) (c : StreamDef), Spec.ready 0x0502 h p n s ∧ i = rd p 0 1
      ∧ i ≤ 63 ∧ (strOf s i).defd = true ∧ (strOf s i).enabled = false ∧ c = (strOf s i).cfg ∧ (∀ k ∈ c.slots, slotUnfit s c
      k = false) ∧ ((strOf s i).retained = true ∨ ∃ b, fit s 2 c.retain = .ok b) ∧ (c.compressed = true → rateFits s c = true)) ∧
    (∃ (s : State) (c : StreamDef), c.compressed = true ∧ rateFits s c = true) ∧
    (∃ (s : State) (h : ReqHdr) (p : List Byte) (n : Nat) (i : Nat), Spec.ready 0x0503 h p n s ∧ i = rd p 0 1 ∧ i ≤ 63 ∧
      (strOf s i).defd = true ∧ (strOf s i).enabled = true) ∧
    (∃ (s : State) (h : ReqHdr) (p : List Byte) (n : Nat) (i : Nat), Spec.ready 0x0504 h p n s ∧ i = rd p 0 1 ∧ i ≤ 63 ∧
      (strOf s i).defd = true ∧ (strOf s i).enabled = false ∧ (strOf s i).retained = true) ∧
    (∃ (s : State) (h : ReqHdr) (p : List Byte) (n : Nat) (i : Nat), Spec.ready 0x0504 h p n s ∧ i = rd p 0 1 ∧ i ≤ 63 ∧
      (strOf s i).defd = true ∧ (strOf s i).enabled = false ∧ (strOf s i).retained = false) ∧
    (∃ (s : State) (h : ReqHdr) (p : List Byte) (n : Nat) (i : Nat), Spec.ready 0x0531 h p n s ∧ i = rd p 0 1 ∧ (i ≤ 63 ∨ i =
      0x80) ∧ bit h.flags.toNat 0 = false) ∧
    (∃ (s : State) (h : ReqHdr) (p : List Byte) (n : Nat) (i : Nat), Spec.ready 0x0531 h p n s ∧ i = rd p 0 1 ∧ (i ≤ 63 ∨ i =
      0x80) ∧ bit h.flags.toNat 0 = true) ∧
    (∃ (s : State) (h : ReqHdr) (p : List Byte) (n : Nat), Spec.ready 0x0540 h p n s ∧ (∀ i, i < 5 → rd p (4 * i) 4 % 64 = 0)
      ∧ rd p 0 4 + rd p 4 4 + rd p 8 4 + rd p 12 4 + rd p 16 4 ≤ 65408 ∧ (∀ i, i < 5 → allocs s i = [] ∨ regionBase (planOf
      p) i = regionBase s.rm.plan i ∧ regionSize (planOf p) i = regionSize s.rm.plan i)) ∧
    (∃ (s : State) (h : ReqHdr) (p : List Byte) (n : Nat), Spec.ready 0x0542 h p n s ∧ rd p 0 2 ≤ 3600 ∧ rd p 4 1 ≤ 1) ∧
    (∃ (s : State) (h : ReqHdr) (p : List Byte) (n : Nat) (k : Nat) (d : Nat), Spec.ready 0x0610 h p n s ∧ k = rd p 0 2 ∧ d =
      rd p 2 1 ∧ k ≤ 607 ∧ d ≤ 1 ∧ (d = 1 → k ≤ 527) ∧ armedHist s k d = false ∧ rd p 4 4 = 0) ∧
    (∃ (s : State) (h : ReqHdr) (p : List Byte) (n : Nat) (k : Nat) (d : Nat), Spec.ready 0x0610 h p n s ∧ k = rd p 0 2 ∧ d =
      rd p 2 1 ∧ k ≤ 607 ∧ d ≤ 1 ∧ (d = 1 → k ≤ 527) ∧ armedHist s k d = false ∧ 256 ≤ rd p 4 4 ∧ rd p 4 4 ≤ 16777216 ∧ rd p
      4 4 % 256 = 0 ∧ (histOf s k d = none → s.rm.hist.length < 1024) ∧ (∃ b, fit s 1 (cdiv (4 * rd p 4 4) 1024) = .ok b)) ∧
    (∃ (s : State) (h : ReqHdr) (p : List Byte) (n : Nat) (g : Nat), Spec.ready 0x0608 h p n s ∧ g = rd p 0 1 ∧ g ≤ 7 ∧ (∀ j
      ∈ s.cop, j.group = g → inRelease p j.record = false)) :=
  ⟨⟨{ base with rm.plan := [64, 64, 64, 64, 64] }, hdr 50, ([0, 0, 1, 0, 63, 0, 0, 0, 1, 0, 1, 0, 0, 0, 0, 0, 1, 0, 0, 0, 64,
    0, 0, 0, 2] ++ zeros 25), 1, 63, streamDefOf [([0, 0, 1, 0, 63, 0, 0, 0, 1, 0, 1, 0, 0, 0, 0, 0, 1, 0, 0, 0, 64, 0, 0, 0,
    2] ++ zeros 25)], ready_of (by decide +kernel), ⟨by decide, by decide, by decide⟩, by
    and_intros <;> first | decide +kernel | exact ⟨_, rfl⟩ | exact Or.inl (by decide +kernel)⟩,
   ⟨{ base with rm.plan := [64, 64, 64, 64, 64], fe.chan := [(0, { enabled := true })], str.s := [(63, { defd := true, cfg := { slots := [0], retain := 64 } })] },
     hdr 4, [63, 0, 0, 0], 1, 63, { slots := [0], retain := 64 }, ready_of (by decide +kernel), rfl, by decide, rfl, rfl,
     rfl, by decide +kernel, Or.inr ⟨_, rfl⟩, by decide +kernel⟩,
   ⟨base, { slots := [0], opts := 1 }, by decide, by decide +kernel⟩,
   ⟨{ base with str.s := [(63, { defd := true, enabled := true })] }, hdr 4, [63, 0, 0, 0], 1, 63, ready_of (by
     decide +kernel), rfl, by decide, rfl, rfl⟩,
   ⟨{ base with str.s := [(63, { defd := true, retained := true })] }, hdr 4, [63, 0, 0, 0], 1, 63, ready_of (by
     decide +kernel), rfl, by decide, rfl, rfl, rfl⟩,
   ⟨{ base with str.s := [(63, { defd := true })] }, hdr 4, [63, 0, 0, 0], 1, 63, ready_of (by decide +kernel), rfl, by
     decide, rfl, rfl, rfl⟩,
   ⟨base, hdr 4, [128, 0, 0, 0], 1, 0x80, ready_of (by decide +kernel), rfl, by decide, rfl⟩,
   ⟨base, hdr 4 (flags := 1) (tick := 5), [63, 0, 0, 0], 5, 63, ready_of (by decide +kernel), rfl, by decide, rfl⟩,
   ⟨base, hdr 20, ([64] ++ zeros 19), 1, ready_of (by decide +kernel), by decide +kernel, by decide +kernel, by decide +kernel⟩,
   ⟨base, hdr 8, [16, 14, 0, 0, 1, 0, 0, 0], 1, ready_of (by decide +kernel), by decide, by decide⟩,
   ⟨base, hdr 8, ([95, 2] ++ zeros 6), 1, 607, 0, ready_of (by decide +kernel), by
     and_intros <;> decide +kernel⟩,
   ⟨{ base with rm.plan := [64, 64, 64, 64, 64] }, hdr 8, [15, 2, 1, 0, 0, 1, 0, 0], 1, 527, 1, ready_of (by decide +kernel),
     rfl, rfl, by decide, by decide, by decide, by decide +kernel, by decide, by decide, rfl, by decide +kernel, ⟨_, rfl⟩⟩,
   ⟨base, hdr 8, ([7] ++ zeros 7), 1, 7, ready_of (by decide +kernel), rfl, by decide, nofun⟩⟩

theorem wit_TriggerCommands :
    (∃ (s : State) (h : ReqHdr) (p : List Byte) (n : Nat) (i : Nat), Spec.ready 0x0601 h p n s ∧ Spec.solePart p s ∧ i = rd p
      4 1 ∧ i ≤ 7 ∧ 1 ≤ rd p 6 1 ∧ rd p 6 1 ≤ 7 ∧ p.length = 8 + 32 * rd p 6 1 ∧ rd p 5 1 + rd p 6 1 ≤ 16 ∧ (∀ j, j < 2 * rd
      p 6 1 → condOk (BitVec.ofNat 128 (rd p (8 + 16 * j) 16)) = true) ∧ memberArmed s i = false) ∧
    (∃ (s : State) (h : ReqHdr) (p : List Byte) (n : Nat) (g : Nat) (b : Nat) (c : GroupDef), Spec.ready 0x0602 h p n s ∧
      Spec.solePart p s ∧ g = rd p 4 1 ∧ c = groupDefOf [p] ∧ g ≤ 7 ∧ 52 ≤ p.length ∧ (p.length - 52) % 8 = 0 ∧ (p.length -
      52) / 8 ≤ 23 ∧ (c.rate < 12 ∨ c.rate = 15) ∧ (∀ i, i < 8 → bit c.seqMask i = true → (∀ e ∈ s.trg.grp, e.1 ≠ g →
      e.2.defd = true → bit e.2.cfg.seqMask i = false) ∧ ∀ k ∈ condSlotsOf s i, recRate s k = some c.rate) ∧ c.queues ≤ 15 ∧
      c.nflags ≤ 7 ∧ 1 ≤ rd p 12 1 ∧ rd p 12 1 = c.slots.length ∧ c.keyId ≤ 7 ∧ (∀ x ∈ c.slots, ∀ q, recRate s x.slot = some
      q → c.tPre ≤ histDepth s x.slot x.dkind (rateRefs q)) ∧ 1 ≤ c.tPost ∧ (c.mcAddr ≠ 0 → onLink s c.mcAddr = true) ∧
      recReserve c.slots.length (largestWords s c) ≤ c.area * 1024 ∧ (∀ e ∈ grpEntries [p], rd e.2.2 0 2 ≤ 607 ∧ (isAux (rd
      e.2.2 0 2) = true → (auxRate s (rd e.2.2 0 2)).isSome = true) ∧ rd e.2.2 2 1 ≤ 1 ∧ (rd e.2.2 2 1 = 1 → rd e.2.2 0 2 ≤
      527) ∧ rd e.2.2 3 1 = 0 ∧ rd e.2.2 4 4 ≤ 8388607) ∧ armedNow (grpOf s g) = false ∧ (grpOf s g).armed = false ∧ fitArea
      s g c.area = .ok b) ∧
    (∃ (s : State) (h : ReqHdr) (p : List Byte) (n : Nat) (g : Nat), Spec.ready 0x0603 h p n s ∧ g = rd p 0 1 ∧ g ≤ 7 ∧ rd p
      1 1 ≤ 1 ∧ (grpOf s g).defd = true ∧ armedNow (grpOf s g) = false ∧ armOk s g = true ∧ rd p 1 1 = 0) ∧
    (∃ (s : State) (h : ReqHdr) (p : List Byte) (n : Nat) (g : Nat), Spec.ready 0x0603 h p n s ∧ g = rd p 0 1 ∧ g ≤ 7 ∧ rd p
      1 1 ≤ 1 ∧ (grpOf s g).defd = true ∧ armedNow (grpOf s g) = false ∧ armOk s g = true ∧ rd p 1 1 = 1) ∧
    (∃ (s : State) (h : ReqHdr) (p : List Byte) (n : Nat) (g : Nat), Spec.ready 0x0603 h p n s ∧ g = rd p 0 1 ∧ g ≤ 7 ∧ rd p
      1 1 ≤ 1 ∧ (grpOf s g).defd = true ∧ armedNow (grpOf s g) = true ∧ rd p 1 1 = 0) ∧
    (∃ (s : State) (h : ReqHdr) (p : List Byte) (n : Nat) (g : Nat), Spec.ready 0x0603 h p n s ∧ g = rd p 0 1 ∧ g ≤ 7 ∧ rd p
      1 1 ≤ 1 ∧ (grpOf s g).defd = true ∧ armedNow (grpOf s g) = true ∧ rd p 1 1 = 1) ∧
    (∃ (s : State) (h : ReqHdr) (p : List Byte) (n : Nat) (g : Nat), Spec.ready 0x0604 h p n s ∧ g = rd p 0 1 ∧ g ≤ 7 ∧ rd p
      1 1 ≤ 1 ∧ (grpOf s g).defd = true ∧ armedNow (grpOf s g) = true ∧ rd p 1 1 = 0) ∧
    (∃ (s : State) (h : ReqHdr) (p : List Byte) (n : Nat) (g : Nat), Spec.ready 0x0604 h p n s ∧ g = rd p 0 1 ∧ g ≤ 7 ∧ rd p
      1 1 ≤ 1 ∧ (grpOf s g).defd = true ∧ armedNow (grpOf s g) = false ∧ rd p 1 1 = 0) ∧
    (∃ (s : State) (h : ReqHdr) (p : List Byte) (n : Nat) (g : Nat), Spec.ready 0x0604 h p n s ∧ g = rd p 0 1 ∧ g ≤ 7 ∧ rd p
      1 1 ≤ 1 ∧ (grpOf s g).defd = true ∧ rd p 1 1 = 1) ∧
    (∃ (s : State) (h : ReqHdr) (p : List Byte) (n : Nat) (g : Nat) (q : Nat), Spec.ready 0x0605 h p n s ∧ g = rd p 0 1 ∧ g ≤
      7 ∧ rd p 1 1 ≤ 3 ∧ (grpOf s g).defd = true ∧ (bit (rd p 1 1) 0 = true → rd p 4 4 ≤ 999999999) ∧ q = (if bit (rd p 1 1)
      0 then fuOf (rd p 8 8) (rd p 4 4) (rd p 2 2) else n * 1048576 * 320000) ∧ q ≤ n * 1048576 * 320000) :=
  ⟨⟨base, hdr 40, ([0, 0, 1, 0, 7, 14, 1] ++ zeros 33), 1, 7, ready_of (by decide +kernel), ⟨by decide, by decide, by
    decide⟩, by
     and_intros <;> decide +kernel⟩,
   ⟨{ base with rm.plan := [64, 64, 64, 64, 64] }, hdr 60, ([0, 0, 1, 0, 7, 0, 0, 0, 0, 0, 0, 0, 1, 0, 0, 0, 0, 0, 0, 0, 1,
     0, 0, 0, 0, 0, 0, 0, 64] ++ zeros 31), 1, 7, 320, groupDefOf [([0, 0, 1, 0, 7, 0, 0, 0, 0, 0, 0, 0, 1, 0, 0, 0, 0, 0, 0,
     0, 1, 0, 0, 0, 0, 0, 0, 0, 64] ++ zeros 31)], ready_of (by decide +kernel), ⟨by decide, by decide, by decide⟩, rfl, rfl,
     by decide, by decide, rfl, by decide, by decide +kernel, by decide +kernel, by decide, by decide, by decide, rfl, by
     decide +kernel, fun _ _ _ _ => Nat.zero_le _, by and_intros <;> first | decide +kernel | rfl⟩,
   ⟨{ base with trg.grp := [(7, { defd := true })] }, hdr 4, [7, 0, 0, 0], 1, 7, ready_of (by decide +kernel), by
     and_intros <;> decide +kernel⟩,
   ⟨{ base with trg.grp := [(7, { defd := true })] }, hdr 4, [7, 1, 0, 0], 1, 7, ready_of (by decide +kernel), by
     and_intros <;> decide +kernel⟩,
   ⟨{ base with trg.grp := [(7, { defd := true, armed := true })] }, hdr 4, [7, 0, 0, 0], 1, 7, ready_of (by decide +kernel),
     rfl, by decide, by decide, rfl, rfl, rfl⟩,
   ⟨{ base with trg.grp := [(7, { defd := true, armed := true })] }, hdr 4, [7, 1, 0, 0], 1, 7, ready_of (by decide +kernel),
     rfl, by decide, by decide, rfl, rfl, rfl⟩,
   ⟨{ base with trg.grp := [(7, { defd := true, armed := true })] }, hdr 4, [7, 0, 0, 0], 1, 7, ready_of (by decide +kernel),
     rfl, by decide, by decide, rfl, rfl, rfl⟩,
   ⟨{ base with trg.grp := [(7, { defd := true })] }, hdr 4, [7, 0, 0, 0], 1, 7, ready_of (by decide +kernel), rfl, by
     decide, by decide, rfl, rfl, rfl⟩,
   ⟨{ base with trg.grp := [(7, { defd := true, armed := true })] }, hdr 4, [7, 1, 0, 0], 1, 7, ready_of (by decide +kernel),
     rfl, by decide, by decide, rfl, rfl⟩,
   ⟨{ base with trg.grp := [(7, { defd := true })] }, hdr 16, ([7] ++ zeros 15), 1, 7, 335544320000, ready_of (by
     decide +kernel), rfl, by decide, by decide, rfl, fun h => absurd h (by decide), by decide +kernel, by decide +kernel⟩⟩

theorem wit_TimeAndNetworkCommands :
    (∃ (s : State) (h : ReqHdr) (p : List Byte) (n : Nat) (c : PtpCfg), Spec.ready 0x0702 h p n s ∧ c = ptpOf p ∧ c.domain ≤
      127 ∧ c.profile ≤ 1 ∧ c.transport ≤ 3 ∧ 2 ≤ c.annTimeout ∧ c.annTimeout ≤ 10 ∧ -7 ≤ c.syncLog ∧ c.syncLog ≤ 0 ∧ -3 ≤
      c.annLog ∧ c.annLog ≤ 3 ∧ -7 ≤ c.dreqLog ∧ c.dreqLog ≤ 0 ∧ c.slewPpm ≤ 100 ∧ (c.bwMhz = 0 ∨ 10 ≤ c.bwMhz ∧ c.bwMhz ≤
      1000) ∧ (∀ i, i < 4 → -65536000 ≤ c.asym.getD i 0 ∧ c.asym.getD i 0 ≤ 65536000)) ∧
    (∃ (s : State) (h : ReqHdr) (p : List Byte) (n : Nat), Spec.ready 0x0703 h p n s ∧ rd p 0 4 < 1000000000 ∧ rd p 8 8 < 2 ^
      48 ∧ s.pwr.plane = false) ∧
    (∃ (s : State) (h : ReqHdr) (p : List Byte) (n : Nat), Spec.ready 0x0704 h p n s ∧ rd p 0 1 ≤ 2 ∧ rd p 1 1 ≤ 3) ∧
    (∃ (s : State) (h : ReqHdr) (p : List Byte) (n : Nat), Spec.ready 0x0705 h p n s ∧ rd p 0 1 ≤ 3 ∧ rd p 1 1 ≤ 1) ∧
    (∃ (s : State) (h : ReqHdr) (p : List Byte) (n : Nat) (k : Nat) (c : BeaconSet), Spec.ready 0x0710 h p n s ∧ k = rd p 0 1
      ∧ c = beaconOfBytes p ∧ k ≤ 15 ∧ rd p 1 1 ≤ 1 ∧ rd p 2 1 ≤ 1 ∧ rd p 4 4 < 1000000000 ∧ rd p 12 8 < 2 ^ 48 ∧ (rd p 1 1 =
      0 → (n + 1) * 1048576 * 16 < c.start ∧ c.width ≤ 2 ^ 36) ∧ (rd p 1 1 = 1 → 2048 ≤ c.period ∧ c.period ≤ 2 ^ 44 ∧
      c.width + 16 ≤ c.period) ∧ 1 ≤ c.width ∧ s.tb.state ≠ .unset) ∧
    (∃ (s : State) (h : ReqHdr) (p : List Byte) (n : Nat) (k : Nat), Spec.ready 0x0711 h p n s ∧ k = rd p 0 1 ∧ k ≤ 15) ∧
    (∃ (s : State) (h : ReqHdr) (p : List Byte) (n : Nat), Spec.ready 0x0718 h p n s ∧ rd p 0 1 ≤ 15 ∧ rd p 1 1 ≤ 3) ∧
    (∃ (s : State) (h : ReqHdr) (p : List Byte) (n : Nat) (m : Nat), Spec.ready 0x0C01 h p n s ∧ m = rd p 0 1 ∧ m ≤ 31 ∧
      monSourceOk (rd p 2 2) = true ∧ 1 ≤ rd p 8 4 ∧ rd p 8 4 ≤ 2 ^ 31) ∧
    (∃ (s : State) (h : ReqHdr) (p : List Byte) (n : Nat) (k : Nat), Spec.ready 0x0D01 h p n s ∧ k = rd p 0 1 ∧ k ≤ 3 ∧ rd p
      1 1 ≤ 2) ∧
    (∃ (s : State) (h : ReqHdr) (p : List Byte) (n : Nat) (c : NetCfg), Spec.ready 0x0D02 h p n s ∧ c = netCfgOf p ∧ groupBit
      c.mac = false ∧ c.vlan ≤ 4094 ∧ c.prefix4 ≤ 32 ∧ c.prefix6 ≤ 128 ∧ bits c.ipv6.toNat 127 120 ≠ 0xFF) ∧
    (∃ (s : State) (h : ReqHdr) (p : List Byte) (n : Nat), Spec.ready 0x0D03 h p n s ∧ rd p 0 1 ≤ 1 ∧ rd p 1 1 ≤ 1 ∧ rd p 2 2
      ≤ 4094) ∧
    (∃ (s : State) (h : ReqHdr) (p : List Byte) (n : Nat) (r : Nat), Spec.ready 0x0D04 h p n s ∧ r = rd p 0 1 ∧ r ≤ 1 ∧ rd p
      1 1 ≤ 7 ∧ (BitVec.ofNat 128 (rdB p 4 16) ≠ 0 → onLink s (BitVec.ofNat 128 (rdB p 4 16)) = true)) :=
  ⟨⟨base, hdr 28, ([127, 1] ++ zeros 26), 1, ptpOf ([127, 1] ++ zeros 26), ready_of (by decide +kernel), by
     and_intros <;> decide +kernel⟩,
   ⟨base, hdr 16, [255, 201, 154, 59, 0, 0, 0, 0, 255, 255, 255, 255, 255, 255, 0, 0], 1, ready_of (by decide +kernel), by
     decide +kernel, by decide +kernel, rfl⟩,
   ⟨base, hdr 8, ([2, 3] ++ zeros 6), 1, ready_of (by decide +kernel), by decide, by decide⟩,
   ⟨base, hdr 4, [3, 1, 0, 0], 1, ready_of (by decide +kernel), by decide, by decide⟩,
   ⟨{ base with tb.state := .locked }, hdr 36, ([15, 1, 1] ++ zeros 18 ++ [8, 0, 0, 0, 0, 0, 0, 1] ++ zeros 7), 1, 15, beaconOfBytes ([15, 1, 1] ++ zeros 18 ++ [8, 0, 0, 0, 0, 0, 0, 1] ++ zeros 7), ready_of (by decide +kernel), by
     and_intros <;> decide +kernel⟩,
   ⟨base, hdr 4, [15, 0, 0, 0], 1, 15, ready_of (by decide +kernel), rfl, by decide⟩,
   ⟨base, hdr 4, [15, 3, 0, 0], 1, ready_of (by decide +kernel), by decide, by decide⟩,
   ⟨base, hdr 12, [31, 0, 3, 16, 0, 0, 0, 0, 0, 0, 0, 128], 1, 31, ready_of (by decide +kernel), rfl, by decide, rfl, by
     decide +kernel, by decide +kernel⟩,
   ⟨base, hdr 4, [3, 2, 0, 0], 1, 3, ready_of (by decide +kernel), rfl, by decide, by decide⟩,
   ⟨base, hdr 32, ([2, 0, 0, 0, 0, 0, 254, 15, 0, 0, 0, 0, 32, 128] ++ zeros 18), 1, netCfgOf ([2, 0, 0, 0, 0, 0, 254, 15, 0,
     0, 0, 0, 32, 128] ++ zeros 18), ready_of (by decide +kernel), rfl, by decide +kernel, by decide +kernel, by
     decide +kernel, by decide +kernel, by decide +kernel⟩,
   ⟨base, hdr 4, [1, 1, 254, 15], 1, ready_of (by decide +kernel), by decide, by decide, by decide⟩,
   ⟨base, hdr 20, ([1, 7] ++ zeros 18), 1, 1, ready_of (by decide +kernel), rfl, by decide, by decide, by decide +kernel⟩⟩

theorem wit_LoopAndCooperCommands :
    (∃ (s : State) (h : ReqHdr) (p : List Byte) (n : Nat) (k : Nat), Spec.ready 0x0801 h p n s ∧ k = rd p 0 1 ∧ k ≤ 31 ∧ rd p
      1 1 ≤ 1 ∧ 544 ≤ rd p 2 2 ∧ rd p 2 2 ≤ 607 ∧ (544 ≤ rd p 4 2 ∧ rd p 4 2 ≤ 607 ∨ rd p 4 2 = 0xFFFF) ∧ (rd p 6 2 < 512 ∨
      rd p 6 2 = 0xFFFF) ∧ 4096 ≤ rd p 8 4 ∧ rd p 8 4 ≤ 2048000 ∧ rd p 8 4 % 64 = 0 ∧ rd p 12 4 < rd p 8 4 ∧ (loopOf s
      k).run.mode = .off ∧ (loopOf s k).stgMode = none) ∧
    (∃ (s : State) (h : ReqHdr) (p : List Byte) (n : Nat) (k : Nat), Spec.ready 0x0802 h p n s ∧ k = rd p 0 1 ∧ k ≤ 31 ∧ rd p
      1 1 ≤ 3 ∧ rd p 2 1 ≤ 1 ∧ (loopOf s k).defd = true ∧ (loopOf s k).stgMode = none ∧ (rd p 1 1 = 3 → (loopOf s k).run.mode
      = .closed ∧ injBusy s = false ∧ ∃ j, (loopOf s k).inj = some j ∧ capClash s j.base j.count = false)) ∧
    (∃ (s : State) (h : ReqHdr) (p : List Byte) (n : Nat) (k : Nat) (q : LoopParam), Spec.ready 0x0803 h p n s ∧ k = rd p 0 1
      ∧ k ≤ 31 ∧ q = { safeState := rd p 1 1, staleMax := rd p 2 1, rSet := rdS p 4 4, ki := rd p 8 4, iMin := rdS p 12 4, iMax := rdS p 16 4, kv := rdS p 20 4, vNom := rdS p 24 4, ka := rdS p 28 4, h := rd p 32 4, tOnMin := rd p 36 4, tOffMin := rd p 40 4, lFe := rd p 44 4, tFe := rd p 48 4, nFrz := rd p 52 2, ffHold := rd p 54 2 }
      ∧ q.safeState ≤ 2 ∧ q.iMin ≤ 0 ∧ 0 ≤ q.iMax ∧ -8388608 ≤ q.vNom ∧ q.vNom ≤ 8388607 ∧ 1 ≤ q.h ∧ q.h ≤ 1073741824 ∧
      q.tOnMin ≤ 16777215 ∧ q.tOffMin ≤ 16777215 ∧ (q.nFrz = 0 ∨ 8 ≤ q.nFrz) ∧ (loopOf s k).stgPar = none) ∧
    (∃ (s : State) (h : ReqHdr) (p : List Byte) (n : Nat) (k : Nat) (j : Inject), Spec.ready 0x0804 h p n s ∧ k = rd p 0 1 ∧
      j = injectOf p ∧ k ≤ 31 ∧ j.signal ≤ 2 ∧ (j.signal = 1 → j.order ∈ [9, 11, 15, 20, 23] ∧ 1 ≤ j.bitLen ∧ j.bitLen ≤ 256)
      ∧ rd p 3 1 ≤ 16 ∧ 1 ≤ j.ampl ∧ j.ampl ≤ 1073741824 ∧ 64 ≤ j.count ∧ j.count ≤ 16384 ∧ j.base % 64 = 0 ∧ cooperLo s ≤
      j.base ∧ j.base + (448 + 16 * j.count) ≤ cooperHi s ∧ (loopOf s k).defd = true ∧ (j.signal ≠ 1 → freqOk j.f0 (loopOf s
      k).cfg.period = true) ∧ (j.signal = 2 → freqOk j.f1 (loopOf s k).cfg.period = true) ∧ (j.signal ≠ 0 → ∀ f ∈ j.freqs,
      F64.isFinite f = true) ∧ (loopOf s k).run.mode = .closed ∧ (loopOf s k).stgMode = none ∧ injBusy s = false ∧ capClash s
      j.base j.count = false) ∧
    (∃ (s : State) (h : ReqHdr) (p : List Byte) (n : Nat) (iv : Nat), Spec.ready 0x0810 h p n s ∧ iv = ckInterval p ∧ rd p 0
      1 ≤ 1 ∧ 51200 ≤ iv ∧ iv ≤ 1024000) ∧
    (∃ (s : State) (h : ReqHdr) (p : List Byte) (n : Nat), Spec.ready 0x0812 h p n s ∧ rd p 2 1 ≤ 7 ∧ rd p 3 1 ≤ 32 ∧
      p.length = 4 + 2 * rd p 3 1 ∧ (∀ i, i < rd p 3 1 → rd p (4 + 2 * i) 1 ≤ 31 ∧ rd p (5 + 2 * i) 1 ≤ 31)) ∧
    (∃ (s : State) (h : ReqHdr) (p : List Byte) (n : Nat) (lo : Nat) (hi : Nat) (x : Record), Spec.ready 0x0901 h p n s ∧ rd
      p 2 1 ≤ 7 ∧ rd p 3 1 / 2 % 8 = 0 ∧ recOf s (rd p 2 1) (BitVec.ofNat 32 (rd p 4 4)) = some x ∧ lo = regionBase s.rm.plan
      4 * 1024 ∧ hi = lo + regionSize s.rm.plan 4 * 1024 ∧ rd p 8 4 % 64 = 0 ∧ lo ≤ rd p 8 4 ∧ rd p 8 4 < hi ∧ rd p 12 4 % 64
      = 0 ∧ rd p 8 4 + rd p 12 4 ≤ hi ∧ 4096 ≤ rd p 16 4 ∧ rd p 16 4 ≤ 65536 ∧ fnIdle s 0x2D0 = false ∧ (bit
      (rd p 3 1) 0 = true ∨ x.complete = true) ∧ (s.cop.filter fun j => !j.running).length < 16 ∧ (∀ j ∈ s.cop, rd p 8 4 + rd
      p 12 4 ≤ j.base ∨ j.base + j.size ≤ rd p 8 4)) ∧
    (∃ (s : State) (h : ReqHdr) (p : List Byte) (n : Nat) (m : Nat) (j : Job) (rest : List Job) (x : Record) (q : RecPart) (b
      : List Byte), Spec.ready 0x0902 h p n s ∧ s.cop = j :: rest ∧ j.running = true ∧ j.started = true ∧ j.tag =
      BitVec.ofNat 16 (rd p 0 2) ∧ bit j.options 0 = true ∧ recOf s j.group j.record = some x ∧ x.parts[j.slotPos]? = some q
      ∧ m = (jobWords s x j.slotPos).length - j.wordPos ∧ m < j.bwords ∧ j.wordPos + m ≠ q.nPre + q.nPost ∧ 0 < q.nPre +
      q.nPost ∧ b = jobBlock j.slotPos 1 (codeBody 3 1 (((jobWords s x j.slotPos).drop j.wordPos).take m)).1 ∧ 32 + j.span +
      b.length ≤ j.size ∧ s.memInv ∧ m = 0) ∧
    (∃ (s : State) (h : ReqHdr) (p : List Byte) (n : Nat) (m : Nat) (j : Job) (rest : List Job) (x : Record) (q : RecPart) (b
      : List Byte), Spec.ready 0x0902 h p n s ∧ s.cop = j :: rest ∧ j.running = true ∧ j.started = true ∧ j.tag =
      BitVec.ofNat 16 (rd p 0 2) ∧ bit j.options 0 = true ∧ recOf s j.group j.record = some x ∧ x.parts[j.slotPos]? = some q
      ∧ m = (jobWords s x j.slotPos).length - j.wordPos ∧ m < j.bwords ∧ j.wordPos + m ≠ q.nPre + q.nPost ∧ 0 < q.nPre +
      q.nPost ∧ b = jobBlock j.slotPos 1 (codeBody 3 1 (((jobWords s x j.slotPos).drop j.wordPos).take m)).1 ∧ 32 + j.span +
      b.length ≤ j.size ∧ s.memInv ∧ 0 < m) ∧
    (∃ (s : State) (h : ReqHdr) (p : List Byte) (n : Nat), Spec.ready 0x0903 h p n s ∧ (∃ j ∈ s.cop, j.tag = BitVec.ofNat 16
      (rd p 0 2))) :=
  ⟨⟨base, hdr 16, [31, 1, 95, 2, 255, 255, 255, 255, 0, 16, 0, 0, 64, 0, 0, 0], 1, 31, ready_of (by decide +kernel), by
     and_intros <;> decide +kernel⟩,
   ⟨{ base with wick.loop := [(31, { defd := true, cfg := { period := 4096 }, run := { mode := .closed } })] }, hdr 4, [31,
     2, 1, 0], 1, 31, ready_of (by decide +kernel), rfl, by decide, by decide, by decide, rfl, rfl, fun h => absurd h (by
     decide)⟩,
   ⟨base, hdr 64, ([31, 2, 4] ++ zeros 29 ++ [1] ++
     zeros 31), 1, 31, { safeState := 2, staleMax := 4, rSet := 0, ki := 0, iMin := 0, iMax := 0, kv := 0, vNom := 0, ka := 0, h := 1, tOnMin := 0, tOffMin := 0, lFe := 0, tFe := 0, nFrz := 0, ffHold := 0 },
     ready_of (by decide +kernel), by
     and_intros <;> decide +kernel⟩,
   ⟨{ base with rm.plan := [64, 64, 64, 64, 64], wick.loop := [(31, { defd := true, cfg := { period := 4096 }, run := { mode := .closed } })] },
     hdr 164, ([31, 0, 0, 0, 1, 0, 0, 0, 64, 0, 0, 0, 0, 0, 6, 0, 0, 0, 0, 0, 0, 0, 0, 0, 0, 64, 143, 64] ++ zeros 136), 1,
     31, injectOf ([31, 0, 0, 0, 1, 0, 0, 0, 64, 0, 0, 0, 0, 0, 6, 0, 0, 0, 0, 0, 0, 0, 0, 0, 0, 64, 143, 64] ++ zeros 136),
     ready_of (by decide +kernel), by
     and_intros <;> decide +kernel⟩,
   ⟨base, hdr 8, ([1] ++ zeros 7), 1, 204800, ready_of (by decide +kernel), rfl, by decide, by decide, by decide⟩,
   ⟨base, hdr 6, [0, 0, 7, 1, 31, 31], 1, ready_of (by decide +kernel), by decide, by decide, rfl, by decide +kernel⟩,
   ⟨{ base with rm.plan := [64, 64, 64, 64, 64], trg.grp := [(7, { recs := [{ rec0 with complete := true }] })] }, hdr 24,
     ([0, 0, 7, 0, 0, 0, 0, 0, 0, 0, 6, 0, 64, 0, 0, 0, 0, 16] ++ zeros 6), 1, 393216, 458752, { rec0 with complete := true },
     ready_of (by decide +kernel), by decide, rfl, rfl, rfl, rfl, rfl, by decide, by decide, rfl, by decide, by decide,
     by decide, rfl, Or.inr rfl, by decide +kernel, nofun⟩,
   ⟨{ base with cop := [{ job0 with running := true, started := true, options := 1, size := 4096 }], trg.grp := [(0, { recs := [{ rec0 with parts := [{ slot := 0, dkind := 0, rate := 0, first := 0, nPre := 0, nPost := 5, words := [] }] }] })] },
     hdr 4, [1, 0, 0, 0], 1, 0, { job0 with running := true, started := true, options := 1, size := 4096 }, [], { rec0 with parts := [{ slot := 0, dkind := 0, rate := 0, first := 0, nPre := 0, nPost := 5, words := [] }] },
     { slot := 0, dkind := 0, rate := 0, first := 0, nPre := 0, nPost := 5, words := [] }, jobBlock 0 1 (codeBody 3 1 []).1,
     ready_of (by decide +kernel), rfl, rfl, rfl, rfl, by decide +kernel, rfl, rfl, rfl, by decide +kernel, by
     decide +kernel, by decide +kernel, rfl, by decide +kernel, ⟨rfl, rfl⟩, rfl⟩,
   ⟨{ base with cop := [{ job0 with running := true, started := true, options := 1, size := 4096 }], trg.grp := [(0, { recs := [{ rec0 with parts := [{ slot := 0, dkind := 0, rate := 0, first := 0, nPre := 0, nPost := 5, words := [5, 6] }] }] })] },
     hdr 4, [1, 0, 0, 0], 1, 2, { job0 with running := true, started := true, options := 1, size := 4096 }, [], { rec0 with parts := [{ slot := 0, dkind := 0, rate := 0, first := 0, nPre := 0, nPost := 5, words := [5, 6] }] },
     { slot := 0, dkind := 0, rate := 0, first := 0, nPre := 0, nPost := 5, words := [5, 6] }, jobBlock 0 1 (codeBody 3 1 [5,
     6]).1, ready_of (by decide +kernel), rfl, rfl, rfl, rfl, by decide +kernel, rfl, rfl, rfl, by decide +kernel, by
     decide +kernel, by decide +kernel, rfl, by decide +kernel, ⟨rfl, rfl⟩, by decide +kernel⟩,
   ⟨{ base with cop := [job0] }, hdr 4, [1, 0, 0, 0], 1, ready_of (by decide +kernel), ⟨job0, List.mem_singleton.2 rfl, rfl⟩⟩⟩

theorem wit_FunctionCommands :
    (∃ (s : State) (h : ReqHdr) (p : List Byte) (n : Nat) (id : Nat), Spec.ready 0x0A01 h p n s ∧ id = h.func.toNat ∧
      fnExists id = true ∧ (fnOf s id).held = false ∧ (fnOf s id).testing = false ∧ (fnOf s id).starting = false ∧ fnState s
      id = .off) ∧
    (∃ (s : State) (h : ReqHdr) (p : List Byte) (n : Nat) (id : Nat), Spec.ready 0x0A01 h p n s ∧ id = h.func.toNat ∧
      fnExists id = true ∧ (fnOf s id).held = false ∧ (fnOf s id).testing = false ∧ (fnOf s id).starting = false ∧ fnState s
      id = .draining) ∧
    (∃ (s : State) (h : ReqHdr) (p : List Byte) (n : Nat) (id : Nat), Spec.ready 0x0A01 h p n s ∧ id = h.func.toNat ∧
      fnExists id = true ∧ (fnOf s id).held = false ∧ (fnOf s id).testing = false ∧ (fnOf s id).starting = false ∧ fnState s
      id = .running) ∧
    (∃ (s : State) (h : ReqHdr) (p : List Byte) (n : Nat) (id : Nat) (o : Owed), Spec.ready 0x0A02 h p n s ∧ id =
      h.func.toNat ∧ fnExists id = true ∧ o = Spec.owes 0x0A02 h) ∧
    (∃ (s : State) (h : ReqHdr) (p : List Byte) (n : Nat) (id : Nat) (o : Owed), Spec.ready 0x0A03 h p n s ∧ id =
      h.func.toNat ∧ fnExists id = true ∧ o = Spec.owes 0x0A03 h ∧ ((fnState s id = .running ∧ (fnOf s id).renew = none ∧
      (fnOf s id).testing = false ∧ fnSession s id = none ∧ ∀ c ∈ renewRefusals s h.mbx.val id n, c.1 = false) ∨ ((fnState s id
      = .off ∨ fnState s id = .fault) ∧ (fnOf s id).held = false ∧ (fnOf s id).testing = false ∧ (fnOf s id).starting =
      false))) ∧
    (∃ (s : State) (h : ReqHdr) (p : List Byte) (n : Nat) (k : Nat) (op : Nat) (c : Instr), Spec.ready op h p n s ∧ k =
      h.func.toNat ∧ (op = 0x0A10 ∧ c = .legacySubstitute h p ∧ bit h.flags.toNat 1 = true ∧ k ≤ 511 ∨ op = 0x0F10 ∧ c =
      .l2Subst h p ∧ k ≤ 127) ∧ bankInSession s (k / 32) = false ∧ fnState s k ≠ .renewing ∧ fnState s (512 + k / 32) ≠
      .renewing ∧ (chanOf s (512 + k / 32)).route = .parked ∧ (bankSt s (k / 32)).legacyHeld = false) ∧
    (∃ (s : State) (h : ReqHdr) (p : List Byte) (n : Nat) (k : Nat) (op : Nat) (c : Instr), Spec.ready op h p n s ∧ k =
      h.func.toNat ∧ (op = 0x0A11 ∧ c = .legacyRelease h p ∧ bit h.flags.toNat 1 = true ∧ k ≤ 511 ∨ op = 0x0F11 ∧ c =
      .l2Unsubst h p ∧ k ≤ 127) ∧ bankInSession s (k / 32) = false ∧ (bankSt s (k / 32)).legacyHeld = true ∧ (∃ m, (bankSt s
      (k / 32)).deliver = some (k % 32, m))) :=
  ⟨⟨{ base with fn := [(5, { state := .off })] }, hdr 0 (func := 5), [], 1, 5, ready_of (by decide +kernel), rfl, rfl, rfl,
    rfl, rfl, rfl⟩,
   ⟨{ base with fn := [(5, { state := .draining })] }, hdr 0 (func := 5), [], 1, 5, ready_of (by decide +kernel), rfl, rfl,
     rfl, rfl, rfl, rfl⟩,
   ⟨base, hdr 0 (func := 5), [], 1, 5, ready_of (by decide +kernel), rfl, rfl, rfl, rfl, rfl, rfl⟩,
   ⟨base, hdr 0 (func := 5), [], 1, 5, Spec.owes 0x0A02 (hdr 0 (func := 5)), ready_of (by decide +kernel), rfl, rfl, rfl⟩,
   ⟨base, hdr 0 (func := 5), [], 1, 5, Spec.owes 0x0A03 (hdr 0 (func := 5)), ready_of (by decide +kernel), rfl, rfl, rfl,
     Or.inl ⟨rfl, rfl, rfl, rfl, by decide +kernel⟩⟩,
   ⟨base, hdr 0 (flags := 2) (func := 511), [], 1, 511, 0x0A10, .legacySubstitute (hdr 0 (flags := 2) (func := 511)) [],
     ready_of (by decide +kernel), rfl, Or.inl ⟨rfl, rfl, rfl, by decide⟩, rfl, by decide +kernel, by decide +kernel, rfl,
     rfl⟩,
   ⟨{ base with fe.bank := [(15, { legacyHeld := true, deliver := some (31, 5) })] }, hdr 0 (flags := 2) (func := 511), [],
     1, 511, 0x0A11, .legacyRelease (hdr 0 (flags := 2) (func := 511)) [], ready_of (by decide +kernel), rfl, Or.inl ⟨rfl,
     rfl, rfl, by decide⟩, rfl, rfl, ⟨5, rfl⟩⟩⟩

theorem wit_PlaneAndFirmwareCommands :
    (∃ (s : State) (h : ReqHdr) (p : List Byte) (n : Nat), Spec.ready 0x0A20 h p n s ∧ s.tb.state ≠ .unset) ∧
    (∃ (s : State) (h : ReqHdr) (p : List Byte) (n : Nat), Spec.ready 0x0A21 h p n s ∧ (∀ e ∈ s.str.s, e.2.enabled = false) ∧
      (∀ e ∈ s.trg.grp, e.2.armed = false) ∧ (∀ e ∈ s.wick.loop, e.2.defd = true → modeAt e.2 n = .off)) ∧
    (∃ (s : State) (h : ReqHdr) (p : List Byte) (n : Nat) (k : Nat), Spec.ready 0x0B02 h p n s ∧ k = rd p 0 1 ∧ k ≤ 1 ∧ 1 ≤
      rd p 2 2 ∧ rd p 2 2 ≤ 232 ∧ p.length = 8 + rd p 2 2 ∧ rd p 4 4 + rd p 2 2 ≤ fwMaxOf s ∧ s.pwr.fwRun ≠ some k ∧ (∀ u,
      s.pwr.fwUpdate = some u → u.probation = false ∨ u.prev ≠ k)) ∧
    (∃ (s : State) (h : ReqHdr) (p : List Byte) (n : Nat), Spec.ready 0x0B03 h p n s ∧ rd p 0 1 ≤ 1) ∧
    (∃ (s : State) (h : ReqHdr) (p : List Byte) (n : Nat) (k : Nat), Spec.ready 0x0B04 h p n s ∧ k = rd p 0 1 ∧ k ≤ 1 ∧
      s.pwr.fwUpdate = none ∧ tget s.pwr.fwState k 0 = 2) ∧
    (∃ (s : State) (h : ReqHdr) (p : List Byte) (n : Nat) (k : Nat), Spec.ready 0x0F02 h p n s ∧ k = rd p 0 1 ∧ k ≤ 127 ∧ rd
      p 1 1 ≤ 1 ∧ rd p 2 1 ≤ 7 ∧ (rd p 1 1 = 0 → (chanOf s k).enabled = true → streamCarries s k = false ∧ usesSlot s k =
      false)) :=
  ⟨⟨{ base with tb.state := .locked }, hdr 0, [], 1, ready_of (by decide +kernel), by decide⟩,
   ⟨base, hdr 0, [], 1, ready_of (by decide +kernel), List.forall_mem_nil _, List.forall_mem_nil _, List.forall_mem_nil _⟩,
   ⟨{ base with pwr.boot := some bootBlk, pwr.fwRun := some 0 }, hdr 9, ([1, 0, 1] ++ zeros 6), 1, 1, ready_of (by
     decide +kernel), rfl, by decide, by decide, by decide, rfl, by decide, by decide, nofun⟩,
   ⟨base, hdr 4, [1, 0, 0, 0], 1, ready_of (by decide +kernel), by decide⟩,
   ⟨{ base with pwr.fwState := [(1, 2)] }, hdr 4, [1, 0, 0, 0], 1, 1, ready_of (by decide +kernel), rfl, by decide, rfl, rfl⟩,
   ⟨base, hdr 4, [127, 1, 7, 0], 1, 127, ready_of (by decide +kernel), rfl, by decide, by decide, by decide, by decide +kernel⟩⟩

theorem wit_StagedChanges :
    (∃ (h : ReqHdr), bit h.flags.toNat 0 = false) ∧
    (∃ (h : ReqHdr) (cur : Nat) (d : Nat), bit h.flags.toNat 0 = true ∧ d < 2 ^ 32 ∧ h.applyTick.toNat = (cur + d) % 2 ^ 32 ∧
      0 < d ∧ d ≤ 2 ^ 24) ∧
    (∃ (h : ReqHdr) (cur : Nat) (d : Nat), bit h.flags.toNat 0 = true ∧ d < 2 ^ 32 ∧ h.applyTick.toNat = (cur + d) % 2 ^ 32 ∧
      2 ^ 24 < d ∧ d < 2 ^ 31) ∧
    (∃ (h : ReqHdr) (cur : Nat) (d : Nat), bit h.flags.toNat 0 = true ∧ d < 2 ^ 32 ∧ h.applyTick.toNat = (cur + d) % 2 ^ 32 ∧
      (d = 0 ∨ 2 ^ 31 ≤ d)) ∧
    (∃ (s : State) (h : ReqHdr) (p : List Byte), Spec.taken 0x0D04 h p none s) ∧
    (∃ (s : State) (h : ReqHdr) (h' : ReqHdr) (p : List Byte) (p' : List Byte) (n : Nat) (g : Staged), Spec.taken 0x0220 h p
      (some n) s ∧ s.mbx.staged = [g] ∧ n < g.tick ∧ g.cmd = .linSet h' p' ∧ g.parts = [p'] ∧ rd p' 0 2 = rd p 0 2 ∧ isBadArg
      (chkLinSet s { h, op := 0x0220, parts := [p], tick := n }) = false) ∧
    (∃ (s : State) (h : ReqHdr) (p : List Byte) (n : Nat), Spec.taken 0x0D04 h p (some n) s ∧ (∀ g ∈ s.mbx.staged, n <
      g.tick) ∧ 512 ≤ s.mbx.staged.length + s.chd.held.length ∧ rd p 0 1 ≤ 1 ∧ rd p 1 1 ≤ 7 ∧ (BitVec.ofNat 128 (rdB p 4 16)
      ≠ 0 → onLink s (BitVec.ofNat 128 (rdB p 4 16)) = true)) ∧
    (∃ (s : State) (h : ReqHdr) (p : List Byte) (n : Option Nat), Spec.taken 0x0501 h p n s ∧ (∀ k, k < 8 → (boxOf s k).asm =
      []) ∧ rd p 2 1 = 0 ∧ rd p 0 2 = 0 ∧ (∀ st d, chkPart 0x0501 0 p ≠ .refuse st d)) ∧
    (∃ (s : State) (h : ReqHdr) (p : List Byte) (n : Option Nat), Spec.taken 0x0501 h p n s ∧ (∀ k, k < 8 → (boxOf s k).asm =
      []) ∧ rd p 2 1 = 0 ∧ 0 < rd p 0 2) :=
  ⟨⟨hdr 0, rfl⟩,
   ⟨hdr 0 (flags := 1) (tick := 16777221), 5, 16777216, rfl, by decide, rfl, by decide, by decide⟩,
   ⟨hdr 0 (flags := 1) (tick := 16777222), 5, 16777217, rfl, by decide, rfl, by decide, by decide⟩,
   ⟨hdr 0 (flags := 1) (tick := 5), 5, 0, rfl, by decide, rfl, Or.inl rfl⟩,
   ⟨base, hdr 20 (flags := 1), (zeros 20), taken_of (by decide +kernel)⟩,
   ⟨{ base with mbx.staged := [{ tick := 2, opcode := 0x0220, hdr := hdr 224, cmd := .linSet (hdr 224) ([255, 1, 95, 2, 0, 0, 36, 244, 0, 0, 0, 0, 0, 0, 240, 63, 0, 0, 0, 0, 0, 0, 240, 63] ++ zeros 200), parts := [([255, 1, 95, 2, 0, 0, 36, 244, 0, 0, 0, 0, 0, 0, 240, 63, 0, 0, 0, 0, 0, 0, 240, 63] ++ zeros 200)] }] },
     hdr 224, hdr 224, ([255, 1, 95, 2, 0, 0, 36, 244, 0, 0, 0, 0, 0, 0, 240, 63, 0, 0, 0, 0, 0, 0, 240, 63] ++ zeros 200),
     ([255, 1, 95, 2, 0, 0, 36, 244, 0, 0, 0, 0, 0, 0, 240, 63, 0, 0, 0, 0, 0, 0, 240, 63] ++ zeros 200), 1, { tick := 2, opcode := 0x0220, hdr := hdr 224, cmd := .linSet (hdr 224) ([255, 1, 95, 2, 0, 0, 36, 244, 0, 0, 0, 0, 0, 0, 240, 63, 0, 0, 0, 0, 0, 0, 240, 63] ++ zeros 200), parts := [([255, 1, 95, 2, 0, 0, 36, 244, 0, 0, 0, 0, 0, 0, 240, 63, 0, 0, 0, 0, 0, 0, 240, 63] ++ zeros 200)] },
     taken_of (by decide +kernel), rfl, by decide, rfl, rfl, rfl, by decide +kernel⟩,
   ⟨{ base with mbx.staged := List.replicate 512 (stg 2) }, hdr 20, ([1, 7] ++ zeros 18), 1, taken_of (by decide +kernel), by
     rw [List.forall_mem_replicate]; exact Or.inr (by decide), by decide +kernel, by decide, by decide, by decide +kernel⟩,
   ⟨base, hdr 50, ([0, 0, 0, 0, 63, 0, 0, 0, 1, 0, 1, 0, 0, 0, 0, 0, 1, 0, 0, 0, 64, 0, 0, 0, 2] ++ zeros 25), some 1,
     taken_of (by decide +kernel), by decide, rfl, rfl, (by intro st d h; rw [show chkPart 0x0501 0 ([0, 0, 0, 0, 63, 0, 0,
     0, 1, 0, 1, 0, 0, 0, 0, 0, 1, 0, 0, 0, 64, 0, 0, 0, 2] ++ zeros 25) = .reply 0 [] from by decide +kernel] at h; cases
     h)⟩,
   ⟨base, hdr 50, ([1, 0, 0, 0, 63, 0, 0, 0, 1, 0, 1, 0, 0, 0, 0, 0, 1, 0, 0, 0, 64, 0, 0, 0, 2] ++ zeros 25), some 1,
     taken_of (by decide +kernel), by decide, rfl, by decide⟩⟩

theorem wit_FirstGridIndex :
    (∃ (c : Nat) (f : Nat), (c, f) ∈ [(0, 50000), (1, 20000), (2, 10000), (3, 5000), (4, 2000), (5, 1000), (6, 500), (7,
      200), (8, 100), (9, 50), (10, 20), (11, 10), (15, 1600000)]) ∧
    (∃ (q : Nat), 0 < q) :=
  ⟨⟨15, 1600000, by decide⟩,
   ⟨1, by decide⟩⟩

theorem wit_MonitorBins :
    (∃ (s : State) (m : Nat) (cls : Nat) (i : Nat) (x : Int) (b : Nat), (monOf s m).running = true ∧ (monOf s m).source = cls
      * 4096 + i ∧ 1 ≤ (monOf s m).binW ∧ fnState s (fnMon m) = .running ∧ (fnOf s (fnMon m)).held = false ∧ b = (max 0 (min
      63 ((x - (monOf s m).binLo) / ((monOf s m).binW : Int)))).toNat ∧ x < (monOf s m).binLo) ∧
    (∃ (s : State) (m : Nat) (cls : Nat) (i : Nat) (x : Int) (b : Nat), (monOf s m).running = true ∧ (monOf s m).source = cls
      * 4096 + i ∧ 1 ≤ (monOf s m).binW ∧ fnState s (fnMon m) = .running ∧ (fnOf s (fnMon m)).held = false ∧ b = (max 0 (min
      63 ((x - (monOf s m).binLo) / ((monOf s m).binW : Int)))).toNat ∧ (monOf s m).binLo + 63 * ((monOf s m).binW : Int) ≤
      x) ∧
    (∃ (s : State) (m : Nat) (cls : Nat) (i : Nat) (x : Int) (b : Nat) (j : Nat), (monOf s m).running = true ∧ (monOf s
      m).source = cls * 4096 + i ∧ 1 ≤ (monOf s m).binW ∧ fnState s (fnMon m) = .running ∧ (fnOf s (fnMon m)).held = false ∧
      b = (max 0 (min 63 ((x - (monOf s m).binLo) / ((monOf s m).binW : Int)))).toNat ∧ j ≠ b) ∧
    (∃ (s : State) (h : ReqHdr) (p : List Byte) (n : Nat), Spec.ready 0x0C01 h p n s ∧ rd p 0 1 ≤ 31 ∧ monSourceOk (rd p 2 2)
      = true ∧ 1 ≤ rd p 8 4 ∧ rd p 8 4 ≤ 2 ^ 31) ∧
    (∃ (s : State) (h : ReqHdr) (p : List Byte) (n : Nat), Spec.ready 0x0C01 h p n s ∧ rd p 0 1 ≤ 31 ∧ monSourceOk (rd p 2 2)
      = true ∧ (rd p 8 4 = 0 ∨ 2 ^ 31 < rd p 8 4)) :=
  ⟨⟨{ base with mon := [(31, { running := true, source := 4099 })] }, 31, 1, 3, -1, 0, by
     and_intros <;> decide +kernel⟩,
   ⟨{ base with mon := [(31, { running := true, source := 4099 })] }, 31, 1, 3, 63, 63, by
     and_intros <;> decide +kernel⟩,
   ⟨{ base with mon := [(31, { running := true, source := 4099 })] }, 31, 1, 3, 5, 5, 4, by
     and_intros <;> decide +kernel⟩,
   ⟨base, hdr 12, [31, 0, 3, 16, 0, 0, 0, 0, 1, 0, 0, 0], 1, ready_of (by decide +kernel), by decide, rfl, by decide +kernel,
     by decide +kernel⟩,
   ⟨base, hdr 12, ([31, 0, 3, 16] ++ zeros 8), 1, ready_of (by decide +kernel), by decide, rfl, Or.inl rfl⟩⟩

theorem wit_PlaneNeedsTime :
    (∃ (s : State) (h : ReqHdr) (p : List Byte) (n : Nat), Spec.ready 0x0A20 h p n s ∧ s.tb.state = .unset) ∧
    (∃ (s : State) (h : ReqHdr) (p : List Byte) (n : Nat), Spec.ready 0x0703 h p n s ∧ rd p 0 4 < 1000000000 ∧ rd p 8 8 < 2 ^
      48 ∧ s.pwr.plane = false) ∧
    (∃ (s : State) (h : ReqHdr) (p : List Byte) (n : Nat), Spec.ready 0x0A20 h p n s ∧ s.tb.state = .holdover) :=
  ⟨⟨base, hdr 0, [], 1, ready_of (by decide +kernel), rfl⟩,
   ⟨base, hdr 16, [255, 201, 154, 59, 0, 0, 0, 0, 255, 255, 255, 255, 255, 255, 0, 0], 1, ready_of (by decide +kernel), by
     decide +kernel, by decide +kernel, rfl⟩,
   ⟨{ base with tb.state := .holdover }, hdr 0, [], 1, ready_of (by decide +kernel), rfl⟩⟩

theorem wit_EveryCommandAnswers :
    (∃ (c : Instr) (addr : Nat) (len : Nat) (errs : List SymErr), c = .bar2Read addr len errs ∧ addr + len ≤ 67108864) ∧
    (∃ (c : Instr) (addr : Nat) (data : List Byte), c = .bar2Write addr data ∧ addr + data.length ≤ 67108864) ∧
    (∃ (c : Instr), (∀ addr len errs, c = .bar2Read addr len errs → addr + len ≤ 67108864) ∧ (∀ addr data, c = .bar2Write addr
      data → addr + data.length ≤ 67108864)) :=
  ⟨⟨.bar2Read 67108856 8 [], 67108856, 8, [], rfl, by decide⟩,
   ⟨.bar2Write 67108856 [0], 67108856, [0], rfl, by decide⟩,
   ⟨.bar2Read 67108856 8 [], by rintro a l e ⟨⟩; decide, nofun⟩⟩

end Sys2Proof.Tests
end

section
/-! PROOFS. The time base: the first grid sample of a tick (R68), and the data plane's wait for the time (R51, R74, R460). -/
namespace Sys2Proof.Machine

/-! ### The grid of samples (R67, R68) -/

/-- The rate codes of R67 whose rate is a whole number of Hz, with that rate. -/
def wholeRates : List (Nat × Nat) :=
  [(0, 50000), (1, 20000), (2, 10000), (3, 5000), (4, 2000), (5, 1000), (6, 500), (7, 200), (8, 100), (9, 50), (10, 20), (11, 10),
   (15, 1600000)]

theorem rateRefs_of_mem_wholeRates : ∀ e ∈ wholeRates, refsPerSec / e.2 = rateRefs e.1 ∧ 0 < rateRefs e.1 := by decide

/-- An index is at or behind the first one of a tick exactly when its instant is at or after the tick's boundary. -/
theorem n0_le_iff {refs : Nat} (pos : 0 < refs) (tick k : Nat) : n0 tick refs ≤ k ↔ tick * tickRefs ≤ k * refs := by
  have rounded : n0 tick refs < k + 1 ↔ tick * tickRefs + refs - 1 < (k + 1) * refs := Nat.div_lt_iff_lt_mul pos
  have step : (k + 1) * refs = k * refs + refs := Nat.succ_mul k refs
  omega

/-- Settles O57: the rates from their table, and the index by what a rounded-up quotient is at most. -/
theorem firstGridIndex : Obligations.FirstGridIndex := by
  refine ⟨fun c f hm => rateRefs_of_mem_wholeRates (c, f) hm, fun tick q pos => ⟨?_, n0_le_iff pos tick⟩⟩
  show (tick * 2 ^ 20 + q - 1) / q = _
  rw [Nat.add_sub_assoc pos]

/-! ### What the start of the data plane leaves of the power state (R460)

Its effect goes through the slots and the enabled streams; each of these steps keeps `pwr`. -/

theorem forN_field {β : Type} (g : State → β) (n : Nat) (f : State → Nat → State) (hf : ∀ s k, g (f s k) = g s) (s : State) :
    g (forN n s f) = g s := foldl_field g f hf _ s

theorem forAll_field {α β : Type} (g : State → β) (xs : List α) (f : State → α → State) (hf : ∀ s x, g (f s x) = g s) (s : State) :
    g (forAll xs s f) = g s := foldl_field g f hf xs s

@[simp] theorem onRed_pwr (s : State) (j : Nat) (f : RedInst → RedInst) : (s.onRed j f).pwr = s.pwr := rfl

@[simp] theorem sendGone_pwr (i : Nat) (b : Block) (s : State) : (sendGone i b s).pwr = s.pwr := by
  refine forAll_field State.pwr _ _ (fun s r => ?_) s
  split
  · rfl
  · split <;> rfl

@[simp] theorem dropBlock_pwr (i : Nat) (gone : Option (Nat × Bool)) (b : Block) (s : State) : (dropBlock i gone b s).pwr = s.pwr := by
  unfold dropBlock
  dsimp only
  rw [apply_ite State.pwr, monValue_pwr, ite_self, onStr_pwr]

theorem overwriteOldest_pwr {i : Nat} {keep : Option (BitVec 32)} {s t : State} (h : overwriteOldest i keep s = some t) : t.pwr = s.pwr := by
  unfold overwriteOldest at h
  split at h
  · cases h
  · obtain rfl := Option.some.inj h
    rw [dropBlock_pwr, sendGone_pwr]

@[simp] theorem makeRoom_pwr (fuel i : Nat) (keep : Option (BitVec 32)) (n : Nat) (s : State) : (makeRoom fuel i keep n s).pwr = s.pwr := by
  induction fuel generalizing s with
  | zero => rfl
  | succ fuel ih =>
    unfold makeRoom
    split
    · rfl
    · split
      next t overwritten => rw [ih, overwriteOldest_pwr overwritten]
      next => rfl

@[simp] theorem openBlock_pwr (i m : Nat) (s : State) : (openBlock i m s).pwr = s.pwr := by
  unfold openBlock
  dsimp only
  split
  · rw [makeRoom_pwr]
  · rw [onStr_pwr, makeRoom_pwr]

@[simp] theorem rebaseStream_pwr (i : Nat) (s : State) : (rebaseStream i s).pwr = s.pwr := by
  unfold rebaseStream
  dsimp only
  rw [apply_ite State.pwr, openBlock_pwr, ite_self, forAll_field State.pwr, onStr_pwr, forAll_field State.pwr]
  case hf => exact fun s b => dropBlock_pwr i none b s
  case hf =>
    intro s j
    split
    · split <;> rfl
    · rfl

/-- A part of the state that neither a slot's nor a stream's change touches is, once PLANE_START has taken effect, what the
start of a stopped plane left there. -/
theorem appPlaneStart_field {β : Type} (g : State → β) (chan : ∀ s n f, g (State.onChan s n f) = g s)
    (stream : ∀ i s, g (rebaseStream i s) = g s) (r : Req) (s : State) :
    g (appPlaneStart r s) = if s.pwr.plane then g s
      else g ((s.onPwr fun p => { p with plane := true }).onChd fun c => { c with round := applyT s / 512 }) := by
  unfold appPlaneStart
  split
  · rfl
  · dsimp only
    rw [forN_field g 64, forN_field g 544, forN_field g 528]
    · exact fun s n => chan s n _
    · intro s n
      split
      · exact chan s n _
      · rfl
    · intro s i
      split
      · exact stream i s
      · rfl

/-- After PLANE_START has taken effect the data plane runs. -/
theorem appPlaneStart_plane (r : Req) (s : State) : (appPlaneStart r s).pwr.plane = true := by
  rw [appPlaneStart_field State.pwr onChan_pwr rebaseStream_pwr]
  split
  next running => exact running
  next => rfl

/-! ### The checks of PLANE_START and TIME_SET (R51, R74, R460) -/

theorem chkPlaneStart_unset {s : State} (r : Req) (h : s.tb.state = .unset) : chkPlaneStart s r = .refuse .functionState 0 := by
  simp only [chkPlaneStart, h, decide_true, firstOf]

theorem chkPlaneStart_set {s : State} (r : Req) (h : s.tb.state ≠ .unset) : chkPlaneStart s r = .stage .ok 0 :=
  firstOf_pass _ _ (by simpa using h)

theorem chkTimeSet_pass {s : State} {r : Req} (ns : rd r.p 0 4 < 1000000000) (sec : rd r.p 8 8 < 2 ^ 48) (plane : s.pwr.plane = false) :
    chkTimeSet s r = .stage .ok 0 :=
  firstOf_pass _ _ (by simpa [plane] using ⟨ns, sec⟩)

@[simp] theorem enterTime_state (x : TimeState) (s : State) : (enterTime x s).tb.state = x := rfl

/-- TIME_SET leaves the time state HOLDOVER. -/
theorem appTimeSet_state (r : Req) (s : State) : (appTimeSet r s).tb.state = .holdover := enterTime_state ..

@[simp] theorem takenState_tb (op : Nat) (h : ReqHdr) (p : List Byte) (s : State) : (takenState op h p s).tb = s.tb := rfl

theorem opInfo_planeStart : opInfo 0x0A20 = some { op := 0x0A20, cls := 4, lo := 0, hi := 0 } := rfl

theorem opInfo_timeSet : opInfo 0x0703 = some { op := 0x0703, cls := 4, lo := 16, hi := 16, res := [4, 5, 6, 7] } := rfl

/-- Settles O59: the check of PLANE_START reads the time state, and the effects at the ticks are those of `appTimeSet` and
`appPlaneStart`. -/
theorem planeNeedsTime : Obligations.PlaneNeedsTime := by
  refine ⟨fun s h p n rdy unset => ?_, fun s h p n rdy ns sec stopped => ?_, fun s h p n rdy hold => ?_⟩
  · have check := chkPlaneStart_unset (s := takenState 0x0A20 h p s) (soleReq 0x0A20 h p n) unset
    obtain ⟨t, run, answer, staged, -, -, -, -, -, frame⟩ :=
      refused_of 0x0A20 n 0 .functionState (.planeStart h p) h p s _ rdy rfl opInfo_planeStart rfl (by decide) (by decide) (.inl (by decide)) check rfl
    exact ⟨t, run, staged, by rw [frame], answer⟩
  · have check := chkTimeSet_pass (s := takenState 0x0703 h p s) (r := soleReq 0x0703 h p n) ns sec stopped
    exact stages_of 0x0703 n 0x3F0 .ok (.timeSet h p) h p s _ _ rdy rfl opInfo_timeSet rfl (by decide) (.inl rfl) check rfl rfl
      (appTimeSet_state (soleReq 0x0703 h p n))
  · have check := chkPlaneStart_set (s := takenState 0x0A20 h p s) (soleReq 0x0A20 h p n) (by rw [takenState_tb, hold]; nofun)
    exact stages_of 0x0A20 n 0xFFFF .ok (.planeStart h p) h p s _ _ rdy rfl opInfo_planeStart rfl (by decide) (.inl rfl) check rfl rfl
      (appPlaneStart_plane (soleReq 0x0A20 h p n))

end Sys2Proof.Machine
end

section
/-! PROOFS. The bins of a health monitor (R419). -/
namespace Sys2Proof.Machine

/-! ### The bin of a value -/

/-- The bin as the spec writes it: the quotient rounded down, clamped to 0 and 63. -/
theorem monBin_eq (lo : Int) (w : Nat) (x : Int) : monBin lo w x = (max 0 (min 63 ((x - lo) / (w : Int)))).toNat := by
  unfold monBin fdiv clampI
  rw [Int.fdiv_eq_ediv_of_nonneg _ (Int.natCast_nonneg w)]
  split
  · omega
  · split <;> omega

theorem monBin_le (lo : Int) (w : Nat) (x : Int) : monBin lo w x ≤ 63 := by
  rw [monBin_eq]
  omega

theorem monBin_of_lt {lo x : Int} {w : Nat} (width : 1 ≤ w) (below : x < lo) : monBin lo w x = 0 := by
  have negative : (x - lo) / (w : Int) < 0 := Int.ediv_neg_of_neg_of_pos (by omega) (by omega)
  rw [monBin_eq]
  omega

theorem monBin_of_ge {lo x : Int} {w : Nat} (width : 1 ≤ w) (above : lo + 63 * (w : Int) ≤ x) : monBin lo w x = 63 := by
  have last : 63 ≤ (x - lo) / (w : Int) := (Int.le_ediv_iff_mul_le (by omega)).2 (by omega)
  rw [monBin_eq]
  omega

/-! ### The value counted -/

@[simp] theorem monBankAdd_count (b : MonBank) (lo : Int) (w : Nat) (x : Int) : (monBankAdd b lo w x).count = b.count + 1 := rfl

/-- The value's bin counts one more, up to 2^32 − 1. -/
@[simp] theorem monBankAdd_bin (b : MonBank) (lo : Int) (w : Nat) (x : Int) :
    tget (monBankAdd b lo w x).bins (monBin lo w x) 0 = min (tget b.bins (monBin lo w x) 0 + 1) 4294967295 := tget_tset_same ..

theorem monBankAdd_bin_other (b : MonBank) (lo : Int) (w : Nat) (x : Int) {j : Nat} (other : j ≠ monBin lo w x) :
    tget (monBankAdd b lo w x).bins j 0 = tget b.bins j 0 := tget_tset_other _ _ _ _ _ other

/-- An update of every entry of a table reads as the update of what the table held, if it leaves the unlisted value. -/
theorem tget_map {α : Type} (t : Tab α) (f : Nat × α → Nat × α) (keys : ∀ e, (f e).1 = e.1) (k : Nat) (d : α) (unlisted : (f (k, d)).2 = d) :
    tget (t.map f) k d = (f (k, tget t k d)).2 := by
  induction t with
  | nil => exact unlisted.symm
  | cons e t ih =>
    obtain ⟨j, v⟩ := e
    simp only [List.map_cons, tget, keys]
    split
    next here => rw [here]
    next => exact ih

/-- A running monitor whose source gives a value counts it in its live bank. -/
theorem monOf_monValue {s : State} {m cls i : Nat} (x : Int) (running : (monOf s m).running = true) (source : (monOf s m).source = cls * 4096 + i)
    (state : fnState s (fnMon m) = .running) (held : (fnOf s (fnMon m)).held = false) :
    monOf (monValue s cls i x) m = { monOf s m with live := monBankAdd (monOf s m).live (monOf s m).binLo (monOf s m).binW x } := by
  unfold fnState fnOf at state
  unfold fnOf at held
  unfold monOf at running source
  unfold monOf monValue
  dsimp only
  rw [tget_map]
  · simp only [running, state, held, source, Bool.not_false, Bool.and_self, BEq.rfl, if_true]
  · exact fun e => by rw [apply_ite Prod.fst, ite_self]
  · rfl

/-! ### The check of MON_CONFIG -/

theorem opInfo_monConfig : opInfo 0x0C01 = some { op := 0x0C01, cls := 2, lo := 12, hi := 12, res := [1] } := rfl

section
variable {s : State} {r : Req} (mon : rd r.p 0 1 ≤ 31) (src : monSourceOk (rd r.p 2 2) = true)
include mon src

theorem chkMonConfig_width (low : 1 ≤ rd r.p 8 4) (high : rd r.p 8 4 ≤ 2 ^ 31) : chkMonConfig s r = .stage .ok 0 :=
  firstOf_pass _ _ (by simp [src]; omega)

theorem chkMonConfig_badWidth (bad : rd r.p 8 4 = 0 ∨ 2 ^ 31 < rd r.p 8 4) : chkMonConfig s r = badAt 8 := by
  have refused : (decide (rd r.p 8 4 = 0) || decide (2 ^ 31 < rd r.p 8 4)) = true := by simpa using bad
  have known : decide (31 < rd r.p 0 1) = false := decide_eq_false (by omega)
  simp only [chkMonConfig, firstOf, known, src, refused, Bool.not_true]

end

/-- Settles O58: a monitor's value goes into the bin of `monBin`, whose ends are open, and the check of MON_CONFIG reads `BIN_W`. -/
theorem monitorBins : Obligations.MonitorBins := by
  refine ⟨fun s m cls i x b running source width state held bin => ?_, fun s h p n rdy mon src => ⟨fun low high => ?_, fun bad => ?_⟩⟩
  · rw [← monBin_eq] at bin
    subst bin
    rw [monOf_monValue x running source state held]
    exact ⟨monBin_le .., monBin_of_lt width, monBin_of_ge width, monBankAdd_bin .., fun j other => monBankAdd_bin_other _ _ _ _ other, monBankAdd_count ..⟩
  · have check := chkMonConfig_width (s := takenState 0x0C01 h p s) (r := soleReq 0x0C01 h p n) mon src low high
    obtain ⟨t, -, run, answer, -⟩ := stages_of 0x0C01 n (fnMon (rd p 0 1)) .ok (.monConfig h p) h p s _ (fun _ _ => True) rdy rfl opInfo_monConfig rfl
      (by decide) (.inl rfl) check rfl rfl (fun _ => trivial)
    exact ⟨t, run, answer⟩
  · have check := chkMonConfig_badWidth (s := takenState 0x0C01 h p s) (r := soleReq 0x0C01 h p n) mon src bad
    obtain ⟨t, run, answer, staged, -⟩ :=
      refused_of 0x0C01 n 24 .badArgument (.monConfig h p) h p s _ rdy rfl opInfo_monConfig rfl (by decide) (by decide) (.inl (by decide)) check rfl
    exact ⟨t, run, staged, answer⟩

end Sys2Proof.Machine
end
